-- ==== Sys2Proof/Word.lean ====
section
/-! DEFINITION. The plain words of the Criell Architecture, revision 3 (00 R3: little-endian, bit 0 least significant). -/
namespace Sys2Proof

/-- A byte. -/
abbrev Byte := BitVec 8

/-- A 32-bit word: an instruction word, a vector or uniform register. -/
abbrev Word := BitVec 32

/-- A 64-bit value: a register pair, low register first (09 R199). -/
abbrev DWord := BitVec 64

/-- One bit for each lane of a warp; bit n is lane n (00 R3). -/
abbrev LaneMask := BitVec 32

end Sys2Proof
end

