-- ==== Sys2Proof/Config.lean ====
section
/-!
DEFINITION. What one implementation fixes and the manual leaves open. A constant without a body is a free value: nothing
can be proved of what it is, so a statement that holds, holds for every value of it. Each is named in the assumption log.
-/
namespace Sys2Proof.Config

/-- The choices the device makes and "does not say which" (07 R152, 12 R271, 06 R128): one fresh number for each choice. -/
opaque choice : Nat → Nat

/-- The content of the JRF mask ROM, measurement block 1 (03 R71). -/
opaque romImage : List Byte

/-- The content of the management processor's firmware, measurement block 2 (03 R71). -/
opaque mgmtImage : List Byte

/-- Stepping and fuse configuration, measurement block 3 (03 R71). -/
opaque fuses : List Byte

/-- JRF revision and stepping, as QUERY item 4 writes them (02 R33; the layout is not given). -/
opaque revision : BitVec 64

/-- The layout of a QUERY item (02 R33): the bytes written for the item's number and the figures it reports, where it is not given. -/
opaque queryLayout : Nat → List Nat → List Byte

/-- The stepping of the package, which migration compares (03 R63). -/
opaque stepping : BitVec 64

/-- The certificate chain in slot 0 and its digest list (03 R70). -/
opaque certificates : List Byte

/-- The body of an SPDM answer whose content the manual leaves to SPDM 1.3 (03 R70): by request and session state. -/
opaque spdmBody : Nat → List Byte → List Byte

/-- A signature with the device identity key over bytes (03 R70, R72). -/
opaque sign : List Byte → List Byte

/-- The contexts that the context table holds beyond one (02 R33: a full table gives NO_RESOURCE; its size is not given). -/
opaque moreContexts : Nat

/-- The contexts that the context table holds. -/
def contextCapacity : Nat := moreContexts + 1

end Sys2Proof.Config
end

