-- ==== Sys2Proof/Syntax.lean ====
section
/-!
DEFINITION. The syntax of the machine's steps: one constructor of `Instr` for each row of spec/opcode_table.json.
An instruction carries the fields of its words, each at the one position that 12 R259 (Table 12-1) gives it.
An event of the package carries what tells one occurrence of it from another: the unit it happens to, or the message
that arrives from outside.
-/
namespace Sys2Proof

/-- A source operand field: its uniform bit, its mold slot and its register number (12 R262, R263, R265). -/
structure Operand where
  uni  : Bool
  mold : BitVec 3
  reg  : BitVec 8
deriving DecidableEq, Repr

/-- The guard PG, PN (12 R267). -/
structure Guard where
  neg  : Bool
  pred : BitVec 3
deriving DecidableEq, Repr

/-- Every field of an instruction but its opcode (12 Table 12-1). A word that LEN leaves out reads as zero. -/
structure Fields where
  len   : BitVec 2
  f     : BitVec 6
  d     : BitVec 8
  guard : Guard
  stall : BitVec 4
  rm    : BitVec 3
  t     : BitVec 5
  a     : Operand
  b     : Operand
  c     : Operand
  e     : BitVec 20
  i     : BitVec 32
deriving DecidableEq, Repr

/-- A 256-byte flit (01 R14, Table 1-2). -/
structure Flit where
  seq     : BitVec 10
  ack     : BitVec 10
  nak     : Bool
  cls     : BitVec 3
  kind    : BitVec 4
  dst     : BitVec 10
  src     : BitVec 10
  credit  : BitVec 8
  low     : BitVec 8
  payload : List Byte
  crc     : BitVec 64
deriving DecidableEq, Repr

/-- What a package learns of a `.sys` operation that failed (01 R21, Table 1-4 DONE). -/
inductive FabricAnswer where
  | notPerformed | performed | unknown
deriving DecidableEq, Repr

/-- One line of a routing table: the port toward a package for a flit class (01 R17, R18). -/
structure Route where
  dst  : BitVec 10
  cls  : Nat
  port : Nat
deriving DecidableEq, Repr

/-- What a host request asks of device memory (02 R25). -/
inductive HostOp where
  | read (bytes : Nat)
  | write (data : List Byte)
  | atom (op : Nat) (ty : BitVec 5) (b c : BitVec 64)
deriving DecidableEq, Repr

/-- A host's CLASS 0 request at a package physical address (02 R25). -/
structure HostReq where
  host : BitVec 10
  pa   : Nat
  op   : HostOp
deriving DecidableEq, Repr

/-- A partition descriptor (03 R44, Table 3-1); `reserved` holds the bytes that must be zero, as one number. -/
structure PartDesc where
  pid      : Nat
  saveBw   : Nat
  guar     : BitVec 32
  margin   : BitVec 32
  lendTo   : BitVec 32
  hbm      : List (Nat × Nat)
  spad     : List (Nat × Nat)
  ports    : List Nat
  reserved : Nat
deriving DecidableEq, Repr

/-- A management-channel write to the configuration region other than a window register (03 R54, R67). -/
inductive ConfigWrite where
  | queue (queue : Nat) (die : Nat) (enable : Bool)
  | queueAddress (queue : Nat) (pa : Nat)
  | target (vector : Nat) (addr : BitVec 64) (pkg : BitVec 10) (cookie : BitVec 56)
deriving DecidableEq, Repr

/-- What the destination of a migration answers (03 R63). -/
structure MigrationDest where
  pkg       : BitVec 10
  stepping  : BitVec 64
  room      : Bool
  tasksFree : Bool
deriving DecidableEq, Repr

/-- The life-cycle states (03 R73, Table 3-7). -/
inductive LifeCycle where
  | manufacturing | provisioned | deployed | retired
deriving DecidableEq, Repr

/-- The two spaces built from bank groups (06 R129). -/
inductive BankSpace where
  | block | spad
deriving DecidableEq, Repr

/-- A bank group: of a core's block memory or of a die's scratchpad (06 Table 6-2). -/
structure GroupId where
  space : BankSpace
  home  : Nat
  group : Nat
deriving DecidableEq, Repr

/-- The outcome of a core's built-in self-test (11 R252). -/
inductive TestResult where
  | pass
  | banks (failed : List (Nat × Nat))
  | fail
deriving DecidableEq, Repr

/-- The word that a soft error strikes (11 R248, R249; 06 R134). -/
inductive ErrTarget where
  | vreg (warp reg lane : Nat)
  | ureg (warp reg : Nat)
  | pred (warp p lane : Nat)
  | moldWord (core bank word : Nat)
  | stackLine (warp line : Nat)
  | icache (core : Nat)
  | bankWord (group : GroupId) (bank row : Nat)
  | devLine (line : Nat)
deriving DecidableEq, Repr

/-- What a new virtual device is created with (02 R26, 03 R54, R59). -/
structure VDevSpec where
  pid      : Nat
  num      : Nat
  host     : BitVec 10
  configAt : Nat
  dies     : List Nat
deriving DecidableEq, Repr

/-- A member of a collective on another package, as its command arrives (20 R436, R437). -/
structure CollPeer where
  rank  : Nat
  op    : Nat
  ty    : BitVec 5
  bytes : Nat
  data  : List Byte
deriving DecidableEq, Repr

/-- The instruction rows of the opcode table (rows 112 to 274), named by mnemonic (13 R276). -/
inductive Op where
  | nop | bra | braFair | braPack | brx | call | ret | exit | join | rgang | rgangHome | yield | trap | bkpt
  | sleep | region | tret | loop | vote | ballot | qswz | qbcast | qvote | pset | pmovGet | pmovPut | sel
  | lanes | elect | add | sub | add3 | mul | mulhi | mad | madw | div | rem | min | max | abs | neg | sad
  | addc | subb | and | or | xor | andn | not | shl | shr | sra | rot | fsh | bfe | bfi | popc | clz | ctz
  | brev | bperm | setp | lea | mov | movi | movu | icvt | sat | csrr | csrw | clk | hb | fadd | fsub | fmul
  | fma | fmin | fmax | fmnum | fsetp | frcp | frsq | fsqrt | fdiv | fex2 | flg2 | fsin | fcos | fcvt
  | fround | fscale | fclass | fsel | quant | dequant | pack | unpack | rng | malloc | mfree | mbind
  | munbind | mload | mstore | mfill | mbmap | macc | mquery | msave | mrest | mstep | ldb | stb | ldd | std
  | ldk | stk | atom | red | fenceBlk | fenceClu | fenceDev | fenceSys | fenceTick | barInit | barArrive
  | barWait | barSync | barSyncSpec | barDebt | mon | wait | tflag | rfence | cp | cpg | cps | cpt | cpc
  | cpv | qfence | qwait | qwaitReplay | qwaitDiscard | mnopen | mnpush | mnfeed | mnisect | mndrain
  | mnresume | mnstat | mnclose | launch | tdep | signal | coll | evq | sysc | savew | restw | yieldb | perf
deriving DecidableEq, Repr

/-- A step of the machine: one constructor for each row of the opcode table.
The instructions come first, then the events that carry operands, then the JRF commands and management requests, which act
on the running command or the virtual device that the state's `focus` names. -/
inductive Instr where
  /-- NOP (R388). Has no effect and counts its STALL. -/
  | nop (x : Fields)
  /-- BRA (R379). Branches the taken lanes to PC + I, diverging the quad under R103. -/
  | bra (x : Fields)
  /-- BRA_FAIR (R381). A branch that runs the pending path after each taken iteration. -/
  | braFair (x : Fields)
  /-- BRA_PACK (R110). Branches, then parks the quad in the packing window of this address. -/
  | braPack (x : Fields)
  /-- BRX (R379). Branches to the register address held by the lowest taken lane. -/
  | brx (x : Fields)
  /-- CALL (R380). Writes the link and branches to PC + I. -/
  | call (x : Fields)
  /-- RET (R380). Branches to the vector pair D of the lowest taken lane. -/
  | ret (x : Fields)
  /-- EXIT (R383). Removes the guarded active lanes from the living mask, ending the path or the quad. -/
  | exit (x : Fields)
  /-- JOIN (R384). Performs PathEnd on each quad of the gang. -/
  | join (x : Fields)
  /-- RGANG (R107). Performs one path step and parks the quad until every living quad of the warp has arrived, then re-gangs by PC. -/
  | rgang (x : Fields)
  /-- RGANG_HOME (R113). Ends packing: the quads re-gang within their home warp once all of them have arrived. -/
  | rgangHome (x : Fields)
  /-- YIELD (R388). The gang waits until every other ready warp slot has issued once. -/
  | yield (x : Fields)
  /-- TRAP (R386). Raises cause 0x18 with its code. -/
  | trap (x : Fields)
  /-- BKPT (R386). Raises cause 0x17 with its code. -/
  | bkpt (x : Fields)
  /-- SLEEP (R388). Makes the gang not ready for n clocks. -/
  | sleep (x : Fields)
  /-- REGION (R240). Sets REGION to the next instruction and clears RCOUNT. -/
  | region (x : Fields)
  /-- TRET (R122). Clears INTRAP, delivers any held fault, and resumes the quads at their TQPCs. -/
  | tret (x : Fields)
  /-- LOOP (R382). Decrements a per-lane counter and branches back while it is non-zero, reconverging its leavers at its exit. -/
  | loop (x : Fields)
  /-- VOTE (R390). Writes the all or any of a predicate over the gang's lanes. -/
  | vote (x : Fields)
  /-- BALLOT (R390). Writes the 32-bit mask of lanes whose predicate holds. -/
  | ballot (x : Fields)
  /-- QSWZ (R392). Swizzles values within each quad by a pattern. -/
  | qswz (x : Fields)
  /-- QBCAST (R392). Broadcasts the values of one quad to every quad. -/
  | qbcast (x : Fields)
  /-- QVOTE (R390). Writes the all or any of a predicate within each quad. -/
  | qvote (x : Fields)
  /-- PSET (R393). Writes a predicate from a truth table of two predicates. -/
  | pset (x : Fields)
  /-- PMOV_GET (R393). Writes the predicates of a lane into a register. -/
  | pmovGet (x : Fields)
  /-- PMOV_PUT (R393). Sets the predicates from a register under a mask. -/
  | pmovPut (x : Fields)
  /-- SEL (R393). Selects a or b per lane by a predicate. -/
  | sel (x : Fields)
  /-- LANES (R391). Writes the active, living or existing lane mask. -/
  | lanes (x : Fields)
  /-- ELECT (R390). Sets a predicate in the lowest participating lane. -/
  | elect (x : Fields)
  /-- ADD (R317). Integer addition, wrapping or saturating. -/
  | add (x : Fields)
  /-- SUB (R317). Integer subtraction, wrapping or saturating. -/
  | sub (x : Fields)
  /-- ADD3 (R317). Three-operand 32-bit addition. -/
  | add3 (x : Fields)
  /-- MUL (R317). Low-half integer product. -/
  | mul (x : Fields)
  /-- MULHI (R317). High half of the integer product. -/
  | mulhi (x : Fields)
  /-- MAD (R317). Integer multiply-add. -/
  | mad (x : Fields)
  /-- MADW (R317). 32 × 32 multiply added into a 64-bit pair. -/
  | madw (x : Fields)
  /-- DIV (R318). Integer quotient toward zero; division by zero gives all ones and sets DZ. -/
  | div (x : Fields)
  /-- REM (R318). Integer remainder with the dividend's sign. -/
  | rem (x : Fields)
  /-- MIN (R317). Integer minimum. -/
  | min (x : Fields)
  /-- MAX (R317). Integer maximum. -/
  | max (x : Fields)
  /-- ABS (R317). Integer absolute value. -/
  | abs (x : Fields)
  /-- NEG (R317). Integer negation. -/
  | neg (x : Fields)
  /-- SAD (R319). Sum of absolute differences added to c. -/
  | sad (x : Fields)
  /-- ADDC (R320). Adds with a carry-in predicate and writes the carry-out predicate. -/
  | addc (x : Fields)
  /-- SUBB (R320). Subtracts with a borrow-in predicate and writes the borrow-out predicate. -/
  | subb (x : Fields)
  /-- AND (R321). Bitwise and. -/
  | and (x : Fields)
  /-- OR (R321). Bitwise or. -/
  | or (x : Fields)
  /-- XOR (R321). Bitwise exclusive or. -/
  | xor (x : Fields)
  /-- ANDN (R321). a and not b. -/
  | andn (x : Fields)
  /-- NOT (R321). Bitwise complement. -/
  | not (x : Fields)
  /-- SHL (R322). Left shift. -/
  | shl (x : Fields)
  /-- SHR (R322). Logical right shift. -/
  | shr (x : Fields)
  /-- SRA (R322). Arithmetic right shift. -/
  | sra (x : Fields)
  /-- ROT (R322). Left rotation. -/
  | rot (x : Fields)
  /-- FSH (R323). Funnel shift of a 64-bit pair of words. -/
  | fsh (x : Fields)
  /-- BFE (R324). Extracts a bit field. -/
  | bfe (x : Fields)
  /-- BFI (R324). Inserts a bit field. -/
  | bfi (x : Fields)
  /-- POPC (R321). Counts the 1 bits. -/
  | popc (x : Fields)
  /-- CLZ (R321). Counts the leading zeros. -/
  | clz (x : Fields)
  /-- CTZ (R321). Counts the trailing zeros. -/
  | ctz (x : Fields)
  /-- BREV (R321). Reverses the bits. -/
  | brev (x : Fields)
  /-- BPERM (R325). Permutes values across lanes by a selector. -/
  | bperm (x : Fields)
  /-- SETP (R326). Writes a predicate from an integer comparison. -/
  | setp (x : Fields)
  /-- LEA (R327). Forms a + extended b × 2^SCALE. -/
  | lea (x : Fields)
  /-- MOV (R328). Copies a register. -/
  | mov (x : Fields)
  /-- MOVI (R328). Writes an immediate or a 55-bit address. -/
  | movi (x : Fields)
  /-- MOVU (R329). Moves a value between vector and uniform registers. -/
  | movu (x : Fields)
  /-- ICVT (R330). Converts between integer types. -/
  | icvt (x : Fields)
  /-- SAT (R331). Clamps each element to n bits. -/
  | sat (x : Fields)
  /-- CSRR (R332). Reads a control register. -/
  | csrr (x : Fields)
  /-- CSRW (R333). Writes a control register, or raises a fault for a read-only register or a value it cannot write. -/
  | csrw (x : Fields)
  /-- CLK (R335). Writes the island's clock count. -/
  | clk (x : Fields)
  /-- HB (R335). Writes the heartbeat. -/
  | hb (x : Fields)
  /-- FADD (R343). Floating add, rounded once. -/
  | fadd (x : Fields)
  /-- FSUB (R343). Floating subtract, rounded once. -/
  | fsub (x : Fields)
  /-- FMUL (R343). Floating multiply, rounded once. -/
  | fmul (x : Fields)
  /-- FMA (R343). Fused multiply-add, rounded once. -/
  | fma (x : Fields)
  /-- FMIN (R344). Floating minimum that propagates NaNs. -/
  | fmin (x : Fields)
  /-- FMAX (R344). Floating maximum that propagates NaNs. -/
  | fmax (x : Fields)
  /-- FMNUM (R344). Floating minimum or maximum that prefers numbers. -/
  | fmnum (x : Fields)
  /-- FSETP (R346). Writes a predicate from a floating comparison. -/
  | fsetp (x : Fields)
  /-- FRCP (R349). Correctly rounded reciprocal. -/
  | frcp (x : Fields)
  /-- FRSQ (R349). Correctly rounded reciprocal square root. -/
  | frsq (x : Fields)
  /-- FSQRT (R348). Square root rounded under RM. -/
  | fsqrt (x : Fields)
  /-- FDIV (R348). Division rounded under RM. -/
  | fdiv (x : Fields)
  /-- FEX2 (R349). Correctly rounded 2^x. -/
  | fex2 (x : Fields)
  /-- FLG2 (R349). Correctly rounded log2 x. -/
  | flg2 (x : Fields)
  /-- FSIN (R349). Correctly rounded sine. -/
  | fsin (x : Fields)
  /-- FCOS (R349). Correctly rounded cosine. -/
  | fcos (x : Fields)
  /-- FCVT (R350). Converts between floating and integer formats. -/
  | fcvt (x : Fields)
  /-- FROUND (R351). Rounds to an integral value. -/
  | fround (x : Fields)
  /-- FSCALE (R343). Multiplies by 2^n. -/
  | fscale (x : Fields)
  /-- FCLASS (R347). Writes a predicate from a class test. -/
  | fclass (x : Fields)
  /-- FSEL (R345). Selects by the sign of c. -/
  | fsel (x : Fields)
  /-- QUANT (R352). Quantises an f32 value to a q8 or q4 code. -/
  | quant (x : Fields)
  /-- DEQUANT (R352). Dequantises a code to f32. -/
  | dequant (x : Fields)
  /-- PACK (R353). Packs narrow elements from several registers into one. -/
  | pack (x : Fields)
  /-- UNPACK (R353). Unpacks narrow elements into several registers. -/
  | unpack (x : Fields)
  /-- RNG (R354). Computes Philox4x32-10. -/
  | rng (x : Fields)
  /-- MALLOC (R361). Requests n mold banks, parking until they are granted. -/
  | malloc (x : Fields)
  /-- MFREE (R362). Returns mold banks after the pours through them have read them. -/
  | mfree (x : Fields)
  /-- MBIND (R363). Checks and binds a slot to a binding record, capturing its tiles. -/
  | mbind (x : Fields)
  /-- MUNBIND (R364). Unbinds a slot. -/
  | munbind (x : Fields)
  /-- MLOAD (R367). Fills bank lines from block memory. -/
  | mload (x : Fields)
  /-- MSTORE (R367). Writes bank lines to block memory. -/
  | mstore (x : Fields)
  /-- MFILL (R368). Writes one bank line from lane values. -/
  | mfill (x : Fields)
  /-- MBMAP (R365). Replaces a sparse slot's row bitmap. -/
  | mbmap (x : Fields)
  /-- MACC (R369). Pours a and adds the result into d with one rounding. -/
  | macc (x : Fields)
  /-- MQUERY (R370). Reports bank and slot state. -/
  | mquery (x : Fields)
  /-- MSAVE (R372). Writes the warp's bindings and step state to block memory. -/
  | msave (x : Fields)
  /-- MREST (R373). Checks and restores the warp's bindings and step state. -/
  | mrest (x : Fields)
  /-- MSTEP (R371). Writes the number of steps that a pour through a slot would take. -/
  | mstep (x : Fields)
  /-- LDB (R402). Loads from block memory. -/
  | ldb (x : Fields)
  /-- STB (R402). Stores to block memory. -/
  | stb (x : Fields)
  /-- LDD (R402). Loads from the die scratchpad. -/
  | ldd (x : Fields)
  /-- STD (R402). Stores to the die scratchpad. -/
  | std (x : Fields)
  /-- LDK (R402). Loads from the warp stack. -/
  | ldk (x : Fields)
  /-- STK (R402). Stores to the warp stack. -/
  | stk (x : Fields)
  /-- ATOM (R405). Atomic read-modify-write that returns the old value. -/
  | atom (x : Fields)
  /-- RED (R405). Atomic reduction that returns nothing. -/
  | red (x : Fields)
  /-- FENCE_BLK (R407). A fence that orders accesses at .blk. -/
  | fenceBlk (x : Fields)
  /-- FENCE_CLU (R407). A fence that orders accesses at .clu. -/
  | fenceClu (x : Fields)
  /-- FENCE_DEV (R407). A fence that orders accesses at .dev. -/
  | fenceDev (x : Fields)
  /-- FENCE_SYS (R407). A fence that orders accesses at .sys. -/
  | fenceSys (x : Fields)
  /-- FENCE_TICK (R156). A sequentially consistent fence that drains the core's accesses and waits for the next tick edge. -/
  | fenceTick (x : Fields)
  /-- BAR_INIT (R412). Initialises or clears a barrier word and its tag. -/
  | barInit (x : Fields)
  /-- BAR_ARRIVE (R412). Writes the current generation to a token and counts an arrival. -/
  | barArrive (x : Fields)
  /-- BAR_WAIT (R412). Parks until the generation differs from the token. -/
  | barWait (x : Fields)
  /-- BAR_SYNC (R412). Arrives, then waits on the phase. -/
  | barSync (x : Fields)
  /-- BAR_SYNC_SPEC (R162). Arrives and continues speculatively while the phase is open. -/
  | barSyncSpec (x : Fields)
  /-- BAR_DEBT (R412). Adds transaction units to the barrier word's debt. -/
  | barDebt (x : Fields)
  /-- MON (R414). Reads one word as a single-copy atomic read. -/
  | mon (x : Fields)
  /-- WAIT (R415). Parks until each lane's word satisfies its comparison. -/
  | wait (x : Fields)
  /-- TFLAG (R416). A release store of a tile flag. -/
  | tflag (x : Fields)
  /-- RFENCE (R408). Waits for the warp's stores, then invalidates the core's shape-record cache. -/
  | rfence (x : Fields)
  /-- CP (R176). Enters a box copy command in a sprue. -/
  | cp (x : Fields)
  /-- CPG (R177). Enters a gather copy command. -/
  | cpg (x : Fields)
  /-- CPS (R178). Enters a scatter copy command. -/
  | cps (x : Fields)
  /-- CPT (R179). Enters a transposing copy command. -/
  | cpt (x : Fields)
  /-- CPC (R180). Supplies one warp's slice of a block-wide collective copy. -/
  | cpc (x : Fields)
  /-- CPV (R181). Enters a versioned write or reduction command. -/
  | cpv (x : Fields)
  /-- QFENCE (R425). Places a joining entry in each named sprue. -/
  | qfence (x : Fields)
  /-- QWAIT (R426). Delivers this warp's recorded faults, or parks until its commands complete. -/
  | qwait (x : Fields)
  /-- QWAIT_REPLAY (R426). Replays this warp's faulted head commands. -/
  | qwaitReplay (x : Fields)
  /-- QWAIT_DISCARD (R426). Discards this warp's faulted head commands. -/
  | qwaitDiscard (x : Fields)
  /-- MNOPEN (R428). Opens a ladle job on a job record. -/
  | mnopen (x : Fields)
  /-- MNPUSH (R429). Pushes lane entries to a ladle stream. -/
  | mnpush (x : Fields)
  /-- MNFEED (R429). Places a feed command that reads entries from device memory. -/
  | mnfeed (x : Fields)
  /-- MNISECT (R430). Drains an intersect job and returns COUNT. -/
  | mnisect (x : Fields)
  /-- MNDRAIN (R430). Starts the drain of a job. -/
  | mndrain (x : Fields)
  /-- MNRESUME (R431). Repeats a stopped spill or continues a stopped stream. -/
  | mnresume (x : Fields)
  /-- MNSTAT (R430). Reads the status of a job. -/
  | mnstat (x : Fields)
  /-- MNCLOSE (R431). Frees a job. -/
  | mnclose (x : Fields)
  /-- LAUNCH (R433). Enters a task record into the die's task table. -/
  | launch (x : Fields)
  /-- TDEP (R434). Decrements a task's dependence counter. -/
  | tdep (x : Fields)
  /-- SIGNAL (R434). Raises a signal vector of the virtual device. -/
  | signal (x : Fields)
  /-- COLL (R436). Places a collective command in a sprue. -/
  | coll (x : Fields)
  /-- EVQ (R434). Posts a record to the die's event queue. -/
  | evq (x : Fields)
  /-- SYSC (R434). Hands a command block to the die control core. -/
  | sysc (x : Fields)
  /-- SAVEW (R439). Places a command that saves the warp and block into a slot. -/
  | savew (x : Fields)
  /-- RESTW (R440). Checks and applies saved parts to the warp and block. -/
  | restw (x : Fields)
  /-- YIELDB (R435). Offers the block for eviction. -/
  | yieldb (x : Fields)
  /-- PERF (R441). Reads a performance counter. -/
  | perf (x : Fields)
  /-- TICK_FLIT_RECEIVE (R22). A tick flit carrying the root's heartbeat value arrives, and the package compensates for link delay to stay locked. -/
  | tickFlitReceive (root : BitVec 64)
  /-- ROOT_SELECTION (R23). The management processor chooses a heartbeat root for a group of packages that lost their root, or keeps one root when two groups meet. -/
  | rootSelection (pkg : BitVec 10)
  /-- FLIT_RECEIVE (R15). A port takes a whole flit, checks it and either delivers it upward in SEQ order or discards it and answers with a NAK. -/
  | flitReceive (port : Nat) (flit : Flit)
  /-- PORT_RETRAIN (R16). After 8 consecutive NAKs for one SEQ, the port retrains and keeps its retry buffer for replay. -/
  | portRetrain (port : Nat) (lanes : BitVec 4)
  /-- PORT_TRAINING (R13). A port trains at width 4, then at width 2 or width 1 when lanes fail, and reports the width through QUERY. -/
  | portTraining (port : Nat) (lanes : BitVec 4)
  /-- PORT_DOWN (R16). A port that cannot train at any width goes down, and its retry buffer is sent on the next routed port in SEQ order. -/
  | portDown (port : Nat)
  /-- SYS_RESPONSE_TIMEOUT (R20). A .sys operation that has no response within 65,536 heartbeats fails with a fabric error. -/
  | sysResponseTimeout (op : Nat)
  /-- FABRIC_OUTCOME_SETTLE (R21). The issuing package asks the destination's management processor whether a failed operation was performed, then delivers or records the fabric error with its TINFO. -/
  | fabricOutcomeSettle (op : Nat) (answer : FabricAnswer)
  /-- PACKAGE_PROVISIONING (R18). The management processor gives a package its 10-bit identifier and sets the routing tables of the domain. -/
  | packageProvisioning (pkg : BitVec 10) (routes : List Route)
  /-- HOST_REQUEST (R25). A host CLASS 0 request to device memory is performed at .sys by the owning home slice when it lies in a permitted range, and is otherwise answered with a fabric error. -/
  | hostRequest (req : HostReq)
  /-- QUEUE_TAKE (R29). The die control core wakes on a change of TAIL or of a NEXT word, takes the next block, sets its STATE to 1, writes TAKEN, checks the header and starts the command. -/
  | queueTake (vd queue : Nat)
  /-- COMMAND_COMPLETE (R29). A command finishes, and JRF writes RESULT, STATUS and STATE = 2 as ordered .sys stores and raises SIGVEC when SIG is set. -/
  | commandComplete (cmd : Nat)
  /-- HOST_COPY_PIECE (R33). One 1 MiB piece of a HOST_COPY is performed. -/
  | hostCopyPiece (cmd : Nat) (data : List Byte) (fails : Option FabricAnswer)
  /-- SIGNAL_WRITE (R36). A pending, unmasked vector is written to its target as a .sys store of (cookie × 256 + vector), and its pending bit clears. -/
  | signalWrite (vd vector : Nat)
  /-- WRITE_QUIESCENCE (R37). The context's count of outstanding writes reaches zero, and the kill record is posted. -/
  | writeQuiescence (ctx : Nat)
  /-- EVENT_RECORD (R470). The die control core reads an event-queue record, performs its TAG action or logs its fault, and frees the entry. -/
  | eventRecord (die : Nat)
  /-- LAYOUT_COMMIT (R51). The management processor writes shadow descriptors, quiesces the affected engines and names a swap tick. -/
  | layoutCommit (parts : List PartDesc) (ahead : BitVec 64)
  /-- MARGIN_IDLE (R46). A margin cluster becomes idle after 64 heartbeats without the owner's work. -/
  | marginIdle (cluster : Nat)
  /-- CLUSTER_LEND (R46). An idle margin cluster is lent to the neighbour with the lowest PID that has a ready stage. -/
  | clusterLend (cluster : Nat)
  /-- CLUSTER_CLAIM (R47). The owner claims a lent cluster, pre-empts the borrower's blocks, scrubs the cluster and returns it to its own placement. -/
  | clusterClaim (cluster : Nat)
  /-- TIME_SLICE_SWITCH (R56). At the end of a quantum, or when the device runs out of work, the scheduler runs the device with work and the smallest virtual time. -/
  | timeSliceSwitch (pid : Nat)
  /-- WINDOW_REGISTER_WRITE (R55). A management write to WBASE or WLEN takes effect, or has no effect when refused, or causes ERROR when the register is frozen. -/
  | windowRegisterWrite (vd win : Nat) (len : Bool) (value : BitVec 64)
  /-- CONFIG_REGION_WRITE (R54). A management-channel write to the configuration region of a virtual device. -/
  | configRegionWrite (vd : Nat) (write : ConfigWrite)
  /-- PAUSE_DEVICE (R61). Stops taking the device's blocks, evicts its resident blocks and records T. -/
  | pauseDevice (vd : Nat)
  /-- RESUME_DEVICE (R62). Sets the TIME offset, delivers held signals and resumes taking blocks and restoring blocks. -/
  | resumeDevice (vd : Nat)
  /-- MIGRATE_DEVICE (R63). Moves a paused device with its windows, contexts and tasks to another package. -/
  | migrateDevice (vd : Nat) (dest : MigrationDest)
  /-- VIRTUAL_DEVICE_RESET (R64). Kills every context, clears signal arms and bits, resets the queue descriptors and unlocks the interface. -/
  | virtualDeviceReset (vd : Nat)
  /-- QUERY_ITEM (R74). A retired package returns the bytes of QUERY item 0, 3 or 4, and gives an error response for any other item. -/
  | queryItem (item : Nat)
  /-- LIFE_CYCLE_TRANSITION (R73). The management processor moves the package to another life-cycle state and wipes every memory. -/
  | lifeCycleTransition (dest : LifeCycle)
  /-- TASK_COMPLETE (R81). When all blocks, copies and jobs of a task have performed, its successors are decremented, its arms fire and its entry is freed. -/
  | taskComplete (die idx : Nat)
  /-- BLOCK_START (R85). The scheduler places the next block of a stage on an eligible core set once room and a save slot are free. -/
  | blockStart (die idx stage : Nat)
  /-- CONSUMER_BLOCK_START (R83). A block of a consuming stage starts once its slot's flag holds its tile, acquiring the tile. -/
  | consumerBlockStart (die idx stage : Nat)
  /-- STAGE_REBALANCE (R84). At every 64th heartbeat the scheduler evaluates each tile queue and moves at most one core between stages. -/
  | stageRebalance (die idx : Nat)
  /-- BLOCK_EVICT (R92). The scheduler stops a block, drains its accesses and commands, and writes its save slot. -/
  | blockEvict (block : Nat)
  /-- BLOCK_RESTORE (R94). A saved block is restored in index order to an eligible core set with its mold banks at the same indices. -/
  | blockRestore (die idx stage : Nat)
  /-- WATCHDOG_FIRE (R100). The watchdog count reaches the interval, and every resident warp of the context takes cause 0x1A. -/
  | watchdogFire (ctx : Nat)
  /-- CORE_GATE (R254). A core without resident warps for 8,192 heartbeats is power-gated. -/
  | coreGate (core : Nat)
  /-- CORE_WAKE (R251). A gated core wakes and runs built-in self-test, and is then offered, has a bank retired, or is withdrawn. -/
  | coreWake (core : Nat) (test : TestResult)
  /-- CORE_WITHDRAW (R253). A core that reaches the error threshold or fails its self-check is evicted and withdrawn until cold reset. -/
  | coreWithdraw (core : Nat) (selfCheck : Bool)
  /-- BANK_RETIRE (R136). A bank that reaches the error threshold is retired, and its group enters degraded mode. -/
  | bankRetire (group : GroupId) (bank : Nat)
  /-- POWER_CAP_CHECK (R256). Every 1,024 heartbeats, power is compared with the cap and the compute setpoints are lowered or raised. -/
  | powerCapCheck (watts : Nat) (cap : Option Nat) (hot : List Nat)
  /-- THERMAL_TRIP (R257). At 110 °C, issue stops on every core and every context is killed. -/
  | thermalTrip (die : Nat)
  /-- SUPPLY_SAG (R255). A sag sensor stretches its island's clock until the supply recovers. -/
  | supplySag (island : Nat)
  /-- ACCESS_PERFORM (R150). An access or fence at the head of its ordering acts on memory, or a .sys access enters its channel. -/
  | accessPerform (warp index : Nat)
  /-- CHANNEL_DELIVER (R150). The oldest .sys access of a channel acts on remote memory. -/
  | channelDeliver (pkg : BitVec 10) (cls : Nat)
  /-- PARITY_APPLY (R133). The head parity-update entry is applied to P in a cycle in which P is free. -/
  | parityApply (group : GroupId)
  /-- PARITY_RECOMPUTE (R134). P is recomputed at a row after a double-bit error in P, in the first cycle that all four data banks are free. -/
  | parityRecompute (group : GroupId) (row : Nat)
  /-- VERSION_APPLY (R167). A held versioned write whose expected version comes up is applied, and the line's version advances. -/
  | versionApply (line index : Nat)
  /-- VERSION_TIMEOUT (R167). A held write not applied within its timeout is dropped, and cause 0x13 is recorded in its command. -/
  | versionTimeout (line index : Nat)
  /-- PACK_WINDOW_CLOSE (R110). A packing window closes after 256 clocks, and the parked quads are packed into gangs. -/
  | packWindowClose (core : Nat) (pc : BitVec 55)
  /-- SPARSE_POUR_STEP (R233). One step of a sparse pour accumulates the next eight live rows in one issue slot. -/
  | sparsePourStep (warp : Nat)
  /-- SHADOW_COMPARE (R245). The shadow's matching operation is compared, and the held operation is released or a mismatch restarts both warps. -/
  | shadowCompare (warp : Nat)
  /-- COPY_PERFORM (R160). A sprue performs its next command once the previous command's writes are complete. -/
  | copyPerform (core pick : Nat)
  /-- COPY_FAULT_TIMEOUT (R185). 1,024 heartbeats after a fault was recorded, the issuing warp takes the trap at its next instruction boundary. -/
  | copyFaultTimeout (core sprue : Nat)
  /-- COMMAND_COMPLETION (R182). A command completes and acts on its routes: barrier arrival, task decrement, completion record. -/
  | commandCompletion (core sprue : Nat)
  /-- FEED_STREAM_READ (R195). A feed command reads its entries page by page into the ladle, stopping at a fault or refused entry. -/
  | feedStreamRead (core sprue : Nat)
  /-- LADLE_DRAIN_DONE (R194). A drain finishes its merge, sets STATUS 2 and acts on the job's routes. -/
  | ladleDrainDone (job : Nat)
  /-- SPAN_FINAL_MERGE (R198). The owner ladle of a SPAN job merges once its own drain is issued and DONEPART reaches NPART − 1. -/
  | spanFinalMerge (job : Nat)
  /-- COLL_COMPLETE (R437). A collective operation combines the members' elements in rank order and writes every member's destination. -/
  | collComplete (core sprue : Nat) (peers : List CollPeer)
  /-- MALLOC_GRANT (R361). A queued malloc request whose turn has come receives its banks, zeroed, and its mask is written. -/
  | mallocGrant (core : Nat)
  /-- WAIT_WAKE (R415). A write to a watched word rereads it and satisfies the lanes whose comparison now holds. -/
  | waitWake (warp lane : Nat)
  /-- WAIT_TIMEOUT (R415). A wait not satisfied after TIMEOUT × 1,024 heartbeats raises cause 0x10. -/
  | waitTimeout (warp quad : Nat)
  /-- FENCE_TICK_COMPLETE (R156). A drained fence.tick completes 64 ns after the next tick edge of its locked package. -/
  | fenceTickComplete (warp : Nat)
  /-- SLEEP_EXPIRE (R388). The count of a sleep runs out, and the gang becomes ready again. -/
  | sleepExpire (warp quad : Nat)
  /-- STACK_WRITE_BACK (R127). A stack cache line is written back when the cache evicts it. -/
  | stackWriteBack (warp line : Nat)
  /-- CREATE_VIRTUAL_DEVICE (R59). The management processor creates a virtual device, placing its queue descriptors and giving it weight 1, the frozen policy and its initial quantum. -/
  | createVirtualDevice (spec : VDevSpec)
  /-- COLL_TIMEOUT (R436). A collective participant that receives no response within the record's TIMEOUT records cause 0x1C in its command. -/
  | collTimeout (core sprue : Nat)
  /-- SUPPLY_RECOVERY (R255). An island's supply recovers from sag and its clock stops being stretched. -/
  | supplyRecovery (island : Nat)
  /-- SOFT_ERROR (R248). A transient bit flip corrupts a word of a register, bank, cache or device-memory line, giving a single- or double-bit error. -/
  | softError (target : ErrTarget) (double : Bool)
  /-- HEARTBEAT_TICK (R22). The heartbeat counter advances at each 128 ns edge, on the root and on every locked package. -/
  | heartbeatTick
  /-- COUNTER_CORRECTION (R23). An unlocked package holds its counter or advances it every 64 ns toward its root until the two match, and is then locked again. -/
  | counterCorrection
  /-- ROOT_ROUTE_LOSS (R23). A package loses all routes to its root, becomes unlocked, runs on its own reference and reports this to the host. -/
  | rootRouteLoss
  /-- NOP_CMD (R31). The JRF NOP command completes with result 0. -/
  | nopCmd
  /-- CREATE_CONTEXT (R33). Creates a context with the given page tables, save area, watchdog interval and limits. -/
  | createContext
  /-- DESTROY_CONTEXT (R33). Discards the context's entered tasks, drops its translations and releases the identifier, or gives BUSY. -/
  | destroyContext
  /-- MAP (R33). Writes page-table entries for a range, or gives CONFIG or FAULT. -/
  | map
  /-- UNMAP (R33). Removes the mappings of a range and completes once the translation caches have dropped them and the accesses through the range have performed. -/
  | unmap
  /-- LAUNCH_TASK (R78). Checks a task record and enters it into the die's task table. -/
  | launchTask
  /-- HOST_COPY (R33). Copies any length in 1 MiB pieces in ascending address order. -/
  | hostCopy
  /-- FENCE (R33). Completes when every block taken earlier from the named queues has completed. -/
  | fence
  /-- SIGNAL_ON_SET_TARGET (R35). SIGNAL_ON operation 0 sets a vector's target and cookie, or gives LOCKED while the interface is locked. -/
  | signalOnSetTarget
  /-- SIGNAL_ON_SET_MASK (R35). SIGNAL_ON operation 1 sets a vector's mask bit. -/
  | signalOnSetMask
  /-- SIGNAL_ON_CLEAR_MASK (R35). SIGNAL_ON operation 2 clears a vector's mask bit. -/
  | signalOnClearMask
  /-- SIGNAL_ON_TASK_ARM (R35). SIGNAL_ON operation 3 arms a raise of the vector when the named task completes. -/
  | signalOnTaskArm
  /-- SIGNAL_ON_WORD_ARM (R35). SIGNAL_ON operation 4 arms a raise of the vector when a device-memory word equals the compare value. -/
  | signalOnWordArm
  /-- KILL_CONTEXT (R37). Stops the context's warps, aborts its unbegun work, waits for write quiescence and posts the kill record. -/
  | killContext
  /-- CHECKPOINT_EXPORT (R41). Writes the context's tensors as a portable image, with the header written last. -/
  | checkpointExport
  /-- CHECKPOINT_IMPORT (R41). Checks an image and places its tensors, or gives BAD_IMAGE and writes nothing. -/
  | checkpointImport
  /-- SET_SLICE (R58). Sets the weight, quantum and timestamp policy of the virtual device, or gives CONFIG. -/
  | setSlice
  /-- QUERY_FIGURES (R33). QUERY item 0 writes the figures of Table 0-1. -/
  | queryFigures
  /-- QUERY_PORT_WIDTH (R33). QUERY item 1 writes the width of each port. -/
  | queryPortWidth
  /-- QUERY_SAVE_TIME (R58). QUERY item 2 writes the partition's worst-case save time. -/
  | querySaveTime
  /-- QUERY_RETIRED (R33). QUERY item 3 writes the retired banks and withdrawn cores. -/
  | queryRetired
  /-- QUERY_REVISION (R33). QUERY item 4 writes the JRF revision and stepping. -/
  | queryRevision
  /-- QUERY_TIME (R33). QUERY item 5 writes the current guest TIME. -/
  | queryTime
  /-- LAYOUT_SWAP (R51). At the named heartbeat tick, every die swaps its shadow tables into use at once. -/
  | layoutSwap
  /-- LAYOUT_ABANDON (R52). A change whose quiescing does not finish within 1 ms is abandoned, and the held signals are delivered. -/
  | layoutAbandon
  /-- LOCK_INTERFACE_REQUEST (R66). Moves CONFIG_UNLOCKED to CONFIG_LOCKED and freezes the registers of R67 when the device has no context. -/
  | lockInterfaceRequest
  /-- START_INTERFACE_REQUEST (R66). Moves CONFIG_LOCKED to RUN. -/
  | startInterfaceRequest
  /-- STOP_INTERFACE_REQUEST (R66). Performs a virtual-device reset and returns the interface to CONFIG_UNLOCKED. -/
  | stopInterfaceRequest
  /-- GET_DEVICE_INTERFACE_REPORT (R72). Returns the signed interface report. -/
  | getDeviceInterfaceReport
  /-- GET_DEVICE_INTERFACE_STATE (R66). Returns the interface state. -/
  | getDeviceInterfaceState
  /-- SECURED_SESSION_FAIL (R68). The secured session ends or fails, and a locked or running interface enters ERROR, killing its contexts. -/
  | securedSessionFail
  /-- GET_VERSION (R70). The SPDM GET_VERSION request is answered. -/
  | getVersion
  /-- GET_CAPABILITIES (R70). The SPDM GET_CAPABILITIES request is answered. -/
  | getCapabilities
  /-- NEGOTIATE_ALGORITHMS (R70). The SPDM NEGOTIATE_ALGORITHMS request is answered with the offered algorithms. -/
  | negotiateAlgorithms
  /-- GET_DIGESTS (R70). The SPDM GET_DIGESTS request is answered. -/
  | getDigests
  /-- GET_CERTIFICATE (R70). The certificate chain in slot 0 is returned. -/
  | getCertificate
  /-- CHALLENGE (R70). The SPDM CHALLENGE request is answered with the identity key. -/
  | challenge
  /-- GET_MEASUREMENTS (R71). Returns the six SHA-512 measurement blocks. -/
  | getMeasurements
  /-- KEY_EXCHANGE (R70). Starts a secured session with ephemeral P-384 Diffie-Hellman. -/
  | keyExchange
  /-- FINISH (R70). The SPDM FINISH request completes the session establishment. -/
  | finish
  /-- END_SESSION (R70). The SPDM END_SESSION request ends the secured session. -/
  | endSession
  /-- KEY_UPDATE (R70). The SPDM KEY_UPDATE request updates the session keys. -/
  | keyUpdate
  /-- ERROR_LOG_READ (R258). The host reads a virtual device's error log over the management channel. -/
  | errorLogRead
  /-- COLD_RESET (R74). Cold reset wipes every memory and runs core self-test before any context runs. -/
  | coldReset
  /-- THERMAL_TRIP_RECOVERY (R257). Every die falls below 90 °C after a thermal trip, and contexts may be started again. -/
  | thermalTripRecovery
deriving DecidableEq, Repr

/-- The instruction row of an instruction, with its fields; `none` for an event of the package. -/
def Instr.opFields : Instr → Option (Op × Fields)
  | .nop x => some (.nop, x)
  | .bra x => some (.bra, x)
  | .braFair x => some (.braFair, x)
  | .braPack x => some (.braPack, x)
  | .brx x => some (.brx, x)
  | .call x => some (.call, x)
  | .ret x => some (.ret, x)
  | .exit x => some (.exit, x)
  | .join x => some (.join, x)
  | .rgang x => some (.rgang, x)
  | .rgangHome x => some (.rgangHome, x)
  | .yield x => some (.yield, x)
  | .trap x => some (.trap, x)
  | .bkpt x => some (.bkpt, x)
  | .sleep x => some (.sleep, x)
  | .region x => some (.region, x)
  | .tret x => some (.tret, x)
  | .loop x => some (.loop, x)
  | .vote x => some (.vote, x)
  | .ballot x => some (.ballot, x)
  | .qswz x => some (.qswz, x)
  | .qbcast x => some (.qbcast, x)
  | .qvote x => some (.qvote, x)
  | .pset x => some (.pset, x)
  | .pmovGet x => some (.pmovGet, x)
  | .pmovPut x => some (.pmovPut, x)
  | .sel x => some (.sel, x)
  | .lanes x => some (.lanes, x)
  | .elect x => some (.elect, x)
  | .add x => some (.add, x)
  | .sub x => some (.sub, x)
  | .add3 x => some (.add3, x)
  | .mul x => some (.mul, x)
  | .mulhi x => some (.mulhi, x)
  | .mad x => some (.mad, x)
  | .madw x => some (.madw, x)
  | .div x => some (.div, x)
  | .rem x => some (.rem, x)
  | .min x => some (.min, x)
  | .max x => some (.max, x)
  | .abs x => some (.abs, x)
  | .neg x => some (.neg, x)
  | .sad x => some (.sad, x)
  | .addc x => some (.addc, x)
  | .subb x => some (.subb, x)
  | .and x => some (.and, x)
  | .or x => some (.or, x)
  | .xor x => some (.xor, x)
  | .andn x => some (.andn, x)
  | .not x => some (.not, x)
  | .shl x => some (.shl, x)
  | .shr x => some (.shr, x)
  | .sra x => some (.sra, x)
  | .rot x => some (.rot, x)
  | .fsh x => some (.fsh, x)
  | .bfe x => some (.bfe, x)
  | .bfi x => some (.bfi, x)
  | .popc x => some (.popc, x)
  | .clz x => some (.clz, x)
  | .ctz x => some (.ctz, x)
  | .brev x => some (.brev, x)
  | .bperm x => some (.bperm, x)
  | .setp x => some (.setp, x)
  | .lea x => some (.lea, x)
  | .mov x => some (.mov, x)
  | .movi x => some (.movi, x)
  | .movu x => some (.movu, x)
  | .icvt x => some (.icvt, x)
  | .sat x => some (.sat, x)
  | .csrr x => some (.csrr, x)
  | .csrw x => some (.csrw, x)
  | .clk x => some (.clk, x)
  | .hb x => some (.hb, x)
  | .fadd x => some (.fadd, x)
  | .fsub x => some (.fsub, x)
  | .fmul x => some (.fmul, x)
  | .fma x => some (.fma, x)
  | .fmin x => some (.fmin, x)
  | .fmax x => some (.fmax, x)
  | .fmnum x => some (.fmnum, x)
  | .fsetp x => some (.fsetp, x)
  | .frcp x => some (.frcp, x)
  | .frsq x => some (.frsq, x)
  | .fsqrt x => some (.fsqrt, x)
  | .fdiv x => some (.fdiv, x)
  | .fex2 x => some (.fex2, x)
  | .flg2 x => some (.flg2, x)
  | .fsin x => some (.fsin, x)
  | .fcos x => some (.fcos, x)
  | .fcvt x => some (.fcvt, x)
  | .fround x => some (.fround, x)
  | .fscale x => some (.fscale, x)
  | .fclass x => some (.fclass, x)
  | .fsel x => some (.fsel, x)
  | .quant x => some (.quant, x)
  | .dequant x => some (.dequant, x)
  | .pack x => some (.pack, x)
  | .unpack x => some (.unpack, x)
  | .rng x => some (.rng, x)
  | .malloc x => some (.malloc, x)
  | .mfree x => some (.mfree, x)
  | .mbind x => some (.mbind, x)
  | .munbind x => some (.munbind, x)
  | .mload x => some (.mload, x)
  | .mstore x => some (.mstore, x)
  | .mfill x => some (.mfill, x)
  | .mbmap x => some (.mbmap, x)
  | .macc x => some (.macc, x)
  | .mquery x => some (.mquery, x)
  | .msave x => some (.msave, x)
  | .mrest x => some (.mrest, x)
  | .mstep x => some (.mstep, x)
  | .ldb x => some (.ldb, x)
  | .stb x => some (.stb, x)
  | .ldd x => some (.ldd, x)
  | .std x => some (.std, x)
  | .ldk x => some (.ldk, x)
  | .stk x => some (.stk, x)
  | .atom x => some (.atom, x)
  | .red x => some (.red, x)
  | .fenceBlk x => some (.fenceBlk, x)
  | .fenceClu x => some (.fenceClu, x)
  | .fenceDev x => some (.fenceDev, x)
  | .fenceSys x => some (.fenceSys, x)
  | .fenceTick x => some (.fenceTick, x)
  | .barInit x => some (.barInit, x)
  | .barArrive x => some (.barArrive, x)
  | .barWait x => some (.barWait, x)
  | .barSync x => some (.barSync, x)
  | .barSyncSpec x => some (.barSyncSpec, x)
  | .barDebt x => some (.barDebt, x)
  | .mon x => some (.mon, x)
  | .wait x => some (.wait, x)
  | .tflag x => some (.tflag, x)
  | .rfence x => some (.rfence, x)
  | .cp x => some (.cp, x)
  | .cpg x => some (.cpg, x)
  | .cps x => some (.cps, x)
  | .cpt x => some (.cpt, x)
  | .cpc x => some (.cpc, x)
  | .cpv x => some (.cpv, x)
  | .qfence x => some (.qfence, x)
  | .qwait x => some (.qwait, x)
  | .qwaitReplay x => some (.qwaitReplay, x)
  | .qwaitDiscard x => some (.qwaitDiscard, x)
  | .mnopen x => some (.mnopen, x)
  | .mnpush x => some (.mnpush, x)
  | .mnfeed x => some (.mnfeed, x)
  | .mnisect x => some (.mnisect, x)
  | .mndrain x => some (.mndrain, x)
  | .mnresume x => some (.mnresume, x)
  | .mnstat x => some (.mnstat, x)
  | .mnclose x => some (.mnclose, x)
  | .launch x => some (.launch, x)
  | .tdep x => some (.tdep, x)
  | .signal x => some (.signal, x)
  | .coll x => some (.coll, x)
  | .evq x => some (.evq, x)
  | .sysc x => some (.sysc, x)
  | .savew x => some (.savew, x)
  | .restw x => some (.restw, x)
  | .yieldb x => some (.yieldb, x)
  | .perf x => some (.perf, x)
  | .heartbeatTick => none
  | .tickFlitReceive _ => none
  | .counterCorrection => none
  | .rootSelection _ => none
  | .rootRouteLoss => none
  | .flitReceive _ _ => none
  | .portRetrain _ _ => none
  | .portTraining _ _ => none
  | .portDown _ => none
  | .sysResponseTimeout _ => none
  | .fabricOutcomeSettle _ _ => none
  | .packageProvisioning _ _ => none
  | .hostRequest _ => none
  | .queueTake _ _ => none
  | .commandComplete _ => none
  | .nopCmd => none
  | .createContext => none
  | .destroyContext => none
  | .map => none
  | .unmap => none
  | .launchTask => none
  | .hostCopy => none
  | .hostCopyPiece _ _ _ => none
  | .fence => none
  | .signalOnSetTarget => none
  | .signalOnSetMask => none
  | .signalOnClearMask => none
  | .signalOnTaskArm => none
  | .signalOnWordArm => none
  | .signalWrite _ _ => none
  | .killContext => none
  | .writeQuiescence _ => none
  | .checkpointExport => none
  | .checkpointImport => none
  | .setSlice => none
  | .queryFigures => none
  | .queryPortWidth => none
  | .querySaveTime => none
  | .queryRetired => none
  | .queryRevision => none
  | .queryTime => none
  | .eventRecord _ => none
  | .layoutCommit _ _ => none
  | .layoutSwap => none
  | .layoutAbandon => none
  | .marginIdle _ => none
  | .clusterLend _ => none
  | .clusterClaim _ => none
  | .timeSliceSwitch _ => none
  | .windowRegisterWrite _ _ _ _ => none
  | .configRegionWrite _ _ => none
  | .pauseDevice _ => none
  | .resumeDevice _ => none
  | .migrateDevice _ _ => none
  | .virtualDeviceReset _ => none
  | .lockInterfaceRequest => none
  | .startInterfaceRequest => none
  | .stopInterfaceRequest => none
  | .getDeviceInterfaceReport => none
  | .getDeviceInterfaceState => none
  | .securedSessionFail => none
  | .getVersion => none
  | .getCapabilities => none
  | .negotiateAlgorithms => none
  | .getDigests => none
  | .getCertificate => none
  | .challenge => none
  | .getMeasurements => none
  | .keyExchange => none
  | .finish => none
  | .endSession => none
  | .keyUpdate => none
  | .queryItem _ => none
  | .errorLogRead => none
  | .lifeCycleTransition _ => none
  | .coldReset => none
  | .taskComplete _ _ => none
  | .blockStart _ _ _ => none
  | .consumerBlockStart _ _ _ => none
  | .stageRebalance _ _ => none
  | .blockEvict _ => none
  | .blockRestore _ _ _ => none
  | .watchdogFire _ => none
  | .coreGate _ => none
  | .coreWake _ _ => none
  | .coreWithdraw _ _ => none
  | .bankRetire _ _ => none
  | .powerCapCheck _ _ _ => none
  | .thermalTrip _ => none
  | .supplySag _ => none
  | .accessPerform _ _ => none
  | .channelDeliver _ _ => none
  | .parityApply _ => none
  | .parityRecompute _ _ => none
  | .versionApply _ _ => none
  | .versionTimeout _ _ => none
  | .packWindowClose _ _ => none
  | .sparsePourStep _ => none
  | .shadowCompare _ => none
  | .copyPerform _ _ => none
  | .copyFaultTimeout _ _ => none
  | .commandCompletion _ _ => none
  | .feedStreamRead _ _ => none
  | .ladleDrainDone _ => none
  | .spanFinalMerge _ => none
  | .collComplete _ _ _ => none
  | .mallocGrant _ => none
  | .waitWake _ _ => none
  | .waitTimeout _ _ => none
  | .fenceTickComplete _ => none
  | .sleepExpire _ _ => none
  | .stackWriteBack _ _ => none
  | .createVirtualDevice _ => none
  | .collTimeout _ _ => none
  | .supplyRecovery _ => none
  | .thermalTripRecovery => none
  | .softError _ _ => none

/-- The instruction of an operation with its fields. -/
def Op.instr (o : Op) (x : Fields) : Instr :=
  match o with
  | .nop => .nop x
  | .bra => .bra x
  | .braFair => .braFair x
  | .braPack => .braPack x
  | .brx => .brx x
  | .call => .call x
  | .ret => .ret x
  | .exit => .exit x
  | .join => .join x
  | .rgang => .rgang x
  | .rgangHome => .rgangHome x
  | .yield => .yield x
  | .trap => .trap x
  | .bkpt => .bkpt x
  | .sleep => .sleep x
  | .region => .region x
  | .tret => .tret x
  | .loop => .loop x
  | .vote => .vote x
  | .ballot => .ballot x
  | .qswz => .qswz x
  | .qbcast => .qbcast x
  | .qvote => .qvote x
  | .pset => .pset x
  | .pmovGet => .pmovGet x
  | .pmovPut => .pmovPut x
  | .sel => .sel x
  | .lanes => .lanes x
  | .elect => .elect x
  | .add => .add x
  | .sub => .sub x
  | .add3 => .add3 x
  | .mul => .mul x
  | .mulhi => .mulhi x
  | .mad => .mad x
  | .madw => .madw x
  | .div => .div x
  | .rem => .rem x
  | .min => .min x
  | .max => .max x
  | .abs => .abs x
  | .neg => .neg x
  | .sad => .sad x
  | .addc => .addc x
  | .subb => .subb x
  | .and => .and x
  | .or => .or x
  | .xor => .xor x
  | .andn => .andn x
  | .not => .not x
  | .shl => .shl x
  | .shr => .shr x
  | .sra => .sra x
  | .rot => .rot x
  | .fsh => .fsh x
  | .bfe => .bfe x
  | .bfi => .bfi x
  | .popc => .popc x
  | .clz => .clz x
  | .ctz => .ctz x
  | .brev => .brev x
  | .bperm => .bperm x
  | .setp => .setp x
  | .lea => .lea x
  | .mov => .mov x
  | .movi => .movi x
  | .movu => .movu x
  | .icvt => .icvt x
  | .sat => .sat x
  | .csrr => .csrr x
  | .csrw => .csrw x
  | .clk => .clk x
  | .hb => .hb x
  | .fadd => .fadd x
  | .fsub => .fsub x
  | .fmul => .fmul x
  | .fma => .fma x
  | .fmin => .fmin x
  | .fmax => .fmax x
  | .fmnum => .fmnum x
  | .fsetp => .fsetp x
  | .frcp => .frcp x
  | .frsq => .frsq x
  | .fsqrt => .fsqrt x
  | .fdiv => .fdiv x
  | .fex2 => .fex2 x
  | .flg2 => .flg2 x
  | .fsin => .fsin x
  | .fcos => .fcos x
  | .fcvt => .fcvt x
  | .fround => .fround x
  | .fscale => .fscale x
  | .fclass => .fclass x
  | .fsel => .fsel x
  | .quant => .quant x
  | .dequant => .dequant x
  | .pack => .pack x
  | .unpack => .unpack x
  | .rng => .rng x
  | .malloc => .malloc x
  | .mfree => .mfree x
  | .mbind => .mbind x
  | .munbind => .munbind x
  | .mload => .mload x
  | .mstore => .mstore x
  | .mfill => .mfill x
  | .mbmap => .mbmap x
  | .macc => .macc x
  | .mquery => .mquery x
  | .msave => .msave x
  | .mrest => .mrest x
  | .mstep => .mstep x
  | .ldb => .ldb x
  | .stb => .stb x
  | .ldd => .ldd x
  | .std => .std x
  | .ldk => .ldk x
  | .stk => .stk x
  | .atom => .atom x
  | .red => .red x
  | .fenceBlk => .fenceBlk x
  | .fenceClu => .fenceClu x
  | .fenceDev => .fenceDev x
  | .fenceSys => .fenceSys x
  | .fenceTick => .fenceTick x
  | .barInit => .barInit x
  | .barArrive => .barArrive x
  | .barWait => .barWait x
  | .barSync => .barSync x
  | .barSyncSpec => .barSyncSpec x
  | .barDebt => .barDebt x
  | .mon => .mon x
  | .wait => .wait x
  | .tflag => .tflag x
  | .rfence => .rfence x
  | .cp => .cp x
  | .cpg => .cpg x
  | .cps => .cps x
  | .cpt => .cpt x
  | .cpc => .cpc x
  | .cpv => .cpv x
  | .qfence => .qfence x
  | .qwait => .qwait x
  | .qwaitReplay => .qwaitReplay x
  | .qwaitDiscard => .qwaitDiscard x
  | .mnopen => .mnopen x
  | .mnpush => .mnpush x
  | .mnfeed => .mnfeed x
  | .mnisect => .mnisect x
  | .mndrain => .mndrain x
  | .mnresume => .mnresume x
  | .mnstat => .mnstat x
  | .mnclose => .mnclose x
  | .launch => .launch x
  | .tdep => .tdep x
  | .signal => .signal x
  | .coll => .coll x
  | .evq => .evq x
  | .sysc => .sysc x
  | .savew => .savew x
  | .restw => .restw x
  | .yieldb => .yieldb x
  | .perf => .perf x

end Sys2Proof
end

