-- ==== Sys2Proof/Decode.lean ====
section
/-!
DEFINITION. Instruction words to instructions and back: the fields of the four words (12 Table 12-1), the forms of every
opcode (12 Table 12-2, 13 Table 13-3, and the form tables of chapters 15 to 20), the checks of rows 4 and 5 of Table 12-3,
and the encoder.
-/
namespace Sys2Proof

/-! ### Bit fields -/

/-- The field x[lo + n − 1 : lo] as a number. -/
def bitField {w : Nat} (x : BitVec w) (lo n : Nat) : Nat := (x.toNat / 2 ^ lo) % 2 ^ n

/-- Bit `k` of a word. -/
def bitAt {w : Nat} (x : BitVec w) (k : Nat) : Bool := x.getLsbD k

/-- The number of a bit. -/
def boolNat (b : Bool) : Nat := if b then 1 else 0

/-! ### Types -/

/-- A pair type occupies two registers (09 Table 9-1: codes 15, 16, 17, 19). -/
def tyPair (t : Nat) : Bool := t == 15 || t == 16 || t == 17 || t == 19

/-- Registers of one operand of type `t`. -/
def tyRegs (t : Nat) : Nat := if tyPair t then 2 else 1

/-- Elements of one operand of type `t` (09 R199). -/
def tyCount (t : Nat) : Nat :=
  if t == 4 || t == 5 || t == 13 || t == 14 then 2
  else if t == 6 || t == 7 || t == 9 || t == 10 || t == 11 || t == 18 then 4
  else if t == 8 || t == 12 then 8
  else 1

/-- Bits of one element of type `t`. -/
def tyWidth (t : Nat) : Nat :=
  if tyPair t then 64 else 32 / tyCount t

def setI32 : List Nat := [1, 2]
def setI64 : List Nat := [16, 17]
def setIP : List Nat := [9, 10, 13, 14]
def setBT : List Nat := [0, 19]
def setFS : List Nat := [3, 4, 5]
def setFD : List Nat := [15]
def setSG : List Nat := [1, 9, 13, 16]
def setNF : List Nat := [6, 7, 8, 18]

/-- The integer types (13 Table 13-2). -/
def setInt : List Nat := setI32 ++ setI64 ++ setIP

/-! ### Forms -/

/-- What a form does with its D field. `base`: a run of `n` vector registers, `even` when it begins on an even one, and whether
`vz` may stand there. -/
inductive DForm where
  | none
  | vec (n : Nat) (even vz : Bool)
  | uni (n : Nat) (even : Bool)
  | pred
  | slot
  | code
  | source (n : Nat) (even : Bool)
deriving DecidableEq, Repr

/-- How many vector registers a form writes through its D field. -/
def DForm.vecs : DForm → Nat
  | .vec n _ _ => n
  | _ => 0

/-- What a form does with a source field. `reg`: a run of `n` registers, `even` when it begins on an even one; which of vector
registers, `vz` alone, uniform registers and the I word it accepts; and whether it may be poured. -/
inductive SForm where
  | none
  | reg (n : Nat) (even vec vz uni imm pour : Bool)
  | pred (neg : Bool)
  | mask
deriving DecidableEq, Repr

/-- Where the random operand of a form lies (12 R266). -/
inductive RndForm where
  | none | c | e
deriving DecidableEq, Repr

/-- The form of one instruction: its lengths (as LEN codes), its T codes for the encoded F (none when it reads no type), whether
it rounds, its fields, the E bits it assigns (`eMask`), whether their values are in range (`eOk`), whether E fields that this
form does not read are zero (`eRest`), its own immediate, its random operand and its guard rule. -/
structure Form where
  lens  : List Nat
  ts    : List Nat
  rm    : Bool := false
  d     : DForm := .none
  a     : SForm := .none
  b     : SForm := .none
  c     : SForm := .none
  eMask : Nat := 0
  eOk   : Bool := true
  eRest : Bool := true
  tOk   : Bool := true
  csrOk : Bool := true
  own   : Bool := false
  rnd   : RndForm := .none
  rndRegs : Nat := 0
  bare  : Bool := false
deriving DecidableEq, Repr

/-- A data operand by type: vector or uniform, perhaps the I word, perhaps poured. -/
def dataSrc (t : Nat) (imm pour : Bool) : SForm := .reg (tyRegs t) (tyPair t) true false true imm pour

/-- A 32-bit operand of either parity (15 R312 count operands, 16 R338). -/
def wordSrc (imm pour : Bool) : SForm := .reg 1 false true false true imm pour

/-- A uniform register, and a uniform pair (20 R421). -/
def uniSrc (imm : Bool) : SForm := .reg 1 false false false true imm false
def uniPairSrc : SForm := .reg 2 true false false true false false

/-- The offset operand's B of a mold instruction: uniform, the I word or `vz` (17 R356). -/
def moldB : SForm := .reg 1 false false true true true false

/-- A data destination by type. -/
def dataDst (t : Nat) : DForm := .vec (tyRegs t) (tyPair t) (!tyPair t)

/-- The bank operand k is in order: exactly one of BIMM and CU (17 R356). -/
def bankOk (x : Fields) : Bool := bitAt x.e 7 != x.c.uni

/-- C of a bank operand: a uniform register where CU alone is set. -/
def bankC (x : Fields) : SForm := if x.c.uni && !bitAt x.e 7 then uniSrc false else .none

/-- 32-bit words a lane moves in a load or store (19 R402). -/
def memWords (x : Fields) : Nat := 2 ^ bitField x.e 0 2 * tyRegs x.t.toNat

/-- The E field of a load or store is in range (19 Table 19-2, R402). -/
def memEOk (x : Fields) (load stack spad : Bool) : Bool :=
  let vw := bitField x.e 0 2
  let sub := bitAt x.e 3
  let ord := bitField x.e 4 2
  let osc := bitField x.e 6 2
  let lay := bitField x.e 8 2
  vw != 3 && ord != 3 && (load || ord != 1) && (!load || ord != 2) && (ord != 0 || osc == 0) && (!spad || ord == 0 || osc != 0)
    && (!stack || lay == 0) && (!sub || (setIP.contains x.t.toNat && vw == 0))

/-- The address operand A of an instruction with a SCOPE: an offset or a pair (19 R400). -/
def scopeA (x : Fields) : SForm :=
  if bitField x.e 0 2 ≥ 2 then .reg 2 true true false true false false else wordSrc false false

/-- The assigned control registers (13 R281). -/
def csrAssigned (n : Nat) : Bool :=
  n == 0 || n == 1 || (0x10 ≤ n && n ≤ 0x1B) || n == 0x20 || n == 0x21 || (0x30 ≤ n && n ≤ 0x3D) || n == 0x40 || n == 0x41
    || n == 0x50 || n == 0x60

/-- Control registers of 64 bits (15 Table 15-8). -/
def csrWide (n : Nat) : Bool :=
  n == 0x20 || n == 0x21 || n == 0x30 || n == 0x33 || (0x34 ≤ n && n ≤ 0x3C) || n == 0x3D || n == 0x40

/-- C of a form whose FIMM bit says whether the immediate E fields or C are read (15 R316). -/
def fieldC (x : Fields) : SForm := if bitAt x.e 19 then .none else wordSrc false false

/-- The number of a register of `fcvt` and `icvt` sources, and whether the pair of types and SEL is in order. -/
def styp (x : Fields) : Nat := bitField x.e 0 5
def cvtSel (x : Fields) : Nat := bitField x.e 5 3

/-- `icvt` pairs (15 Table 15-6). -/
def icvtTypesOk (x : Fields) : Bool :=
  let s := styp x
  let t := x.t.toNat
  setInt.contains s && (tyCount s == 1 || tyCount t == 1 || tyCount s == tyCount t)

def icvtSelOk (x : Fields) : Bool :=
  let m := tyCount (styp x)
  let n := tyCount x.t.toNat
  if m == n then cvtSel x == 0 else if m == 1 then cvtSel x < n else cvtSel x < m

/-- The pairs of `fcvt` that R280 allows: not both integer, and not equal. -/
def fcvtTypesOk (x : Fields) : Bool :=
  let s := styp x
  let t := x.t.toNat
  !(setInt.contains s && setInt.contains t) && s != t

/-- STYPE of `fcvt` is one of its types, and SEL is in range (16 R342, R350). -/
def fcvtSelOk (x : Fields) : Bool :=
  let m := tyCount (styp x)
  let n := tyCount x.t.toNat
  (setFS ++ setFD ++ setNF ++ setInt).contains (styp x)
    && (if m == n then cvtSel x == 0 else if m < n then cvtSel x < n / m else cvtSel x < m / n)

/-- Random registers for a destination of `n` elements (09 R202). -/
def rndCount (n : Nat) : Nat := (n + 1) / 2

/-- T codes of `atom` and `red` by F (13 Table 13-3). -/
def atomTs (f : Nat) : List Nat :=
  if f == 0 then setI32 ++ setI64 ++ [3, 15] else if f ≤ 2 then setI32 ++ setI64 else setBT

def f0 : List Nat := [0]
def f01 : List Nat := [0, 1]

/-- The major opcode of an operation (13 Table 13-1). -/
def Op.opc : Op → Nat
  | .nop => 0x00 | .bra => 0x01 | .braFair => 0x01 | .braPack => 0x01 | .brx => 0x02 | .call => 0x03 | .ret => 0x04
  | .exit => 0x05 | .join => 0x06 | .rgang => 0x07 | .rgangHome => 0x07 | .yield => 0x08 | .trap => 0x09 | .bkpt => 0x0A
  | .sleep => 0x0B | .region => 0x0C | .tret => 0x0D | .loop => 0x0E
  | .vote => 0x10 | .ballot => 0x11 | .qswz => 0x12 | .qbcast => 0x13 | .qvote => 0x14 | .pset => 0x15 | .pmovGet => 0x16
  | .pmovPut => 0x16 | .sel => 0x17 | .lanes => 0x18 | .elect => 0x19
  | .add => 0x20 | .sub => 0x21 | .add3 => 0x22 | .mul => 0x23 | .mulhi => 0x24 | .mad => 0x25 | .madw => 0x26 | .div => 0x27
  | .rem => 0x28 | .min => 0x29 | .max => 0x2A | .abs => 0x2B | .neg => 0x2C | .sad => 0x2D | .addc => 0x2E | .subb => 0x2F
  | .and => 0x30 | .or => 0x31 | .xor => 0x32 | .andn => 0x33 | .not => 0x34 | .shl => 0x35 | .shr => 0x36 | .sra => 0x37
  | .rot => 0x38 | .fsh => 0x39 | .bfe => 0x3A | .bfi => 0x3B | .popc => 0x3C | .clz => 0x3D | .ctz => 0x3E | .brev => 0x3F
  | .bperm => 0x40 | .setp => 0x41 | .lea => 0x42 | .mov => 0x43 | .movi => 0x44 | .movu => 0x45 | .icvt => 0x46 | .sat => 0x47
  | .csrr => 0x48 | .csrw => 0x49 | .clk => 0x4A | .hb => 0x4B
  | .fadd => 0x50 | .fsub => 0x51 | .fmul => 0x52 | .fma => 0x53 | .fmin => 0x54 | .fmax => 0x55 | .fmnum => 0x56
  | .fsetp => 0x57 | .frcp => 0x58 | .frsq => 0x59 | .fsqrt => 0x5A | .fdiv => 0x5B | .fex2 => 0x5C | .flg2 => 0x5D
  | .fsin => 0x5E | .fcos => 0x5F | .fcvt => 0x60 | .fround => 0x61 | .fscale => 0x62 | .fclass => 0x63 | .fsel => 0x64
  | .quant => 0x65 | .dequant => 0x66 | .pack => 0x67 | .unpack => 0x68 | .rng => 0x69
  | .malloc => 0x70 | .mfree => 0x71 | .mbind => 0x72 | .munbind => 0x73 | .mload => 0x74 | .mstore => 0x75 | .mfill => 0x76
  | .mbmap => 0x77 | .macc => 0x78 | .mquery => 0x79 | .msave => 0x7A | .mrest => 0x7B | .mstep => 0x7C
  | .ldb => 0x80 | .stb => 0x81 | .ldd => 0x82 | .std => 0x83 | .ldk => 0x84 | .stk => 0x85 | .atom => 0x86 | .red => 0x87
  | .fenceBlk => 0x88 | .fenceClu => 0x88 | .fenceDev => 0x88 | .fenceSys => 0x88 | .fenceTick => 0x88
  | .barInit => 0x89 | .barArrive => 0x89 | .barWait => 0x89 | .barSync => 0x89 | .barSyncSpec => 0x89 | .barDebt => 0x89
  | .mon => 0x8A | .wait => 0x8B | .tflag => 0x8C | .rfence => 0x8D
  | .cp => 0xA0 | .cpg => 0xA1 | .cps => 0xA2 | .cpt => 0xA3 | .cpc => 0xA4 | .cpv => 0xA5 | .qfence => 0xA6 | .qwait => 0xA7
  | .qwaitReplay => 0xA7 | .qwaitDiscard => 0xA7 | .mnopen => 0xA8 | .mnpush => 0xA9 | .mnfeed => 0xAA | .mnisect => 0xAB
  | .mndrain => 0xAC | .mnresume => 0xAD | .mnstat => 0xAE | .mnclose => 0xAF
  | .launch => 0xB0 | .tdep => 0xB1 | .signal => 0xB2 | .coll => 0xB3 | .evq => 0xB4 | .sysc => 0xB5 | .savew => 0xB6
  | .restw => 0xB7 | .yieldb => 0xB8 | .perf => 0xB9

/-- The F values of an operation (13 Table 13-3); rows that the table splits by F have one each. -/
def Op.fs : Op → List Nat
  | .braFair => [1] | .braPack => [2] | .rgangHome => [1] | .pmovPut => [1]
  | .fenceClu => [1] | .fenceDev => [2] | .fenceSys => [3] | .fenceTick => [4]
  | .barArrive => [1] | .barWait => [2] | .barSync => [3] | .barSyncSpec => [4] | .barDebt => [5]
  | .qwaitReplay => [1] | .qwaitDiscard => [2]
  | .vote => f01 | .qvote => f01 | .pset => [0, 1, 2, 3, 4, 5, 6, 7, 8, 9, 10, 11, 12, 13, 14, 15]
  | .lanes => [0, 1, 2] | .add => f01 | .sub => f01 | .mul => f01 | .abs => f01 | .neg => f01
  | .shl => f01 | .shr => f01 | .sra => f01 | .fsh => f01 | .setp => [0, 1, 2, 3, 4, 5] | .movu => f01 | .icvt => f01
  | .fadd => f01 | .fsub => f01 | .fmul => f01 | .fma => f01 | .fscale => f01 | .fsetp => [0, 1, 2, 3, 4, 5, 6, 7] | .fcvt => f01
  | .atom => [0, 1, 2, 3, 4, 5, 6, 7] | .red => [0, 1, 2, 3, 4, 5] | .mon => f01 | .wait => [0, 1, 2, 3] | .cpt => f01
  | .cpv => f01 | .coll => [0, 1, 2, 3]
  | _ => f0

def len4 : List Nat := [0]
def len8 : List Nat := [1]
def len12 : List Nat := [2]
def len16 : List Nat := [3]
def len8x : List Nat := [1, 3]
def len12x : List Nat := [2, 3]
def len8to16 : List Nat := [1, 2, 3]

/-- A form of two data operands and a data destination (15 Table 15-1). -/
def form2 (lens ts : List Nat) (t : Nat) : Form :=
  { lens, ts, d := dataDst t, a := dataSrc t false true, b := dataSrc t true true }

/-- A form of one data operand and a data destination. -/
def form1 (lens ts : List Nat) (t : Nat) : Form := { lens, ts, d := dataDst t, a := dataSrc t false true }

/-- A shift (15 R322): the count is one 32-bit operand. -/
def formShift (ts : List Nat) (t : Nat) : Form :=
  { lens := len8x, ts, d := dataDst t, a := dataSrc t false true, b := wordSrc true false }

/-- A floating form of two data operands, rounded when `rm` (16 Table 16-1). -/
def formF2 (ts : List Nat) (t : Nat) (rm : Bool) : Form :=
  { form2 len8to16 ts t with rm, rnd := .c, rndRegs := rndCount (tyCount t) }

def formF1 (ts : List Nat) (t : Nat) (rm : Bool) : Form :=
  { form1 len8to16 ts t with rm, rnd := .c, rndRegs := rndCount (tyCount t) }

/-- A copy instruction (20 Table 20-1). -/
def formCopy (ts : List Nat) : Form :=
  { lens := len12x, ts, a := uniPairSrc, b := uniPairSrc, c := uniSrc false, eMask := 0x7 }

/-- A `bar` form (19 Table 19-1). -/
def formBar (readsB : Bool) : Form :=
  { lens := len8to16, ts := [], a := wordSrc false false, b := if readsB then uniSrc true else .none }

/-- The form of `nop`, `exit`, `yield`, `yieldb`, `fenceBlk`, `fenceClu`, `fenceDev`, `fenceSys`, `fenceTick`, `rfence`. -/
def formNop : Form :=
  
    { lens := len4, ts := [] }

/-- The form of `join`, `rgang`, `rgangHome`, `region`, `tret`. -/
def formJoin : Form :=
  { lens := len4, ts := [], bare := true }

/-- The form of `bra`, `braFair`, `braPack`. -/
def formBra : Form :=
  { lens := len16, ts := [], own := true }

/-- The form of `brx`. -/
def formBrx : Form :=
  { lens := len8, ts := [], a := .reg 2 true true false true false false }

/-- The form of `call`. -/
def formCall : Form :=
  { lens := len16, ts := [], d := .vec 2 true false, own := true }

/-- The form of `ret`. -/
def formRet : Form :=
  { lens := len4, ts := [], d := .source 2 true }

/-- The form of `trap`, `bkpt`. -/
def formTrap : Form :=
  { lens := len4, ts := [], d := .code }

/-- The form of `sleep`. -/
def formSleep : Form :=
  { lens := len8x, ts := [], b := uniSrc true }

/-- The form of `loop`. -/
def formLoop : Form :=
  { lens := len16, ts := [], d := .vec 1 false false, own := true }

/-- The form of `vote`, `qvote`. -/
def formVote : Form :=
  { lens := len8x, ts := [], d := .pred, a := .pred true }

/-- The form of `ballot`. -/
def formBallot : Form :=
  { lens := len8x, ts := [], d := .vec 1 false true, a := .pred true }

/-- The form of `qswz`, `qbcast`. -/
def formQswz (x : Fields) : Form :=
  
    { lens := len8x, ts := setBT, d := dataDst x.t.toNat, a := dataSrc x.t.toNat false true, b := wordSrc true false }

/-- The form of `pset`. -/
def formPset : Form :=
  { lens := len8x, ts := [], d := .pred, a := .pred false, b := .pred false }

/-- The form of `pmovGet`. -/
def formPmovGet : Form :=
  { lens := len8x, ts := [], d := .vec 1 false true }

/-- The form of `pmovPut`. -/
def formPmovPut : Form :=
  { lens := len8x, ts := [], a := wordSrc false false, b := wordSrc true false }

/-- The form of `sel`. -/
def formSel (x : Fields) : Form :=
  { lens := len12x, ts := setBT, d := dataDst x.t.toNat, a := dataSrc x.t.toNat false true, b := dataSrc x.t.toNat true true, eMask := 0xF }

/-- The form of `lanes`. -/
def formLanes : Form :=
  { lens := len8x, ts := [], d := .vec 1 false true }

/-- The form of `elect`. -/
def formElect : Form :=
  { lens := len8x, ts := [], d := .pred }

/-- The form of `add`, `sub`, `mul`, `min`, `max`. -/
def formAdd (x : Fields) : Form :=
  form2 len8x setInt x.t.toNat

/-- The form of `mulhi`, `div`, `rem`. -/
def formMulhi (x : Fields) : Form :=
  form2 len8x (setI32 ++ setI64) x.t.toNat

/-- The form of `add3`. -/
def formAdd3 (x : Fields) : Form :=
  { form2 len12x setI32 x.t.toNat with c := dataSrc x.t.toNat false true }

/-- The form of `mad`. -/
def formMad (x : Fields) : Form :=
  { form2 len12x (setI32 ++ setI64) x.t.toNat with c := dataSrc x.t.toNat false true }

/-- The form of `madw`. -/
def formMadw (x : Fields) : Form :=
  { form2 len12x setI32 x.t.toNat with d := .vec 2 true false, c := .reg 2 true true false true false false }

/-- The form of `abs`, `neg`. -/
def formAbs (x : Fields) : Form :=
  form1 len8x setSG x.t.toNat

/-- The form of `sad`. -/
def formSad (x : Fields) : Form :=
  { form2 len12x (setI32 ++ setIP) x.t.toNat with c := wordSrc false true }

/-- The form of `addc`, `subb`. -/
def formAddc (x : Fields) : Form :=
  { form2 len12x setI32 x.t.toNat with eMask := 0x7F }

/-- The form of `and`, `or`, `xor`, `andn`. -/
def formAnd (x : Fields) : Form :=
  form2 len8x setBT x.t.toNat

/-- The form of `not`, `brev`. -/
def formNot (x : Fields) : Form :=
  form1 len8x setBT x.t.toNat

/-- The form of `popc`, `clz`, `ctz`. -/
def formPopc (x : Fields) : Form :=
  { form1 len8x setBT x.t.toNat with d := .vec 1 false true }

/-- The form of `shl`, `shr`, `rot`. -/
def formShl (x : Fields) : Form :=
  formShift setBT x.t.toNat

/-- The form of `sra`. -/
def formSra (x : Fields) : Form :=
  formShift [1, 16] x.t.toNat

/-- The form of `fsh`. -/
def formFsh (x : Fields) : Form :=
  
    { form2 len12x [0] x.t.toNat with
      c := fieldC x, eMask := 0x8001F, eRest := (bitAt x.e 19 || bitField x.e 0 19 == 0) }

/-- The form of `bfe`. -/
def formBfe (x : Fields) : Form :=
  
    { form1 len12x setI32 x.t.toNat with
      c := fieldC x, eMask := 0x81FFF, eOk := bitField x.e 6 7 ≤ 64, eRest := (bitAt x.e 19 || bitField x.e 0 19 == 0) }

/-- The form of `bfi`. -/
def formBfi (x : Fields) : Form :=
  
    { form2 len12x setBT x.t.toNat with
      c := fieldC x, eMask := 0x81FFF, eOk := bitField x.e 6 7 ≤ 64, eRest := (bitAt x.e 19 || bitField x.e 0 19 == 0) }

/-- The form of `bperm`. -/
def formBperm (x : Fields) : Form :=
  { lens := len8x, ts := setBT, d := dataDst x.t.toNat, a := dataSrc x.t.toNat false true, b := wordSrc true false }

/-- The form of `setp`. -/
def formSetp (x : Fields) : Form :=
  
    { form2 len8x (setInt ++ setBT) x.t.toNat with d := .pred, tOk := !setBT.contains x.t.toNat || x.f.toNat ≤ 1 }

/-- The form of `lea`. -/
def formLea (x : Fields) : Form :=
  { lens := len12x, ts := [2, 17], d := dataDst x.t.toNat, a := dataSrc x.t.toNat false false, b := wordSrc true false, eMask := 0xF }

/-- The form of `mov`. -/
def formMov (x : Fields) : Form :=
  form1 len8x setBT x.t.toNat

/-- The form of `movi`. -/
def formMovi (x : Fields) : Form :=
  { lens := len16, ts := setBT, d := dataDst x.t.toNat, own := true, eMask := 0xFFFFF, eOk := x.t.toNat == 19 || x.e == 0 }

/-- The form of `movu`. -/
def formMovu (x : Fields) : Form :=
  
    if x.f == 0 then
      { lens := len8x, ts := setBT, d := .uni (tyRegs x.t.toNat) (tyPair x.t.toNat), a := .reg (tyRegs x.t.toNat) (tyPair x.t.toNat) true false false false true }
    else { lens := len8x, ts := setBT, d := dataDst x.t.toNat, a := .reg (tyRegs x.t.toNat) (tyPair x.t.toNat) false false true false false }

/-- The form of `icvt`. -/
def formIcvt (x : Fields) : Form :=
  
    { lens := len16, ts := setInt, d := dataDst x.t.toNat, a := dataSrc (styp x) false true, eMask := 0xFF, tOk := icvtTypesOk x,
      eOk := icvtSelOk x }

/-- The form of `sat`. -/
def formSat (x : Fields) : Form :=
  { lens := len8x, ts := setInt, d := dataDst x.t.toNat, a := dataSrc x.t.toNat false true, b := wordSrc true false }

/-- The form of `csrr`. -/
def formCsrr (x : Fields) : Form :=
  
    { lens := len12, ts := [], d := .vec (if csrWide (bitField x.e 0 12) then 2 else 1) (csrWide (bitField x.e 0 12))
        (!csrWide (bitField x.e 0 12)), eMask := 0xFFF, csrOk := csrAssigned (bitField x.e 0 12) }

/-- The form of `csrw`. -/
def formCsrw (x : Fields) : Form :=
  
    { lens := len12, ts := [],
      a := .reg (if csrWide (bitField x.e 0 12) then 2 else 1) (csrWide (bitField x.e 0 12)) true false true false false,
      eMask := 0xFFF, csrOk := csrAssigned (bitField x.e 0 12) }

/-- The form of `clk`, `hb`. -/
def formClk : Form :=
  { lens := len4, ts := [], d := .vec 2 true false }

/-- The form of `fadd`, `fsub`, `fmul`. -/
def formFadd (x : Fields) : Form :=
  formF2 (setFS ++ setFD) x.t.toNat true

/-- The form of `fma`. -/
def formFma (x : Fields) : Form :=
  
    { form2 len12x (setFS ++ setFD) x.t.toNat with
      rm := true, c := dataSrc x.t.toNat false true, eMask := 0x1FF, rnd := .e, rndRegs := rndCount (tyCount x.t.toNat) }

/-- The form of `fmin`, `fmax`. -/
def formFmin (x : Fields) : Form :=
  formF2 (setFS ++ setFD) x.t.toNat false

/-- The form of `fmnum`. -/
def formFmnum (x : Fields) : Form :=
  { formF2 (setFS ++ setFD) x.t.toNat false with eMask := 0x1 }

/-- The form of `fsetp`. -/
def formFsetp (x : Fields) : Form :=
  { formF2 (setFS ++ setFD) x.t.toNat false with d := .pred }

/-- The form of `frcp`, `frsq`. -/
def formFrcp (x : Fields) : Form :=
  formF1 [3, 4, 15] x.t.toNat false

/-- The form of `fsqrt`. -/
def formFsqrt (x : Fields) : Form :=
  formF1 [3, 15] x.t.toNat true

/-- The form of `fdiv`. -/
def formFdiv (x : Fields) : Form :=
  formF2 [3, 15] x.t.toNat true

/-- The form of `fex2`, `flg2`, `fsin`, `fcos`. -/
def formFex2 (x : Fields) : Form :=
  formF1 [3, 4] x.t.toNat false

/-- The form of `fcvt`. -/
def formFcvt (x : Fields) : Form :=
  
    { lens := len12x, ts := setFS ++ setFD ++ setNF ++ setInt, rm := true, d := dataDst x.t.toNat, a := dataSrc (styp x) false true,
      eMask := 0xFF, tOk := fcvtTypesOk x, eOk := fcvtSelOk x, rnd := .c, rndRegs := rndCount (tyCount x.t.toNat) }

/-- The form of `fround`. -/
def formFround (x : Fields) : Form :=
  formF1 (setFS ++ setFD) x.t.toNat true

/-- The form of `fscale`. -/
def formFscale (x : Fields) : Form :=
  { formF2 (setFS ++ setFD) x.t.toNat true with b := wordSrc true true }

/-- The form of `fclass`. -/
def formFclass (x : Fields) : Form :=
  
    { lens := len12x, ts := setFS ++ setFD ++ [6, 7], d := .pred, a := dataSrc x.t.toNat false true, eMask := 0x7FF,
      eOk := bitField x.e 0 10 != 0, rnd := .c, rndRegs := 1 }

/-- The form of `fsel`. -/
def formFsel (x : Fields) : Form :=
  { form2 len12x (setFS ++ setFD) x.t.toNat with c := dataSrc x.t.toNat false true }

/-- The form of `quant`. -/
def formQuant (x : Fields) : Form :=
  
    { lens := len12x, ts := [11, 12], rm := true, d := .vec 1 false true, a := wordSrc false true, b := wordSrc true false,
      c := wordSrc false false, eMask := 0xFFF, eOk := bitField x.e 9 3 < tyCount x.t.toNat, rnd := .e, rndRegs := 1 }

/-- The form of `dequant`. -/
def formDequant (x : Fields) : Form :=
  
    { lens := len12x, ts := [11, 12], d := .vec 1 false true, a := wordSrc false false, b := wordSrc true false,
      c := wordSrc false false, eMask := 0xE00, eOk := bitField x.e 9 3 < tyCount x.t.toNat }

/-- The form of `pack`. -/
def formPack (x : Fields) : Form :=
  
    { lens := len8to16, ts := [4, 5, 6, 7, 8, 9, 10, 11, 12, 13, 14, 18], d := .vec 1 false true,
      a := .reg (tyCount x.t.toNat) false true false true false false }

/-- The form of `unpack`. -/
def formUnpack (x : Fields) : Form :=
  
    { lens := len8to16, ts := [4, 5, 6, 7, 8, 9, 10, 11, 12, 13, 14, 18], d := .vec (tyCount x.t.toNat) false false,
      a := .reg 1 false true false true false false }

/-- The form of `rng`. -/
def formRng : Form :=
  
    { lens := len8, ts := [], d := .vec 4 false false, a := .reg 4 false true false true false false,
      b := .reg 2 true true false true false false }

/-- The form of `malloc`. -/
def formMalloc : Form :=
  { lens := len8to16, ts := [], d := .uni 2 true, b := uniSrc true, eMask := 0x1 }

/-- The form of `mfree`. -/
def formMfree : Form :=
  { lens := len8, ts := [], a := uniPairSrc }

/-- The form of `mbind`. -/
def formMbind (x : Fields) : Form :=
  
    { lens := len8to16, ts := [], d := .slot, a := uniSrc false, b := moldB,
      c := if bitAt x.e 8 then bankC x else .none, eMask := 0x1BF, eOk := !bitAt x.e 8 || bankOk x,
      eRest := if bitAt x.e 8 then bitAt x.e 7 || bitField x.e 0 6 == 0 else bitField x.e 0 8 == 0 }

/-- The form of `munbind`. -/
def formMunbind : Form :=
  { lens := len8, ts := [], d := .slot }

/-- The form of `mload`, `mstore`. -/
def formMload (x : Fields) : Form :=
  
    { lens := len12x, ts := [], a := uniSrc false, b := moldB, c := bankC x, eMask := 0xFEBF, eOk := bankOk x,
      eRest := bitAt x.e 7 || bitField x.e 0 6 == 0 }

/-- The form of `mfill`. -/
def formMfill (x : Fields) : Form :=
  
    { lens := len12x, ts := [], a := wordSrc false false, c := bankC x, eMask := 0x1FBF, eOk := bankOk x,
      eRest := bitAt x.e 7 || bitField x.e 0 6 == 0 }

/-- The form of `mbmap`. -/
def formMbmap (x : Fields) : Form :=
  
    if bitAt x.e 0 then { lens := len8to16, ts := [], d := .slot, eMask := 0x1 }
    else { lens := len8to16, ts := [], d := .slot, a := uniSrc false, b := moldB, eMask := 0x1 }

/-- The form of `macc`. -/
def formMacc (x : Fields) : Form :=
  
    { lens := [1, 2], ts := [0, 1, 2, 3, 15], d := dataDst x.t.toNat, a := .reg (tyRegs x.t.toNat) (tyPair x.t.toNat) true false false false true,
      rnd := .c, rndRegs := 1 }

/-- The form of `mquery`. -/
def formMquery (x : Fields) : Form :=
  
    { lens := len12, ts := [], eMask := 0x7, eOk := bitField x.e 0 3 ≤ 3,
      d := if bitField x.e 0 3 == 1 || bitField x.e 0 3 == 2 then .vec 2 true false else .vec 1 false true }

/-- The form of `msave`, `mrest`. -/
def formMsave (x : Fields) : Form :=
  
    { lens := len12x, ts := [], a := uniSrc false, b := moldB, eMask := 0x3, eOk := bitField x.e 0 2 != 0 }

/-- The form of `mstep`. -/
def formMstep (x : Fields) : Form :=
  { lens := len12, ts := [], d := .uni 1 false, eMask := 0x7, eOk := bitField x.e 0 3 != 0 }

/-- The form of `ldb`, `ldd`, `ldk`. -/
def formLdb (o : Op) (x : Fields) : Form :=
  
    { lens := len12x, ts := List.range 20, d := .vec (memWords x) (tyPair x.t.toNat) (memWords x == 1), a := wordSrc false false,
      b := wordSrc true false, eMask := 0x3FB, eOk := memEOk x true (o == .ldk) (o == .ldd) }

/-- The form of `stb`, `std`, `stk`. -/
def formStb (o : Op) (x : Fields) : Form :=
  
    { lens := len12x, ts := List.range 20, a := wordSrc false false, b := wordSrc true false,
      c := .reg (memWords x) (tyPair x.t.toNat) true false true false true, eMask := 0x3FB, eOk := memEOk x false (o == .stk) (o == .std) }

/-- The form of `atom`. -/
def formAtom (x : Fields) : Form :=
  
    { lens := len12x, ts := atomTs x.f.toNat, d := dataDst x.t.toNat, a := scopeA x, b := dataSrc x.t.toNat true true,
      c := if x.f == 7 then dataSrc x.t.toNat false true else .none, eMask := 0xF, rnd := if x.f == 7 then .none else .c, rndRegs := 1 }

/-- The form of `red`. -/
def formRed (x : Fields) : Form :=
  
    { lens := len12x, ts := atomTs x.f.toNat, a := scopeA x, b := dataSrc x.t.toNat true true, eMask := 0xF,
      eOk := bitField x.e 2 2 == 0 || bitField x.e 2 2 == 2, rnd := .c, rndRegs := 1 }

/-- The form of `barInit`, `barWait`, `barDebt`. -/
def formBarInit : Form :=
  formBar true

/-- The form of `barSync`, `barSyncSpec`. -/
def formBarSync : Form :=
  formBar false

/-- The form of `barArrive`. -/
def formBarArrive : Form :=
  { formBar false with d := .uni 1 false }

/-- The form of `mon`. -/
def formMon (x : Fields) : Form :=
  { lens := len12x, ts := setBT, d := dataDst x.t.toNat, a := scopeA x, eMask := 0x3 }

/-- The form of `wait`. -/
def formWait (x : Fields) : Form :=
  { lens := len12x, ts := setBT, d := dataDst x.t.toNat, a := scopeA x, b := dataSrc x.t.toNat true false, eMask := 0x7FFF }

/-- The form of `tflag`. -/
def formTflag (x : Fields) : Form :=
  
    { lens := len12x, ts := [19], a := .reg 2 true true false true false false, b := dataSrc 19 true false,
      c := if bitField x.e 0 4 == 0 then .reg 2 true true false true false false else wordSrc false false, eMask := 0xFFFFF,
      eOk := bitField x.e 4 16 != 0 && (bitField x.e 0 4 ≤ 1 || (4 ≤ bitField x.e 0 4 && bitField x.e 0 4 ≤ 7)) }

/-- The form of `cp`, `cpg`, `cps`, `cpt`, `cpc`, `cpv`. -/
def formCp : Form :=
  formCopy []

/-- The form of `coll`. -/
def formColl (x : Fields) : Form :=
  { formCopy (setBT ++ setInt.filter (fun k => !setIP.contains k) ++ setFS ++ setFD) with
      c := uniPairSrc, tOk := !setBT.contains x.t.toNat || x.f == 3 }

/-- The form of `qfence`, `qwait`, `qwaitReplay`, `qwaitDiscard`. -/
def formQfence : Form :=
  { lens := len8, ts := [], a := .mask }

/-- The form of `mnopen`. -/
def formMnopen : Form :=
  { lens := len12x, ts := [], a := uniPairSrc, c := .reg 1 false false true true false false }

/-- The form of `mnpush`. -/
def formMnpush : Form :=
  
    { lens := len12x, ts := [], a := uniPairSrc, b := .reg 2 true true false true false false,
      c := .reg 2 true true false true false false, eMask := 0x3F }

/-- The form of `mnfeed`. -/
def formMnfeed : Form :=
  { lens := len12x, ts := [], a := uniPairSrc, b := uniPairSrc, c := uniSrc false, eMask := 0x3FF }

/-- The form of `mnisect`. -/
def formMnisect : Form :=
  { lens := len12x, ts := [], d := .uni 2 true, a := uniPairSrc }

/-- The form of `mnstat`. -/
def formMnstat : Form :=
  { lens := len8, ts := [], d := .uni 2 true, a := uniPairSrc }

/-- The form of `mndrain`, `mnresume`. -/
def formMndrain : Form :=
  { lens := len12x, ts := [], a := uniPairSrc }

/-- The form of `mnclose`. -/
def formMnclose : Form :=
  { lens := len8, ts := [], a := uniPairSrc }

/-- The form of `launch`. -/
def formLaunch : Form :=
  { lens := len12x, ts := [], d := .uni 1 false, a := uniPairSrc }

/-- The form of `tdep`. -/
def formTdep : Form :=
  { lens := len12x, ts := [], a := uniSrc false, b := uniSrc true }

/-- The form of `signal`. -/
def formSignal : Form :=
  { lens := len12x, ts := [], a := uniSrc false }

/-- The form of `evq`, `sysc`. -/
def formEvq : Form :=
  { lens := len12x, ts := [], a := uniPairSrc }

/-- The form of `savew`. -/
def formSavew (x : Fields) : Form :=
  { lens := len12x, ts := [], a := uniPairSrc, eMask := 0x7F, eOk := bitField x.e 3 4 != 0 }

/-- The form of `restw`. -/
def formRestw (x : Fields) : Form :=
  { lens := len12x, ts := [], a := uniPairSrc, eMask := 0xF, eOk := bitField x.e 0 4 != 0 }

/-- The form of `perf`. -/
def formPerf : Form :=
  { lens := len8, ts := [], d := .vec 2 true false, a := uniSrc false }

/-- The form of an operation with its fields: 12 Table 12-2, 13 Table 13-3, and the form tables of chapters 15 to 20. -/
def Op.form (o : Op) (x : Fields) : Form :=
  match o with
  | .nop | .exit | .yield | .yieldb | .fenceBlk | .fenceClu | .fenceDev | .fenceSys | .fenceTick | .rfence => formNop
  | .join | .rgang | .rgangHome | .region | .tret => formJoin
  | .bra | .braFair | .braPack => formBra
  | .brx => formBrx
  | .call => formCall
  | .ret => formRet
  | .trap | .bkpt => formTrap
  | .sleep => formSleep
  | .loop => formLoop
  | .vote | .qvote => formVote
  | .ballot => formBallot
  | .qswz | .qbcast => formQswz x
  | .pset => formPset
  | .pmovGet => formPmovGet
  | .pmovPut => formPmovPut
  | .sel => formSel x
  | .lanes => formLanes
  | .elect => formElect
  | .add | .sub | .mul | .min | .max => formAdd x
  | .mulhi | .div | .rem => formMulhi x
  | .add3 => formAdd3 x
  | .mad => formMad x
  | .madw => formMadw x
  | .abs | .neg => formAbs x
  | .sad => formSad x
  | .addc | .subb => formAddc x
  | .and | .or | .xor | .andn => formAnd x
  | .not | .brev => formNot x
  | .popc | .clz | .ctz => formPopc x
  | .shl | .shr | .rot => formShl x
  | .sra => formSra x
  | .fsh => formFsh x
  | .bfe => formBfe x
  | .bfi => formBfi x
  | .bperm => formBperm x
  | .setp => formSetp x
  | .lea => formLea x
  | .mov => formMov x
  | .movi => formMovi x
  | .movu => formMovu x
  | .icvt => formIcvt x
  | .sat => formSat x
  | .csrr => formCsrr x
  | .csrw => formCsrw x
  | .clk | .hb => formClk
  | .fadd | .fsub | .fmul => formFadd x
  | .fma => formFma x
  | .fmin | .fmax => formFmin x
  | .fmnum => formFmnum x
  | .fsetp => formFsetp x
  | .frcp | .frsq => formFrcp x
  | .fsqrt => formFsqrt x
  | .fdiv => formFdiv x
  | .fex2 | .flg2 | .fsin | .fcos => formFex2 x
  | .fcvt => formFcvt x
  | .fround => formFround x
  | .fscale => formFscale x
  | .fclass => formFclass x
  | .fsel => formFsel x
  | .quant => formQuant x
  | .dequant => formDequant x
  | .pack => formPack x
  | .unpack => formUnpack x
  | .rng => formRng
  | .malloc => formMalloc
  | .mfree => formMfree
  | .mbind => formMbind x
  | .munbind => formMunbind
  | .mload | .mstore => formMload x
  | .mfill => formMfill x
  | .mbmap => formMbmap x
  | .macc => formMacc x
  | .mquery => formMquery x
  | .msave | .mrest => formMsave x
  | .mstep => formMstep x
  | .ldb | .ldd | .ldk => formLdb o x
  | .stb | .std | .stk => formStb o x
  | .atom => formAtom x
  | .red => formRed x
  | .barInit | .barWait | .barDebt => formBarInit
  | .barSync | .barSyncSpec => formBarSync
  | .barArrive => formBarArrive
  | .mon => formMon x
  | .wait => formWait x
  | .tflag => formTflag x
  | .cp | .cpg | .cps | .cpt | .cpc | .cpv => formCp
  | .coll => formColl x
  | .qfence | .qwait | .qwaitReplay | .qwaitDiscard => formQfence
  | .mnopen => formMnopen
  | .mnpush => formMnpush
  | .mnfeed => formMnfeed
  | .mnisect => formMnisect
  | .mnstat => formMnstat
  | .mndrain | .mnresume => formMndrain
  | .mnclose => formMnclose
  | .launch => formLaunch
  | .tdep => formTdep
  | .signal => formSignal
  | .evq | .sysc => formEvq
  | .savew => formSavew x
  | .restw => formRestw x
  | .perf => formPerf

/-! ### The checks of rows 4 and 5 of Table 12-3 -/

/-- What the checks need of a warp: its registers and uniform registers, whether DYN selects SR (`none`: not known), and whether
a pour of the instruction needs random bits (12 R266). -/
structure CheckEnv where
  nreg    : Nat
  nureg   : Nat
  sr      : Option Bool
  pourRnd : Option Bool
deriving DecidableEq, Repr

/-- A run of `n` vector registers from `r` is in order (12 R262). -/
def vecOk (env : CheckEnv) (r n : Nat) (even vz : Bool) : Bool :=
  if r == 255 then vz && n == 1 && !even
  else r + n ≤ env.nreg && (!even || r % 2 == 0)

/-- A run of `n` uniform registers from `r` is in order (12 R263). -/
def uniOk (env : CheckEnv) (r n : Nat) (even : Bool) : Bool :=
  r + n ≤ env.nureg && r + n ≤ 64 && (!even || r % 2 == 0)

/-- The FIELD numbers that a D field breaks (12 R262, 13 R282). -/
def dErrs (env : CheckEnv) (x : Fields) : DForm → List Nat
  | .none => if x.d == 0 then [] else [14]
  | .vec n even vz => if vecOk env x.d.toNat n even vz then [] else [5]
  | .source n even => if vecOk env x.d.toNat n even false then [] else [5]
  | .uni n even => if uniOk env x.d.toNat n even then [] else [5]
  | .pred => if x.d.toNat < 8 then [] else [5]
  | .slot => if 1 ≤ x.d.toNat && x.d.toNat ≤ 7 then [] else [5]
  | .code => []

/-- The operand names the I word (12 R263). -/
def Operand.isImm (o : Operand) : Bool := o.uni && o.reg == 255

/-- The FIELD numbers that a source field breaks (12 R262 to R265). `field` is 6, 7 or 8. -/
def sErrs (env : CheckEnv) (x : Fields) (field : Nat) (o : Operand) : SForm → List Nat
  | .none => if o.uni || o.mold != 0 || o.reg != 0 then [14] else []
  | .pred neg =>
    (if o.uni || o.reg.toNat ≥ (if neg then 16 else 8) then [field] else []) ++ (if o.mold != 0 then [9] else [])
  | .mask => (if o.reg == 0 then [field] else []) ++ (if o.uni || o.mold != 0 then [14] else [])
  | .reg n even vec vz uni imm pour =>
    (if o.uni then
      if field == 7 && o.reg == 255 then (if imm && x.len == 3 then [] else [7])
      else if uni && uniOk env o.reg.toNat n even then [] else [field]
    else if vec then (if vecOk env o.reg.toNat n even true then [] else [field])
    else if vz && o.reg == 255 then [] else [field])
    ++ (if o.mold != 0 && (o.uni || !pour) then [9] else [])

/-- The I word is read: as the opcode's own immediate, or as operand B. -/
def readsI (fm : Form) (x : Fields) : Bool :=
  fm.own || (x.b.isImm && match fm.b with | .reg _ _ _ _ _ imm _ => imm | _ => false)

/-- The instruction itself needs random bits (12 R266); `none` when DYN's choice is not known. -/
def needsRnd (env : CheckEnv) (fm : Form) (x : Fields) : Option Bool :=
  if !fm.rm then some false
  else if x.rm == 5 then some true
  else if x.rm == 6 then env.sr
  else some false

/-- Some operand is poured. -/
def poured (x : Fields) : Bool := x.a.mold != 0 || x.b.mold != 0 || x.c.mold != 0

/-- Random bits are needed by the instruction or by a pour of it. -/
def wantsRnd (env : CheckEnv) (fm : Form) (x : Fields) : Option Bool :=
  match needsRnd env fm x, (if poured x then env.pourRnd else some false) with
  | some true, _ => some true
  | _, some true => some true
  | some false, some false => some false
  | _, _ => none

/-- A random operand register is in order (09 R202). -/
def rndOk (env : CheckEnv) (uni : Bool) (r n : Nat) : Bool :=
  if uni then uniOk env r n false else r + n ≤ 255 && vecOk env r n false false

/-- FIELD numbers of the random operand, or of the C field and E bits that would hold it (12 R266, 16 R339). -/
def rndErrs (env : CheckEnv) (fm : Form) (x : Fields) : List Nat :=
  match fm.rnd with
  | .none => []
  | .c =>
    match wantsRnd env fm x with
    | some true =>
      if x.len.toNat < 2 then (if needsRnd env fm x == some true then [11] else [])
      else (if rndOk env x.c.uni x.c.reg.toNat fm.rndRegs then [] else [11]) ++ (if x.c.mold != 0 then [9] else [])
    | some false => if x.c.uni || x.c.mold != 0 || x.c.reg != 0 then [14] else []
    | none => []
  | .e =>
    match wantsRnd env fm x with
    | some true => if rndOk env (bitAt x.e 8) (bitField x.e 0 8) fm.rndRegs then [] else [11]
    | some false => if bitField x.e 0 9 == 0 then [] else [14]
    | none => []

/-- C is checked as a source unless it stands for the random operand. -/
def cErrs (env : CheckEnv) (fm : Form) (x : Fields) : List Nat :=
  match fm.rnd with
  | .c => []
  | _ => sErrs env x 8 x.c fm.c

/-- The guard is in order (12 R267, 18 R378). -/
def guardOk (fm : Form) (x : Fields) : Bool :=
  !(x.guard.neg && x.guard.pred == 7) && (!fm.bare || (x.guard.pred == 7 && !x.guard.neg))

/-- Every FIELD that fails check 5 of Table 12-3. -/
def fieldErrs (env : CheckEnv) (o : Op) (x : Fields) : List Nat :=
  let fm := o.form x
  (if fm.ts.isEmpty then (if x.t == 0 then [] else [14]) else if fm.ts.contains x.t.toNat && fm.tOk then [] else [3])
  ++ (if fm.rm then (if x.rm == 7 then [4] else []) else if x.rm == 0 then [] else [14])
  ++ dErrs env x fm.d ++ sErrs env x 6 x.a fm.a ++ sErrs env x 7 x.b fm.b ++ cErrs env fm x
  ++ (if o == .macc && x.a.mold == 0 then [9] else [])
  ++ (if guardOk fm x then [] else [10])
  ++ rndErrs env fm x
  ++ (if x.e.toNat &&& (0xFFFFF ^^^ fm.eMask) == 0 then [] else if fm.eMask == 0 then [14] else [12])
  ++ (if fm.eOk then [] else [12])
  ++ (if fm.csrOk then [] else [13])
  ++ (if fm.eRest then [] else [14])
  ++ (if readsI fm x || x.i == 0 then [] else [14])

/-- The lowest FIELD of a list. -/
def lowest : List Nat → Option Nat
  | [] => none
  | n :: ns => match lowest ns with | none => some n | some m => some (min n m)

/-- Why an encoding is refused: cause 0x01, or cause 0x02 with its CHECK and FIELD (13 Table 13-4). -/
inductive BadCode where
  | unassigned
  | field (check field : Nat)
deriving DecidableEq, Repr

/-- Checks 4 and 5 of Table 12-3 on an operation and its fields. -/
def formCheck (env : CheckEnv) (o : Op) (x : Fields) : Option BadCode :=
  if !(o.form x).lens.contains x.len.toNat then some (.field 4 1)
  else if !o.fs.contains x.f.toNat then some (.field 4 2)
  else (lowest (fieldErrs env o x)).map (.field 5)

/-- What can be checked without a warp: every register that the encoding can name is taken as allocated. -/
def staticEnv : CheckEnv := { nreg := 255, nureg := 64, sr := none, pourRnd := none }

/-! ### Words and fields -/

/-- The fields of four words; the words that LEN leaves out are given as zero (12 Table 12-1). -/
def fieldsOf (head ow cw iw : Word) : Fields :=
  { len := head.extractLsb' 0 2, f := head.extractLsb' 26 6, d := head.extractLsb' 18 8,
    guard := { neg := head.getLsbD 17, pred := head.extractLsb' 14 3 }, stall := head.extractLsb' 10 4,
    rm := ow.extractLsb' 27 3, t := ow.extractLsb' 22 5,
    a := { uni := ow.getLsbD 30, mold := ow.extractLsb' 8 3, reg := ow.extractLsb' 0 8 },
    b := { uni := ow.getLsbD 31, mold := ow.extractLsb' 19 3, reg := ow.extractLsb' 11 8 },
    c := { uni := cw.getLsbD 11, mold := cw.extractLsb' 8 3, reg := cw.extractLsb' 0 8 },
    e := cw.extractLsb' 12 20, i := iw }

/-- Part of the opcode map, in its order (13 Table 13-1). -/
def opsControl : List Op :=
  [.nop, .bra, .braFair, .braPack, .brx, .call, .ret, .exit, .join, .rgang, .rgangHome, .yield, .trap, .bkpt, .sleep,
   .region, .tret, .loop]

/-- Part of the opcode map, in its order (13 Table 13-1). -/
def opsLanes : List Op :=
  [.vote, .ballot, .qswz, .qbcast, .qvote, .pset, .pmovGet, .pmovPut, .sel, .lanes, .elect]

/-- Part of the opcode map, in its order (13 Table 13-1). -/
def opsInteger : List Op :=
  [.add, .sub, .add3, .mul, .mulhi, .mad, .madw, .div, .rem, .min, .max, .abs, .neg, .sad, .addc, .subb, .and, .or,
   .xor, .andn, .not, .shl, .shr, .sra, .rot, .fsh, .bfe, .bfi, .popc, .clz, .ctz, .brev, .bperm, .setp, .lea, .mov,
   .movi, .movu, .icvt, .sat, .csrr, .csrw, .clk, .hb]

/-- Part of the opcode map, in its order (13 Table 13-1). -/
def opsFloat : List Op :=
  [.fadd, .fsub, .fmul, .fma, .fmin, .fmax, .fmnum, .fsetp, .frcp, .frsq, .fsqrt, .fdiv, .fex2, .flg2, .fsin, .fcos,
   .fcvt, .fround, .fscale, .fclass, .fsel, .quant, .dequant, .pack, .unpack, .rng]

/-- Part of the opcode map, in its order (13 Table 13-1). -/
def opsMold : List Op :=
  [.malloc, .mfree, .mbind, .munbind, .mload, .mstore, .mfill, .mbmap, .macc, .mquery, .msave, .mrest, .mstep]

/-- Part of the opcode map, in its order (13 Table 13-1). -/
def opsMemory : List Op :=
  [.ldb, .stb, .ldd, .std, .ldk, .stk, .atom, .red, .fenceBlk, .fenceClu, .fenceDev, .fenceSys, .fenceTick, .barInit,
   .barArrive, .barWait, .barSync, .barSyncSpec, .barDebt, .mon, .wait, .tflag, .rfence]

/-- Part of the opcode map, in its order (13 Table 13-1). -/
def opsEngine : List Op :=
  [.cp, .cpg, .cps, .cpt, .cpc, .cpv, .qfence, .qwait, .qwaitReplay, .qwaitDiscard, .mnopen, .mnpush, .mnfeed,
   .mnisect, .mndrain, .mnresume, .mnstat, .mnclose, .launch, .tdep, .signal, .coll, .evq, .sysc, .savew, .restw,
   .yieldb, .perf]

/-- Every operation, in the order of the opcode map. -/
def Op.all : List Op :=
  opsControl ++ opsLanes ++ opsInteger ++ opsFloat ++ opsMold ++ opsMemory ++ opsEngine

/-- The operation of an opcode and a function: the first whose F is assigned, else the first of the opcode (13 R276, R280). -/
def findOp (opc f : Nat) : Option Op :=
  match Op.all.find? (fun o => o.opc == opc && o.fs.contains f) with
  | some o => some o
  | none => Op.all.find? (fun o => o.opc == opc)

/-- The opcode of a head word. -/
def headOpc (head : Word) : Nat := bitField head 2 8

/-- The words that the head's LEN names, with zeros for the others. -/
def wordsOf (head : Word) (rest : List Word) : Word × Word × Word :=
  let n := bitField head 0 2
  let g := fun k => if k < n then rest.getD k 0 else 0
  (g 0, g 1, g 2)

/-- An operation with its fields, or the reason the encoding is refused, from a head word and the words after it. -/
def decode (env : CheckEnv) (head : Word) (rest : List Word) : Except BadCode (Op × Fields) :=
  match findOp (headOpc head) (bitField head 26 6) with
  | none => .error .unassigned
  | some o =>
    let ws := wordsOf head rest
    let x := fieldsOf head ws.1 ws.2.1 ws.2.2
    match formCheck env o x with
    | some e => .error e
    | none => .ok (o, x)

/-! ### The encoder -/

/-- The head word of an instruction (12 Table 12-1). -/
def headWord (o : Op) (x : Fields) : Word :=
  x.f ++ (x.d ++ ((BitVec.ofBool x.guard.neg) ++ (x.guard.pred ++ (x.stall ++ ((BitVec.ofNat 8 o.opc) ++ x.len)))))

/-- The O word. -/
def oWord (x : Fields) : Word :=
  (BitVec.ofBool x.b.uni) ++ ((BitVec.ofBool x.a.uni) ++ (x.rm ++ (x.t ++ (x.b.mold ++ (x.b.reg ++ (x.a.mold ++ x.a.reg))))))

/-- The C word. -/
def cWord (x : Fields) : Word := x.e ++ ((BitVec.ofBool x.c.uni) ++ (x.c.mold ++ x.c.reg))

/-- The words of an instruction: as many as LEN names. -/
def encodeOp (o : Op) (x : Fields) : List Word :=
  (headWord o x :: [oWord x, cWord x, x.i]).take (x.len.toNat + 1)

/-- The words of an instruction; an event of the package has none. -/
def encode (i : Instr) : List Word :=
  match i.opFields with
  | some (o, x) => encodeOp o x
  | none => []

/-- The fields that lie in words which LEN leaves out are zero. -/
def Fields.fits (x : Fields) : Bool :=
  (1 ≤ x.len.toNat || (x.rm == 0 && x.t == 0 && !x.a.uni && x.a.mold == 0 && x.a.reg == 0 && !x.b.uni && x.b.mold == 0 && x.b.reg == 0))
  && (2 ≤ x.len.toNat || (x.e == 0 && !x.c.uni && x.c.mold == 0 && x.c.reg == 0))
  && (3 ≤ x.len.toNat || x.i == 0)

/-- The instruction of a word numbered as the opcode table numbers it: its first `nbits` bits are `w`, every later bit is 0. -/
def decodeTableWord (_nbits w : Nat) : Option Instr :=
  match decode staticEnv (BitVec.ofNat 32 w) [BitVec.ofNat 32 (w / 2 ^ 32), BitVec.ofNat 32 (w / 2 ^ 64), BitVec.ofNat 32 (w / 2 ^ 96)] with
  | .ok (o, x) => some (o.instr x)
  | .error _ => none

end Sys2Proof
end

