-- ==== Sys2Proof/Machine/State.lean ====
section
/-!
DEFINITION. The state of the machine: every piece of state the spec gives the package, as plain data.
Registers and memories are sparse: a list of (key, value) pairs with rising keys, in which a key that is not listed
reads as zero (03 R74: every memory word is zero after cold reset).
-/
namespace Sys2Proof.Machine

/-- Why the machine stops. -/
inductive Fault where
  /-- Raised by an instruction meaning when no gang has been chosen to issue it. No run reaches it: `step` chooses a gang
  before it executes. Safe. -/
  | noGang
  /-- Raised by an access to a package physical address at or above 768 × 10⁹ (01 R8), which no memory holds. Safe. -/
  | noSuchAddress
deriving DecidableEq, Repr

/-- Why an instruction has no meaning in the model. -/
inductive Refusal where
  /-- Raised by an arm of `exec` whose instruction is not modelled yet. Safe. -/
  | notModelled (mnemonic : String)
deriving DecidableEq, Repr

/-- Sparse data by key: rising keys, no key at the value that an unlisted key reads as. -/
abbrev Cells (α : Type) := List (Nat × α)

/-- Bytes by address, in the same form; an unlisted byte reads as zero (03 R74). -/
abbrev Memory := List Host.Cell

/-! ### Warps -/

/-- A register file a result or an operand lies in (12 R271 TINFO[9:8]). -/
inductive RegKind where
  | vec | uni | pred
deriving DecidableEq, Repr

/-- The KIND of a divergence stack entry in use (05 Table 5-1). -/
inductive PathKind where
  | pending | joined | exited
deriving DecidableEq, Repr

/-- A divergence stack entry in use (05 R102). -/
structure StackEntry where
  kind  : PathKind
  pmask : BitVec 4
  jmask : BitVec 4
  pcw   : BitVec 53
deriving DecidableEq, Repr

/-- What a quad follows: its program counter, masks and divergence stack, top entry first (05 R101). -/
structure Path where
  pc     : BitVec 55
  active : BitVec 4
  living : BitVec 4
  stack  : List StackEntry
deriving DecidableEq, Repr

/-- Why a quad does not issue (05 R107, R110, R113; 19 R411, R415; 17 R361; 20 R426, R428, R430; 18 R388). -/
inductive Park where
  | running
  | bar (what : Instr)
  | barrier
  | rgang
  | rgangHome
  | packing (pc : BitVec 55)
  | waiting
  | malloc
  | qwait (mask : BitVec 8) (upTo : Nat)
  | mnopen
  | mnisect
  | fenceTick
  | sleep
  | yield (slots : List Nat) (issues : Nat)
deriving DecidableEq, Repr

/-- A fixed-latency result that the declared distance has not paid off yet (12 R271): `old` holds what the register held
before it, in the quad's four lanes (a uniform register in the first). -/
structure Debt where
  kind : RegKind
  reg  : Nat
  owed : Nat
  old  : List Word
deriving DecidableEq, Repr

/-- A quad (05 R101): its path, its gang, whether it is packed (R112), why it is parked, the path it held before an
`rgang` (18 R394), the core clock from which it may issue (R108) and the results it still owes (12 R271). -/
structure Quad where
  path    : Path
  gang    : Nat
  packed  : Bool
  park    : Park
  before  : Option Path
  readyAt : Nat
  debts   : List Debt
deriving DecidableEq, Repr

/-- A register allocation: vector registers by 32 × register + lane, uniform registers by number and predicates p0 to p6
as lane masks (00 R2, 12 R262, R263). -/
structure Regs where
  v : Cells Word
  u : Cells Word
  p : Cells LaneMask
deriving DecidableEq, Repr

/-- The registers a trap writes, and TBASE (05 R121, 15 Table 15-8). -/
structure TrapRegs where
  tbase  : BitVec 64
  tcause : Word
  tmask  : LaneMask
  taddr  : BitVec 64
  tfirst : BitVec 64
  tinfo  : BitVec 64
  tqpc   : List (BitVec 64)
deriving DecidableEq, Repr

/-- What a trap writes (05 R121): cause, faulting lanes, TADDR, TFIRST and TINFO. The manual states no TADDR, or no TINFO, for some
causes: none, and the value written is then free. -/
structure Trap where
  cause : Nat
  mask  : LaneMask
  addr  : Option Nat
  first : Nat
  info  : Option Nat
deriving DecidableEq, Repr

/-- A fault kept for delivery at `tret` or after a restore (08 R186). -/
structure HeldFault where
  cause : BitVec 8
  mask  : LaneMask
  addr  : BitVec 64
  info  : BitVec 64
deriving DecidableEq, Repr

/-- A binding record (10 Table 10-1). -/
structure BindRec where
  bank    : BitVec 8
  sfmt    : BitVec 8
  mfmt    : BitVec 8
  res     : BitVec 8
  mode    : BitVec 8
  preds   : BitVec 8
  flags   : BitVec 8
  sureg   : BitVec 8
  bmreg   : BitVec 8
  sel     : BitVec 8
  rsv10   : BitVec 16
  scale   : BitVec 32
  zp      : BitVec 32
  rowmap  : BitVec 32
  rsv24   : BitVec 56
  bound   : BitVec 8
deriving DecidableEq, Repr

/-- A bound slot: its record, the copies that `mbind` captured (10 R224), and whether a bank of it was freed since (17 R362). -/
structure Binding where
  record  : BindRec
  scales  : List Byte
  zeros   : List Byte
  rows    : BitVec 256
  freed   : Bool
deriving DecidableEq, Repr

/-- The mold step state: MSTEP and the 2,560 accumulator bytes (10 R234, Table 10-3). -/
structure StepState where
  active : Bool
  slot   : Nat
  opnd   : Nat
  total  : Nat
  done   : Nat
  acc    : Memory
deriving DecidableEq, Repr

/-- A scope (07 Table 7-2). -/
inductive Scope where
  | blk | clu | dev | sys
deriving DecidableEq, Repr

/-- The space of an access (06 Table 6-1, 19 R400). -/
inductive Space where
  | blk | spad | stack | dev
deriving DecidableEq, Repr

/-- The operations of `atom` and `red` (19 R405). -/
inductive AtomOp where
  | add | min | max | and | or | xor | exch | cas
deriving DecidableEq, Repr

/-- A run of bytes that one access touches: where it begins in its space, how many bytes, the data of a store, the offset or virtual
address that the program named it by, and for a speculative load the bytes that `data` lays over what is read (07 R162). -/
structure Part where
  addr  : Nat
  bytes : Nat
  data  : DWord
  name  : Nat
  laid  : BitVec 8
deriving DecidableEq, Repr

/-- Who asks for a `.sys` operation that is in no pending list (07 R149): the fetch of a core for a context at an address (12 R274), a parked `wait`
in a lane (19 R415), or an engine: a sprue's command, a ladle job or the collective unit, by a number of its own. -/
inductive Asker where
  | fetch (core ctx pc : Nat)
  | wait (warp seq lane : Nat)
  | engine (id : Nat)
deriving DecidableEq, Repr

/-- What an access or fence does when it is performed (07 R150). -/
inductive AccessKind where
  | ask (who : Asker) (write : Bool)
  | load (dst : List Nat) (signed : Bool)
  | store
  | atom (op : AtomOp) (ty : BitVec 5) (b c : DWord) (dst : Option Nat)
  | mon (dst : Nat)
  | tileFlag
  | mold (what : Op) (fields : Fields) (off bank : Nat)
  | fence (scope : Scope)
deriving DecidableEq, Repr

/-- An access or fence that a warp has issued and not performed (07 R149): its place in issue order, its instruction,
quad and lane, the lanes that trap when it fails, the depth at which its quad issued it, the place after which an `rgang` orders later accesses of the warp and that
after which a `join` orders those of its quad (R151), its annotations, and the bytes it touches. `held` marks a compared operation not released yet (11 R245) and
`holds` one that holds its gang (19 R468). -/
structure Access where
  seq    : Nat
  pc     : BitVec 55
  quad   : Nat
  lane   : Nat
  blame  : LaneMask
  depth  : Nat
  joined : Option Nat
  ended  : Option Nat
  acq    : Option Scope
  rel    : Option Scope
  space  : Space
  kind   : AccessKind
  parts  : List Part
  remote : Option (BitVec 10)
  tile   : Option (Space × Nat × Nat)
  held   : Bool
  holds  : Bool
  helper : Bool
deriving DecidableEq, Repr

/-- A pending variable-latency result (12 R272): the registers it will write, for the quads that issued it, what has been read for
it so far, by register and lane, and the registers and lanes in which it was issued too early (12 R271). -/
structure Scored where
  seq   : Nat
  quads : BitVec 8
  regs  : List (RegKind × Nat)
  vals  : List (Nat × Nat × Word)
  early : List (Nat × Nat)
deriving DecidableEq, Repr

/-- One lane of a parked `wait` (19 R415): its watched word, what it is compared with, and its result once satisfied.
`stirred` is set by a write to the word and cleared by the reread. -/
structure WaitLane where
  lane    : Nat
  space   : Space
  name    : Nat
  addr    : Nat
  remote  : Option (BitVec 10)
  operand : DWord
  result  : Option DWord
  stirred : Bool
deriving DecidableEq, Repr

/-- A parked `wait` (19 R415). `early` are the registers and lanes of d that it was issued too early to write (12 R271). -/
structure Waiting where
  seq     : Nat
  early   : List (Nat × Nat)
  pc      : BitVec 55
  len     : Nat
  quads   : BitVec 8
  wide    : Bool
  ne      : Bool
  acq     : Option Scope
  ext     : Bool
  dst     : Nat
  timeout : Nat
  since   : BitVec 64
  lanes   : List WaitLane
deriving DecidableEq, Repr

/-- A granule of an overrun buffer with its valid bytes (07 R162). -/
structure Granule where
  space : Space
  base  : Nat
  bytes : Memory
  valid : BitVec 32
deriving DecidableEq, Repr

/-- An overrun speculation (07 R162 to R166): the barrier passed, the paths to resume at, the buffer, the read set, the WSTAT
that a squash restores (09 R205), and the place in issue order where it began. -/
structure Speculation where
  word   : Nat
  gen    : BitVec 16
  paths  : List Path
  buffer : List Granule
  reads  : List Nat
  wstat  : Word
  since  : Nat
deriving DecidableEq, Repr

/-- A warp parked at a barrier word until GEN differs (19 R412). -/
structure AtBarrier where
  word : Nat
  gen  : BitVec 16
deriving DecidableEq, Repr

/-- A `fence.tick` that has not completed (07 R156): the heartbeat edge it waits for, once its accesses have drained. -/
structure TickFence where
  quads : BitVec 8
  seq   : Nat
  edge  : Option (BitVec 64)
deriving DecidableEq, Repr

/-- The result of an instruction that the shadow of a paired warp takes instead of reading its source (11 R244): whether it has arrived,
words for the registers that the instruction writes (its place among them, lane and word), and the slots and the step state that it set. -/
structure LoadValue where
  ready : Bool
  words : List (Nat × Nat × Word)
  slots : List (Nat × Option Binding)
  step  : Option StepState
deriving DecidableEq, Repr

/-- An instruction that the leading warp of a pair has issued and its shadow has not (11 R243 to R247): its quads, whether its guard
held in a real lane of another home warp of its gang (12 R267), the place in issue order of its accesses, the operands of a compared operation (R245),
whether that is performed at its issue and whether it has been released, its result (R244), whether it is `exit`, whether it is a `bar` that the warp's quads
pass together, the trap that it raised (R247), and the banks that it pours through (17 R362). -/
structure Trail where
  quads    : BitVec 8
  others   : Bool
  seq      : Nat
  compared : Option (List Nat)
  released : Bool
  value    : Option LoadValue
  exits    : Bool
  bar      : Bool
  trap     : Option Trap
  banks    : BitVec 64
deriving DecidableEq, Repr

/-- An uncorrectable error in a register of the warp (11 R248). -/
structure RegError where
  kind : RegKind
  reg  : Nat
  lane : Nat
deriving DecidableEq, Repr

/-- A warp (`trapWait` is a trap taken whose entry waits for what the warp has issued, `handler` the quads that take part in its
handler, 05 R121, R122): its place (00 R1), its block, its identity (05 R115, R117), its allocation, registers,
quads, control registers, mold slots, what it waits for, and what it has issued; `offered` after a `yieldb` (20 R435). A leading warp of a pair (11 R243) keeps in `trail` what its shadow has still to issue, in `agreed` the quads whose
compared operation has been released and is still to be performed, and in `trapGiven` that its trap was not raised by an instruction the shadow will issue; a
shadow keeps in `offer` the compared operation it has reached. (`late`
keeps the faults that lanes of a pending instruction have met, 19 Table 19-3 rows 6 and 7, by its place in issue order). -/
structure Warp where
  uid      : Nat
  core     : Nat
  slot     : Nat
  block    : Nat
  ctx      : Nat
  wid      : Nat
  ended    : Bool
  helper   : LaneMask
  absent   : LaneMask
  exited   : LaneMask
  nreg     : Nat
  nureg    : Nat
  regs     : Regs
  quads    : List Quad
  wctl     : Word
  wstat    : Word
  region   : BitVec 64
  rcount   : Word
  trap     : TrapRegs
  inTrap   : Bool
  trapWait : Option Trap
  handler  : BitVec 8
  heldFault : Option HeldFault
  slots    : List (Option Binding)
  mstep    : StepState
  pending  : List Access
  scored   : List Scored
  late     : List (Nat × Trap)
  waits    : List Waiting
  spec     : Option Speculation
  barrier  : Option AtBarrier
  tick     : Option TickFence
  errors   : List RegError
  lines    : List Nat
  cache    : Memory
  dirty    : List Nat
  badLines : List Nat
  retired  : BitVec 64
  startClk : Nat
  pours    : BitVec 64
  steps    : BitVec 64
  offered  : Bool
  trail    : List Trail
  agreed   : List (BitVec 8)
  trapGiven : Bool
  offer    : Option (List Nat)
deriving DecidableEq, Repr

/-! ### Blocks, cores and banks -/

/-- A resident block (04 R77, R87, R96; 05 R120; 06 R138, R467); `leaving` once issue has stopped for its eviction (04 R92 step 1). -/
structure Block where
  uid     : Nat
  die     : Nat
  task    : Nat
  stage   : Nat
  index   : Nat
  cores   : List Nat
  bases   : List Nat
  bmem    : Nat
  saveSlot : Nat
  lcore   : Nat
  nwarp   : Nat
  tags    : Cells Bool
  banks   : List (BitVec 64)
  leaving : Bool
deriving DecidableEq, Repr

/-- The state of a bank group: its parity-update queue (row, delta), stale rows, retired banks, lost rows and rows whose
parity waits to be recomputed (06 R133, R134, R136), and the errors that its banks have reported: bank, double-bit or not, heartbeat. -/
structure Group where
  id      : GroupId
  queue   : List (Nat × Word)
  stale   : List Nat
  retired : List Nat
  lost    : List (Nat × List Nat)
  recompute : List Nat
  reports : List (Nat × Bool × BitVec 64)
deriving DecidableEq, Repr

/-- A bank word with an error: its group, bank (4 for P), row, and whether the error is a double-bit one (06 R134). -/
structure BankError where
  id     : GroupId
  bank   : Nat
  row    : Nat
  double : Bool
deriving DecidableEq, Repr

/-- A cached shape record (06 R144, R453): the address it was read through, by context or by block, and its bytes. -/
structure CachedShape where
  block : Option Nat
  ctx   : Nat
  addr  : Nat
  bytes : List Byte
deriving DecidableEq, Repr

/-- A cached translation (06 R148). -/
structure CachedLeaf where
  ctx   : Nat
  page  : Nat
  level : Nat
  entry : BitVec 64
deriving DecidableEq, Repr

/-- A queued `malloc` (17 R361). -/
structure MallocReq where
  warp : Nat
  n    : Nat
  pair : Bool
  dst  : Nat
  pc   : BitVec 55
deriving DecidableEq, Repr

/-- A packing window (05 R110). -/
structure PackWindow where
  block  : Nat
  pc     : BitVec 55
  opened : Nat
deriving DecidableEq, Repr

/-! ### Engines -/

/-- The routes of a command (08 R174, R182; 20 Table 20-3). -/
structure Routes where
  barrier : Bool
  task    : Bool
  record  : Bool
  rows    : Bool
  die     : Nat
  index   : Nat
  word    : Nat
  tag     : BitVec 64
deriving DecidableEq, Repr

/-- A fault recorded with a command (08 R184); `told` once its warp has taken it (R185). -/
structure CmdFault where
  cause : BitVec 8
  addr  : BitVec 64
  info  : BitVec 64
  since : BitVec 64
  told  : Bool
deriving DecidableEq, Repr

/-- A shape record read whole (06 Table 6-7). -/
structure Shape where
  base     : BitVec 64
  ty       : BitVec 5
  rank     : Nat
  layout   : Nat
  bounds   : Nat
  space    : Nat
  die      : Nat
  owned    : Bool
  quant    : Bool
  dims     : List Nat
  strides  : List Int
  box      : List Nat
  owners   : BitVec 64
  oblk     : List Nat
  fill     : Word
  qgroup   : Nat
  scaleOff : Nat
  zpOff    : Nat
deriving DecidableEq, Repr

/-- The kinds of copy commands (08 R176 to R181). -/
inductive CopyKind where
  | cp | cpg | cps | cpt (inplace : Bool) | cpc | cpv (add : Bool)
deriving DecidableEq, Repr

/-- Where the indices of `cpg` and `cps` come from (08 Table 8-2): register values read at issue, or a block-memory range read when the
command is performed; `ctl` is IDXCTL. -/
structure IdxSource where
  regs  : Option (List Nat)
  off   : Nat
  ctl   : Nat
  count : Nat
deriving DecidableEq, Repr

/-- The place of an element: its space, key, and offset or virtual address; 1 or 2 for the low or high half of a byte. -/
structure Elem where
  space : Space
  key   : Nat
  name  : Nat
  half  : Nat
deriving DecidableEq, Repr

/-- A byte to be written: its value, which of its bits are given, and the name of its element. -/
structure OutByte where
  value : Byte
  mask  : Byte
  name  : Nat
deriving DecidableEq, Repr

/-- An access that a command has issued and that is not complete (07 R149, R160): the elements that it reads, with their places in the work they belong to, or the
consecutive bytes that it writes; `sent` is the number under which it is in the channel to another package (01 R19). -/
structure CmdAccess where
  sent  : Option Nat
  reads : List (Nat × Elem)
  write : Cells OutByte
  space : Space
deriving DecidableEq, Repr

/-- Rows of a command that are performed or fault together: a row, the rows of a `cpv` that share lines, or an in-place transpose. Its accesses not yet complete, the values read so
far by place, and the elements that wait to be written with the place of their value. -/
structure RowWork where
  rows : List Nat
  accs : List CmdAccess
  got  : List (Nat × Nat)
  dsts : List (Nat × Elem)
deriving DecidableEq, Repr

/-- What a command of a sprue does (08 R174; 20 R425, R429, R436, R439). -/
inductive CmdWork where
  | copy (kind : CopyKind) (src dst : Shape) (origins : List (List Int)) (index : IdxSource) (perm : List Nat)
      (version timeout : Nat)
  | feed (job : Nat) (base off count stream : Nat) (keysOnly : Bool)
  | qfence (mark : Nat)
  | save (parts : Nat) (base : Nat) (bytes : List (Nat × List Byte)) (image : Bool)
  | coll (op : Nat) (ty : BitVec 5) (record src dst : Nat) (key npart rank bytes timeout index : Nat)
      (since : BitVec 64)
deriving DecidableEq, Repr

/-- A command in a sprue: its issuer, the task of its issuer by die and index, its work, the rows already performed, the lines that timed out with the rows that they hold bytes of, the bytes performed,
whether its accesses have been issued, what of them is still to come, and whether it is done; the accesses of warps that come before it (07 R159: warp and place in issue order), its held writes, the fault
that it will record with the row that it was met in, and the fault recorded. -/
structure Command where
  uid     : Nat
  warp    : Nat
  block   : Nat
  task    : Nat × Nat
  ctx     : Nat
  routes  : Routes
  work    : CmdWork
  rows    : List Nat
  lost    : List (Nat × List Nat)
  bytes   : Nat
  begun   : Bool
  works   : List RowWork
  done    : Bool
  after   : List (Nat × Nat)
  heldWrites : Nat
  met     : Option (Nat × CmdFault)
  fault   : Option CmdFault
deriving DecidableEq, Repr

/-- A `cpc` that still misses slices (08 R180): where it will enter, the pairs that name its records, the command as supplied so far, and
the warps that gave a slice with the address of their `cpc` and the quads that executed it. -/
structure OpenCpc where
  core  : Nat
  named : Nat × Nat
  sprue : Nat
  cmd   : Command
  given : List (Nat × BitVec 55 × BitVec 8)
deriving DecidableEq, Repr

/-- A record of a die's event queue (08 Table 8-3), with the context it is posted for. -/
structure EventRecord where
  ctx   : Nat
  tag   : BitVec 64
  cause : BitVec 8
  sprue : BitVec 8
  core  : BitVec 16
  rows  : Word
  bytes : BitVec 64
  faddr : BitVec 64
deriving DecidableEq, Repr

/-- An entry of a ladle job (08 R189). -/
structure LadleEntry where
  coord  : BitVec 64
  value  : BitVec 64
  stream : Nat
  seq    : Nat
deriving DecidableEq, Repr

/-- A feed stopped in a job (08 R193, R195): where it began, the bytes read and the entries it still has to read. -/
structure StoppedFeed where
  base     : Nat
  off      : Nat
  count    : Nat
  stream   : Nat
  keysOnly : Bool
deriving DecidableEq, Repr

/-- A cause the ladle keeps with a job (08 R191, R193, R195, R471), with TADDR and TINFO where the manual states them. -/
structure JobFault where
  cause : BitVec 8
  addr  : Option (BitVec 64)
  info  : Option (BitVec 64)
deriving DecidableEq, Repr

/-- A write that a job has issued and not performed (07 R149): a ladle field of its record (08 R471), a part of a run in its spill area or its run table (R192), the count of a run, whose
bytes are given, or bytes of output with the number of entries that are whole after them (R191). -/
inductive LadleWrite where
  | field (off n v : Nat)
  | spill (off : Nat) (data : List Byte)
  | table (run : Nat) (data : List Byte)
  | run (bytes : Nat)
  | out (off : Nat) (data : List Byte) (whole : Nat)
deriving DecidableEq, Repr

/-- An open ladle job: the record it was opened on (08 Table 8-4), its opener, its routes, what the ladle holds of the record's
ladle fields (R471), its resident entries, per-stream numbering, owners and last keys, the warps that pushed to it, its stopped feeds and those that it continues, the fault kept, its
writes in order, whether an `mnresume` waits for its spill, and how far a drain has come: merged, the bytes and the stop of its output, runs delivered (R198), and routes acted on; `away` are the runs that participants on other packages have delivered and that it has still to
take. -/
structure Job where
  uid       : Nat
  name      : Nat
  ctx       : Nat
  cluster   : Nat
  warp      : Nat
  block     : Nat
  core      : Nat
  wid       : Nat
  blockIndex : Nat
  task      : Nat × Nat
  routes    : Routes
  out       : BitVec 64
  outCap    : Nat
  spill     : Nat
  spillCap  : Nat
  runTab    : Nat
  runMax    : Nat
  op        : Nat
  vty       : Nat
  form      : Nat
  ospace    : Nat
  odie      : Nat
  nstream   : Nat
  span      : Bool
  final     : Bool
  emit      : Bool
  npart     : Nat
  owner     : BitVec 32
  ownClu    : Nat
  runs      : Nat
  fstream   : Nat
  donePart  : Nat
  status    : Nat
  foff      : Nat
  emitted   : Nat
  count     : Nat
  spilled   : Nat
  entries   : List LadleEntry
  seqs      : Cells Nat
  owners    : Cells Nat
  lastKeys  : List (Nat × BitVec 64)
  pushers   : List Nat
  feeds     : List StoppedFeed
  going     : List StoppedFeed
  fault     : Option JobFault
  writes    : List LadleWrite
  resuming  : Option Bool
  merged    : Bool
  written   : Nat
  stopAt    : Option JobFault
  delivered : Nat
  acted     : Bool
  away      : List (List Byte)
deriving DecidableEq, Repr

/-- A core: its clock with the sequencer clocked last, its power and withdrawal, `withdrawing` while its blocks are evicted for that (11 R253), its sequencers' places in rotation (05 R108), the tasks served last, the latest first: for each priority the place 4,096 × die + index and the order of entry (04 R90), its copy engine (08 R172), mold bank queue
(17 R361), caches, packing windows and counters (20 R441). -/
structure Core where
  id        : Nat
  clk       : Nat
  turn      : Nat
  gated     : Bool
  withdrawing : Bool
  withdrawn : Bool
  idleSince : BitVec 64
  regErrors : List (BitVec 64)
  lastSlot  : List Nat
  lastGang  : Cells Nat
  lastTask  : List (Nat × Nat × Nat)
  icache    : List (Nat × Nat × Word)
  leaves    : List CachedLeaf
  shapes    : List CachedShape
  mallocs   : List MallocReq
  windows   : List PackWindow
  sprues    : List (List Command)
  rebuilt   : BitVec 64
  busyWaits : BitVec 64
  copied    : BitVec 64
deriving DecidableEq, Repr

/-! ### Tasks -/

/-- A stage descriptor (04 Table 4-2). -/
structure StageDesc where
  entry     : Nat
  gx        : Nat
  gy        : Nat
  gz        : Nat
  bx        : Nat
  by'       : Nat
  bz        : Nat
  cores     : Nat
  vregs     : Nat
  uregs     : Nat
  rsv25     : Nat
  slots     : Nat
  bmem      : Nat
  stackBase : Nat
  stackLen  : Nat
  queue     : Nat
deriving DecidableEq, Repr

/-- A task record (04 Table 4-1); `reserved` holds its reserved bytes as one number. -/
structure TaskRec where
  code     : Nat
  param    : Nat
  save     : Nat
  saveLen  : Nat
  dep      : Nat
  nparam   : Nat
  nstage   : Nat
  prio     : Nat
  flags    : BitVec 8
  nsucc    : Nat
  lcores   : Nat
  succ     : List (BitVec 16)
  stages   : List StageDesc
  reserved : Nat
deriving DecidableEq, Repr

/-- A stage of an entered task: its next unstarted block, its completed blocks, the save slots in use with their blocks,
whether a restore of it failed (04 R99), and the cores it holds in a pipeline (R84). -/
structure Stage where
  next  : Nat
  done  : Nat
  slots : List (Nat × Nat)
  stuck : Bool
  cores : List Nat
deriving DecidableEq, Repr

/-- What is kept of a saved warp beside its record (20 R441 counters; the quads of a running handler, 05 R122). -/
structure SavedWarp where
  uid     : Nat
  wid     : Nat
  handler : BitVec 8
  retired : BitVec 64
  clocks  : Nat
  pours   : BitVec 64
  steps   : BitVec 64
deriving DecidableEq, Repr

/-- A saved block (04 R92 to R94): what names it, its save slot, and its warps. -/
structure SavedBlock where
  uid   : Nat
  ctx   : Nat
  die   : Nat
  task  : Nat
  stage : Nat
  index : Nat
  slot  : Nat
  warps : List SavedWarp
deriving DecidableEq, Repr

/-- An entry of a die's task table (04 R75, R80), with the hosts of its logical cores (R86) and the heartbeat of its last evaluation (R84). -/
structure Task where
  die     : Nat
  idx     : Nat
  ctx     : Nat
  order   : Nat
  rec'    : TaskRec
  counter : Nat
  ready   : Bool
  params  : List Word
  stages  : List Stage
  hosts   : List (Nat × Nat)
  evalHb  : BitVec 64
deriving DecidableEq, Repr

/-- A context (02 R33, R37). `count` is its watchdog count, `retiredSum` what its resident warps had retired at the last heartbeat edge, and
`activeHb` the heartbeat in which an engine last performed an operation for it (04 R100). -/
structure Context where
  id         : Nat
  vd         : Nat
  root       : Nat
  saveBase   : Nat
  saveSize   : Nat
  watchdog   : Nat
  count      : Nat
  maxPrio    : Nat
  castOk     : Bool
  pairedOk   : Bool
  killing    : Bool
  killed     : Bool
  retiredSum : BitVec 64
  activeHb   : BitVec 64
deriving DecidableEq, Repr

/-! ### Virtual devices, partitions and commands -/

/-- A signal vector (02 R34). -/
structure Vector where
  target  : BitVec 64
  pkg     : BitVec 10
  cookie  : BitVec 56
  mask    : Bool
  pending : Bool
deriving DecidableEq, Repr

/-- An arm of SIGNAL_ON (02 R35). -/
inductive Arm where
  | task (vector die idx : Nat)
  | word (vector : Nat) (addr : Nat) (value : BitVec 64)
deriving DecidableEq, Repr

/-- A command queue's fixed part (02 R26). -/
structure QueueInfo where
  desc   : Nat
  die    : Nat
  enable : Bool
deriving DecidableEq, Repr

/-- The interface states (03 R66). -/
inductive Iface where
  | unlocked | locked | run | error
deriving DecidableEq, Repr

/-- An error record (11 Table 11-6). -/
structure ErrorRecord where
  kind   : Nat
  cause  : Nat
  time   : BitVec 64
  hb     : BitVec 64
  ctx    : Nat
  core   : Nat
  die    : Nat
  detail : Nat
  tmask  : LaneMask
  taddr  : BitVec 64
  tinfo  : BitVec 64
  seq    : Nat
  qpc    : List (BitVec 64)
deriving DecidableEq, Repr

/-- A virtual device (03 R54 to R72), numbered 16 × its partition + its number there: windows, queues, vectors, arms, slice, time (`pausing` while its blocks are evicted for a pause, `away` the pause length that another package's management processor gives, `gained` when it has gained work
in a pause: R43, R56, R61), interface, session and error log. -/
structure VDev where
  num      : Nat
  pid      : Nat
  host     : BitVec 10
  configAt : Nat
  windows  : List (BitVec 64 × BitVec 64)
  queues   : List QueueInfo
  vectors  : List Vector
  arms     : List Arm
  weight   : Nat
  quantum  : Nat
  wall     : Bool
  vtime    : Nat
  timeOff  : BitVec 64
  pausing  : Bool
  paused   : Option (BitVec 64)
  pausedHb : BitVec 64
  away     : Option (BitVec 64)
  gained   : Bool
  iface    : Iface
  digest   : List Byte
  session  : Bool
  exchanged : Bool
  log      : List ErrorRecord
  logSeq   : Nat
deriving DecidableEq, Repr

/-- A running JRF command (02 R29): where its block lies, what its header and body held when it was taken, how far a copy has
come, for SIGNAL_ON operation 4 the word watched since it was taken, its compare value and whether it has been equal (R35), and its outcome once it has one. -/
structure JrfCommand where
  uid     : Nat
  vd      : Nat
  queue   : Option Nat
  die     : Nat
  block   : Nat
  code    : Nat
  flags   : Nat
  ctx     : Nat
  sigvec  : Nat
  body    : List Byte
  after   : List Nat
  copied  : Nat
  phase   : Nat
  watch   : Option (Nat × BitVec 64 × Bool)
  outcome : Option (Nat × BitVec 64)
deriving DecidableEq, Repr

/-- A partition (03 R44, R56, R57): its committed descriptor, the virtual device whose slice runs with the time at which it began, and
the device of weight 0 that had the last turn. -/
structure Partition where
  desc    : PartDesc
  running : Option Nat
  since   : BitVec 64
  turn    : Option Nat
deriving DecidableEq, Repr

/-- A layout change in progress (03 R51): the shadow descriptors, how far ahead the tick will be named, when quiescing began, and the tick once it is named. -/
structure LayoutChange where
  parts : List PartDesc
  ahead : BitVec 64
  since : BitVec 64
  tick  : Option (BitVec 64)
deriving DecidableEq, Repr

/-- A margin cluster (03 R46, R47): the heartbeats in a row without its owner's work, whether it had such work in this one, whether it is idle, who borrows it, and whether
its owner claims it. -/
structure MarginState where
  cluster : Nat
  quiet   : Nat
  busy    : Bool
  idle    : Bool
  lentTo  : Option Nat
  claimed : Bool
deriving DecidableEq, Repr

/-! ### Fabric and power -/

/-- A Criell Link port (01 R12 to R17; 03 R65): `waiting` are flits that wait for room in the retry buffer, `untrained` says that its last training failed at every width, and
`served` counts the requests of each partition while several wait. -/
structure Port where
  id      : Nat
  up      : Bool
  width   : Nat
  expect  : BitVec 10
  acked   : BitVec 10
  naks    : Nat
  nakSeq  : BitVec 10
  nakOut  : Bool
  retry   : List Flit
  sent    : List Flit
  inbox   : List Flit
  waiting : List Flit
  untrained : Bool
  served  : Cells Nat
deriving DecidableEq, Repr

/-- A `.sys` operation between its issue and its response (01 R19 to R21): the warp's access or the sprue's command it belongs to,
where it is, and the reason of its failure with whether its destination has been within reach since (R21). -/
structure SysOp where
  uid    : Nat
  warp   : Nat
  access : Access
  pkg    : BitVec 10
  cls    : Nat
  since  : BitVec 64
  inChannel : Bool
  failed : Option Nat
  reached : Bool
deriving DecidableEq, Repr

/-- The response of an operation that was asked for (01 R19, R20): where it lay, whether it wrote, and what was read or written, or none with the cause and TINFO of what
failed. -/
structure Answer where
  who    : Asker
  addr   : Nat
  write  : Bool
  bytes  : Option (List Byte)
  cause  : Nat
  info   : Nat
deriving DecidableEq, Repr

/-- A versioned write held at a home slice (07 R167): its command, its line with its virtual address and place in the command, the rows it holds bytes of, the version it waits for, its data and its
deadline. -/
structure HeldWrite where
  cmd      : Nat
  ctx      : Nat
  line     : Nat
  name     : Nat
  index    : Nat
  rows     : List Nat
  expect   : Nat
  add      : Option (BitVec 5)
  data     : Memory
  deadline : BitVec 64
deriving DecidableEq, Repr

/-- What moves with a virtual device to another package (03 R63): the package and the partition that it comes from, the device, the bytes of its windows and queue descriptors, the
line versions, its contexts with every page that they map (context, address, entry, 512 MiB or not), its tasks, saved blocks, jobs and the blocks taken from its queues, and the length of
its pause in ns. -/
structure Moving where
  src      : BitVec 10
  part     : PartDesc
  vd       : VDev
  mem      : Memory
  spad     : Memory
  versions : Cells Nat
  contexts : List Context
  tasks    : List Task
  saved    : List SavedBlock
  jobs     : List Job
  maps     : List (Nat × Nat × BitVec 64 × Bool)
  commands : List JrfCommand
  pause    : BitVec 64
deriving DecidableEq, Repr

/-- Room reserved on a core set for a block that blocks of lower priority are evicted for (04 R90): its task and stage, and the set. -/
structure Reserve where
  die   : Nat
  task  : Nat
  stage : Nat
  set   : List Nat
deriving DecidableEq, Repr

/-- The algorithms that SPDM requests may be offered (03 R70). -/
inductive Algorithm where
  | ed25519 | sha512 | ecdhP384 | aes256Gcm
deriving DecidableEq, Repr

/-- What the package sends on the management channel or to the host (03 R66 to R74, 11 R258, 01 R23). -/
inductive Message where
  | error
  | ok
  | bytes (data : List Byte)
  | state (iface : Iface)
  | report (data signature : List Byte)
  | log (records : List ErrorRecord)
  | lockReport (locked : Bool)
  | hostData (host : BitVec 10) (addr : BitVec 64) (data : List Byte)
  | queues (host : BitVec 10) (descriptors : List Nat)
  | fabricError (pkg : BitVec 10)
  | signal (pkg : BitVec 10) (addr value : BitVec 64)
  | digests (data : List Byte)
  | signed (data signature : List Byte)
  | algorithms (offered : List Algorithm)
  | device (dest : BitVec 10) (image : Moving)
deriving DecidableEq, Repr

/-- One entry of the order in which things happen: an event, with the unit its operand-free forms act on; one clock of a sequencer; some nanoseconds that pass; a device that another
package's management processor sends (03 R63); the runs that a participant of another package delivers to a SPAN job, one of nothing if it has none (08 R198); or the outcome that the
self-test of a core will have at the next cold reset (11 R251). -/
inductive Act where
  | event (focus : Nat) (what : Instr)
  | clock (core seq : Nat)
  | elapse (ns : Nat)
  | arrive (image : Moving)
  | deliver (job : Nat) (run : List Byte)
  | selfTest (core : Nat) (result : TestResult)
deriving DecidableEq, Repr

/-- The gang chosen to issue: its core, the warp slot it issues from and its number (05 R106, R111). -/
structure Issuing where
  core : Nat
  slot : Nat
  gang : Nat
deriving DecidableEq, Repr

/-- The whole machine (`edgeNs` is when the last heartbeat edge came; `answers` are the responses that those who asked have not taken yet; `shadows` are the shadows of paired warps, each with its leading warp's identifier and a hidden slot 64 above its
slot, 11 R243; `zeroed` are the tasks whose counters reached zero during a checkpoint, in order, 02 R39; `tables` the page-table
pages that JRF added for MAP, with their context, log entry 40; `reserves` the room reserved for blocks of higher priority, 04 R90; `tests` outcomes of self-tests at the next cold reset, a core that it does not name passing, 11 R252; `arrived` devices that other packages have
sent, 03 R63). -/
structure State where
  agenda    : List Act
  here      : Nat × Nat
  cur       : Option Issuing
  focus     : Nat
  fresh     : Nat
  uids      : Nat
  hb        : BitVec 64
  ns        : BitVec 64
  edgeNs    : BitVec 64
  pkg       : BitVec 10
  root      : BitVec 10
  rootHb    : BitVec 64
  locked    : Bool
  routed    : Bool
  joined    : Bool
  routes    : List Route
  ports     : List Port
  channels  : List SysOp
  answers   : List Answer
  performedOps : List (Nat × BitVec 64)
  life      : LifeCycle
  identity  : Bool
  dev       : Memory
  versions  : Cells Nat
  badLines  : Cells Bool
  heldWrites : List HeldWrite
  bmem      : Memory
  spad      : Memory
  banks     : Memory
  badBankWords : Cells Bool
  parity    : Cells Word
  groups    : List Group
  bankErrors : List BankError
  warps     : List Warp
  shadows   : List Warp
  blocks    : List Block
  saved     : List SavedBlock
  cores     : List Core
  dieLeaves : List (Nat × CachedLeaf)
  tasks     : List Task
  lastIdx   : List Nat
  zeroed    : List (Nat × Nat)
  tables    : List (Nat × Nat)
  events    : List (Nat × EventRecord)
  cpcs      : List OpenCpc
  jobs      : List Job
  ladleIn   : Cells Nat
  contexts  : List Context
  lastCtx   : Nat
  vdevs     : List VDev
  commands  : List JrfCommand
  parts     : List Partition
  change    : Option LayoutChange
  margins   : List MarginState
  setpoints : Cells Nat
  stretched : List Nat
  cap       : Nat
  powerHb   : BitVec 64
  tripped   : Bool
  reserves  : List Reserve
  tests     : List (Nat × TestResult)
  arrived   : List Moving
  out       : List Message
deriving DecidableEq, Repr

/-- A core after cold reset: offered, not gated, with nothing in it (11 R251, 03 R74). -/
def Core.reset (id : Nat) : Core :=
  { id, clk := 0, turn := 3, gated := false, withdrawing := false, withdrawn := false, idleSince := 0, regErrors := [], lastSlot := [15, 15, 15, 15],
    lastGang := [],
    lastTask := [], icache := [], leaves := [], shapes := [], mallocs := [], windows := [],
    sprues := [[], [], [], [], [], [], [], []], rebuilt := 0, busyWaits := 0, copied := 0 }

/-- A port after cold reset: trained at width 4, nothing sent or received (01 R13). -/
def Port.reset (id : Nat) : Port :=
  { id, up := true, width := 4, expect := 0, acked := 1023, naks := 0, nakSeq := 0, nakOut := false, retry := [], sent := [], inbox := [], waiting := [], untrained := false,
    served := [] }

/-- The package right after cold reset: every memory zero (03 R74), the heartbeat at 0 (01 R22), no partition, virtual
device, context or task, every core tested and offered. Cores are listed once something has touched them; an unlisted core
is as `Core.reset` gives. The values that the spec does not state are those of assumption 2. -/
def State.reset : State :=
  { agenda := [], here := (0, 0), cur := none, focus := 0, fresh := 0, uids := 1, hb := 0, ns := 0, edgeNs := 0, pkg := 0, root := 0, rootHb := 0,
    locked := true, routed := true, joined := true, routes := [], ports := [], channels := [], answers := [], performedOps := [], life := .deployed,
    identity := true, dev := [], versions := [], badLines := [], heldWrites := [], bmem := [], spad := [], banks := [],
    badBankWords := [], parity := [], groups := [], bankErrors := [], warps := [], shadows := [], blocks := [], saved := [], cores := [],
    dieLeaves := [], tasks := [], lastIdx := [4095, 4095, 4095, 4095], zeroed := [], tables := [], events := [], cpcs := [], jobs := [], ladleIn := [], contexts := [],
    lastCtx := 0, vdevs := [], commands := [], parts := [], change := none, margins := [], setpoints := [], stretched := [],
    cap := 3000, powerHb := 0, tripped := false, reserves := [], tests := [], arrived := [], out := [] }

end Sys2Proof.Machine
end

