-- ==== Sys2Proof/Machine/Cells.lean ====
section
/-!
DEFINITION. Operations on sparse data and on bytes. A sparse list keeps rising keys and no key at the default, so that equal
contents are equal lists; every memory and register file of the state goes through these operations.
-/
namespace Sys2Proof.Machine

/-- The value at a key; `d` where the key is not listed. -/
def Cells.get {α : Type} (d : α) : Cells α → Nat → α
  | [], _ => d
  | c :: m, k => if c.1 = k then c.2 else Cells.get d m k

/-- A value that is not the default, put at its place. -/
def Cells.insert {α : Type} : Cells α → Nat → α → Cells α
  | [], k, v => [(k, v)]
  | c :: m, k, v =>
    if k < c.1 then (k, v) :: c :: m
    else if k = c.1 then (k, v) :: m
    else c :: Cells.insert m k v

/-- A key brought back to the default. -/
def Cells.erase {α : Type} : Cells α → Nat → Cells α
  | [], _ => []
  | c :: m, k => if c.1 = k then Cells.erase m k else c :: Cells.erase m k

/-- A value put at a key. -/
def Cells.put {α : Type} [DecidableEq α] (d : α) (m : Cells α) (k : Nat) (v : α) : Cells α :=
  if v = d then Cells.erase m k else Cells.insert m k v

/-- Rising keys above `lo`, none at the default. -/
def Cells.wfFrom {α : Type} [DecidableEq α] (d : α) : Nat → Cells α → Bool
  | _, [] => true
  | lo, c :: m => decide (lo ≤ c.1) && decide (c.2 ≠ d) && Cells.wfFrom d (c.1 + 1) m

/-- The canonical form. -/
def Cells.wf {α : Type} [DecidableEq α] (d : α) (m : Cells α) : Bool := Cells.wfFrom d 0 m

/-! ### Bytes -/

/-- One byte of a memory; an unlisted byte reads as zero (03 R74). -/
def Memory.byte (m : Memory) (a : Nat) : Byte := Cells.get 0 m a

/-- One byte written. -/
def Memory.setByte (m : Memory) (a : Nat) (v : Byte) : Memory := Cells.put 0 m a v

/-- The canonical form of a memory. -/
def Memory.wf (m : Memory) : Bool := Cells.wf (0 : Byte) m

/-- `n` bytes from an address, the first least significant (00 R3). -/
def Memory.read (m : Memory) (a : Nat) : Nat → Nat
  | 0 => 0
  | n + 1 => (m.byte a).toNat + 256 * Memory.read m (a + 1) n

/-- `n` bytes of a number written from an address, the least significant first (00 R3). -/
def Memory.write (m : Memory) (a : Nat) : Nat → Nat → Memory
  | 0, _ => m
  | n + 1, v => Memory.write (m.setByte a (BitVec.ofNat 8 v)) (a + 1) n (v / 256)

/-- `n` bytes as a list. -/
def Memory.bytes (m : Memory) (a : Nat) : Nat → List Byte
  | 0 => []
  | n + 1 => m.byte a :: Memory.bytes m (a + 1) n

/-- A list of bytes written from an address. -/
def Memory.setBytes (m : Memory) (a : Nat) : List Byte → Memory
  | [] => m
  | b :: bs => Memory.setBytes (m.setByte a b) (a + 1) bs

/-- Every byte of a range set to zero. -/
def Memory.zero (m : Memory) (lo n : Nat) : Memory := m.filter (fun c => c.1 < lo || lo + n ≤ c.1)

/-- `n` bytes of a list from an offset, as a number; bytes beyond its end read as zero. -/
def leAt (bs : List Byte) (off : Nat) : Nat → Nat
  | 0 => 0
  | n + 1 => (bs.getD off 0).toNat + 256 * leAt bs (off + 1) n

/-- The `n` bytes of a number, least significant first. -/
def leBytes : Nat → Nat → List Byte
  | 0, _ => []
  | n + 1, v => BitVec.ofNat 8 v :: leBytes n (v / 256)

/-- Every byte of a list is zero. -/
def allZero (bs : List Byte) : Bool := bs.all (· == 0)

/-- A list with its `k`-th element changed. -/
def modifyAt {α : Type} (f : α → α) : Nat → List α → List α
  | _, [] => []
  | 0, x :: xs => f x :: xs
  | k + 1, x :: xs => x :: modifyAt f k xs

/-! ### Numbers and bits -/

/-- A field of a number. -/
def natField (x lo n : Nat) : Nat := (x / 2 ^ lo) % 2 ^ n

/-- A bit of a number. -/
def natBit (x k : Nat) : Bool := x / 2 ^ k % 2 == 1

/-- A `w`-bit number read as two's complement. -/
def signed (w x : Nat) : Int := if x % 2 ^ w < 2 ^ (w - 1) then (x % 2 ^ w : Nat) else (x % 2 ^ w : Nat) - (2 ^ w : Nat)

/-- An integer modulo 2^w. -/
def wrap (w : Nat) (v : Int) : Nat := (v % (2 ^ w : Nat)).toNat

/-- An integer limited to a range. -/
def clampInt (lo hi v : Int) : Int := if v < lo then lo else if hi < v then hi else v

/-- The quotient rounded up. -/
def ceilDiv (a b : Nat) : Nat := (a + b - 1) / b

/-- A bit of a mask set or cleared. -/
def maskSet (m : LaneMask) (k : Nat) (v : Bool) : LaneMask :=
  if v then m ||| BitVec.ofNat 32 (2 ^ k) else m &&& ~~~(BitVec.ofNat 32 (2 ^ k))

/-- The lane numbers of a warp, ascending. -/
def lanes32 : List Nat :=
  [0, 1, 2, 3, 4, 5, 6, 7, 8, 9, 10, 11, 12, 13, 14, 15, 16, 17, 18, 19, 20, 21, 22, 23, 24, 25, 26, 27, 28, 29, 30, 31]

/-- The lanes of a mask, ascending. -/
def laneList (m : LaneMask) : List Nat := lanes32.filter (fun k => m.getLsbD k)

/-- The lowest lane of a mask. -/
def lowestLane (m : LaneMask) : Option Nat := (laneList m).head?

/-- The number of lanes of a mask. -/
def laneCount (m : LaneMask) : Nat := (laneList m).length

/-- A mask from a predicate over lanes. -/
def maskOf (f : Nat → Bool) : LaneMask := lanes32.foldl (fun m k => if f k then maskSet m k true else m) 0

/-- The four bits of a quad in a lane mask, and back. -/
def quadBits (m : LaneMask) (q : Nat) : BitVec 4 := m.extractLsb' (4 * q) 4
def quadMask (b : BitVec 4) (q : Nat) : LaneMask := (b.setWidth 32) <<< (4 * q)

end Sys2Proof.Machine
end

