-- ==== Sys2Proof/Machine/Fp.lean ====
section
/-!
DEFINITION. Number formats and exact arithmetic (chapter 09): the value of every code, rounding of an exact value back into a
format with its flags, conversions, and the special functions. A real value is a sign, a natural number and a power of two;
`sticky` says that the real value lies above it by less than one unit of that power.
-/
namespace Sys2Proof.Machine

/-! ### Flags of WSTAT (09 Table 9-5b) -/

def flIV : Nat := 1
def flDZ : Nat := 2
def flOF : Nat := 4
def flUF : Nat := 8
def flNX : Nat := 16
def flSAT : Nat := 32

/-- A result: its bits and the flags it sets. -/
abbrev Res := Nat × Nat

/-! ### Formats -/

/-- The special codes of a format (09 Table 9-2). -/
inductive Specials where
  | ieee | quiet | e4m3 | none
deriving DecidableEq, Repr

/-- A signed floating format: exponent bits, fraction bits, bias. -/
structure Fmt where
  ebits : Nat
  fbits : Nat
  bias  : Nat
  spec  : Specials
deriving DecidableEq, Repr

/-- The floating format of a type code (09 Table 9-1); e8m0 and the integer types have none. -/
def fmtOf (t : Nat) : Option Fmt :=
  match t with
  | 3 => some ⟨8, 23, 127, .ieee⟩
  | 4 => some ⟨5, 10, 15, .ieee⟩
  | 5 => some ⟨8, 7, 127, .ieee⟩
  | 6 => some ⟨4, 3, 7, .e4m3⟩
  | 7 => some ⟨5, 2, 15, .quiet⟩
  | 8 => some ⟨2, 1, 1, .none⟩
  | 15 => some ⟨11, 52, 1023, .ieee⟩
  | _ => none

def Fmt.width (f : Fmt) : Nat := 1 + f.ebits + f.fbits

/-- The largest finite code, without its sign (09 Table 9-3). -/
def Fmt.maxBits (f : Fmt) : Nat :=
  match f.spec with
  | .ieee | .quiet => (2 ^ f.ebits - 1) * 2 ^ f.fbits - 1
  | .e4m3 => 2 ^ (f.ebits + f.fbits) - 2
  | .none => 2 ^ (f.ebits + f.fbits) - 1

/-- The exponent of the smallest normal value, and of a unit of the smallest subnormal. -/
def Fmt.emin (f : Fmt) : Int := 1 - (f.bias : Int)
def Fmt.qmin (f : Fmt) : Int := f.emin - f.fbits

/-- A code with a sign. -/
def Fmt.signed (f : Fmt) (neg : Bool) (bits : Nat) : Nat := (if neg then 2 ^ (f.ebits + f.fbits) else 0) + bits

/-- The infinity and the default NaN of a format that has them. -/
def Fmt.inf (f : Fmt) (neg : Bool) : Nat := f.signed neg ((2 ^ f.ebits - 1) * 2 ^ f.fbits)
def Fmt.defaultNaN (f : Fmt) : Nat :=
  match f.spec with
  | .e4m3 => 0x7F
  | _ => (2 ^ f.ebits - 1) * 2 ^ f.fbits + 2 ^ (f.fbits - 1)

/-- The default NaN of a type code (09 Table 9-3). -/
def defaultNaN (t : Nat) : Nat := match fmtOf t with | some f => f.defaultNaN | none => 0xFF

/-- The value of a code (09 R200). A NaN keeps its sign, whether it is quiet, and its fraction at the top of 52 bits as R209
widens it. -/
inductive Num where
  | nan (neg quiet : Bool) (frac : Nat)
  | inf (neg : Bool)
  | fin (neg : Bool) (m : Nat) (e : Int)
deriving DecidableEq, Repr

/-- A signed integer type (09 Table 9-1). -/
def tySigned (t : Nat) : Bool := t == 1 || t == 9 || t == 13 || t == 16

/-- A floating type, e8m0 included. -/
def tyFloat (t : Nat) : Bool := t == 3 || t == 4 || t == 5 || t == 6 || t == 7 || t == 8 || t == 15 || t == 18

/-- The value of an element of type `t` (09 R199, R200; NaN fractions under R209). -/
def decodeNum (t bits : Nat) : Num :=
  match fmtOf t with
  | some f =>
    let neg := natBit bits (f.ebits + f.fbits)
    let e := natField bits f.fbits f.ebits
    let fr := natField bits 0 f.fbits
    if f.spec == .e4m3 && e == 15 && fr == 7 then .nan neg true (2 ^ 51)
    else if f.spec == .quiet && e == 31 && fr != 0 then .nan neg true (2 ^ 51 + fr * 2 ^ 49)
    else if f.spec == .ieee && e == 2 ^ f.ebits - 1 && fr != 0 then .nan neg (natBit fr (f.fbits - 1)) (fr * 2 ^ (52 - f.fbits))
    else if (f.spec == .ieee || f.spec == .quiet) && e == 2 ^ f.ebits - 1 then .inf neg
    else if e == 0 then .fin neg fr f.qmin
    else .fin neg (2 ^ f.fbits + fr) (f.qmin + (e : Int) - 1)
  | none =>
    if t == 18 then (if bits % 256 == 255 then .nan false true (2 ^ 51) else .fin false 1 ((bits % 256 : Nat) - 127))
    else
      let w := tyWidth t
      if tySigned t && natBit bits (w - 1) then .fin true (2 ^ w - bits % 2 ^ w) 0 else .fin false (bits % 2 ^ w) 0

/-- A value is a NaN, and a signalling one. -/
def Num.isNaN : Num → Bool | .nan _ _ _ => true | _ => false
def Num.isSNaN : Num → Bool | .nan _ q _ => !q | _ => false
def Num.isZero : Num → Bool | .fin _ m _ => m == 0 | _ => false
def Num.neg : Num → Bool | .nan n _ _ => n | .inf n => n | .fin n _ _ => n

/-- FTZ on an operand (09 R206): a subnormal f32 or f64 is read as zero of its sign. -/
def flushIn (t : Nat) (ftz : Bool) (bits : Nat) : Nat :=
  if ftz && (t == 3 || t == 15) then
    match fmtOf t with
    | some f => if natField bits f.fbits f.ebits == 0 then f.signed (natBit bits (f.ebits + f.fbits)) 0 else bits
    | none => bits
  else bits

/-! ### Rounding (09 R201 to R203) -/

/-- m × 2^e, plus less than a unit when `st`, rounded to a multiple of 2^q: the multiple, and whether it is inexact. -/
def roundAt (mode : Nat) (neg : Bool) (rb : Nat) (m : Nat) (e : Int) (st : Bool) (q : Int) : Nat × Bool :=
  if q ≤ e then
    let n := m * 2 ^ (e - q).toNat
    let up := st && ((mode == 2 && neg) || (mode == 3 && !neg))
    (if up then n + 1 else n, st)
  else
    let sh := (q - e).toNat
    let lo := m >>> sh
    let rem := m - lo <<< sh
    let inexact := rem != 0 || st
    let half := 1 <<< (sh - 1)
    let up :=
      match mode with
      | 0 => rem > half || (rem == half && (st || lo % 2 == 1))
      | 2 => neg && inexact
      | 3 => !neg && inexact
      | 4 => rem ≥ half
      | 5 => inexact && ((rem <<< 16) >>> sh) + rb ≥ 65536
      | _ => false
    (if up then lo + 1 else lo, inexact)

/-- What an overflow does beside R203: nothing, the largest finite value with SAT (16 R343, 10 R232), or that value in place of
an infinity only (09 R210, 16 R350). -/
inductive SatRule where
  | no | full | infinity
deriving DecidableEq, Repr

/-- An exact finite value rounded into a signed floating format (09 R203, R206, Table 9-6). `ftz` writes a tiny result as zero. -/
def encodeFmt (f : Fmt) (mode rb : Nat) (sat : SatRule) (ftz : Bool) (neg : Bool) (m : Nat) (e : Int) (st : Bool) : Res :=
  if m == 0 && !st then (f.signed neg 0, 0)
  else if m == 0 then
    -- a value below every unit, not zero
    if ftz then (f.signed neg 0, flUF ||| flNX)
    else
      let up := (mode == 2 && neg) || (mode == 3 && !neg)
      (f.signed neg (if up then 1 else 0), flUF ||| flNX)
  else
    let top : Int := (m.log2 : Int) + e
    let qu := top - f.fbits
    let (nu, _) := roundAt mode neg rb m e st qu
    let passed : Bool := 0 ≤ qu - f.qmin && (qu - f.qmin).toNat * 2 ^ f.fbits + nu > f.maxBits
    let tiny : Bool := decide ((if nu ≥ 2 ^ (f.fbits + 1) then top + 1 else top) < f.emin)
    if passed then
      match f.spec with
      | .e4m3 | .none => (f.signed neg f.maxBits, flOF ||| flNX ||| flSAT)
      | .ieee | .quiet =>
        let toInf := mode == 0 || mode == 4 || mode == 5 || (mode == 2 && neg) || (mode == 3 && !neg)
        match sat with
        | .full => (f.signed neg f.maxBits, flOF ||| flNX ||| flSAT)
        | .infinity => if toInf then (f.signed neg f.maxBits, flOF ||| flNX ||| flSAT) else (f.signed neg f.maxBits, flOF ||| flNX)
        | .no => if toInf then (f.inf neg, flOF ||| flNX) else (f.signed neg f.maxBits, flOF ||| flNX)
    else if tiny && ftz then (f.signed neg 0, flUF ||| flNX)
    else
      let q := max qu f.qmin
      let (n, inexact) := roundAt mode neg rb m e st q
      (f.signed neg ((q - f.qmin).toNat * 2 ^ f.fbits + n),
        if inexact then (if tiny then flUF ||| flNX else flNX) else 0)

/-- An exact finite value among the powers of two of e8m0 (09 R210, Table 9-6). -/
def encodeE8m0 (mode rb : Nat) (neg : Bool) (m : Nat) (e : Int) : Res :=
  if m == 0 then (0, flUF ||| flNX)
  else if neg then (0xFF, flIV)
  else
    let k : Int := (m.log2 : Int) + e
    let (n, inexact) := roundAt mode false rb m e false k
    let tie := inexact && mode == 0 && m * 2 == 3 * 2 ^ m.log2
    let up := if tie then (k + 127) % 2 != 0 else n == 2
    let p := if up then k + 1 else k
    if p > 127 then (0xFE, flOF ||| flNX ||| flSAT)
    else if p < -127 then (0, flUF ||| flNX)
    else ((p + 127).toNat, if inexact then flNX else 0)

/-- The bounds of an integer type. -/
def intMin (t : Nat) : Int := if tySigned t then -(2 ^ (tyWidth t - 1) : Nat) else 0
def intMax (t : Nat) : Int := if tySigned t then (2 ^ (tyWidth t - 1) : Nat) - 1 else (2 ^ tyWidth t : Nat) - 1

/-- An exact finite value rounded to an integer type (09 R212). -/
def encodeInt (t mode rb : Nat) (neg : Bool) (m : Nat) (e : Int) : Res :=
  let (n, inexact) := roundAt mode neg rb m e false 0
  let v : Int := if neg then -(n : Int) else n
  if v < intMin t then (wrap (tyWidth t) (intMin t), flIV ||| flSAT)
  else if v > intMax t then (wrap (tyWidth t) (intMax t), flIV ||| flSAT)
  else (wrap (tyWidth t) v, if inexact then flNX else 0)

/-- An exact finite value rounded into any type. -/
def encodeNum (t mode rb : Nat) (sat : SatRule) (ftz : Bool) (neg : Bool) (m : Nat) (e : Int) (st : Bool) : Res :=
  match fmtOf t with
  | some f => encodeFmt f mode rb sat (ftz && (t == 3 || t == 15)) neg m e st
  | none => if t == 18 then encodeE8m0 mode rb neg m e else encodeInt t mode rb neg m e

/-- An infinite operand written into a type (09 R212, Table 9-6). -/
def encodeInf (t : Nat) (neg : Bool) : Res :=
  match fmtOf t with
  | some f =>
    match f.spec with
    | .e4m3 | .none => (f.signed neg f.maxBits, flSAT)
    | .ieee | .quiet => (f.inf neg, 0)
  | none =>
    if t == 18 then (if neg then (0xFF, flIV) else (0xFE, flSAT))
    else (wrap (tyWidth t) (if neg then intMin t else intMax t), flIV ||| flSAT)

/-- A NaN written into a type (09 R208 to R210, R212, Table 9-6); `quiet` is that of the operand. -/
def encodeNaN (t : Nat) (neg quiet : Bool) (frac : Nat) : Res :=
  let iv := if quiet then 0 else flIV
  match fmtOf t with
  | some f =>
    match f.spec with
    | .ieee =>
      (f.signed neg ((2 ^ f.ebits - 1) * 2 ^ f.fbits + (frac / 2 ^ (52 - f.fbits) ||| 2 ^ (f.fbits - 1))), iv)
    | .quiet => (f.signed neg (0x7C + (if natField frac 49 2 == 0 then 2 else natField frac 49 2)), iv)
    | .e4m3 => (f.signed neg 0x7F, iv)
    | .none => (0, flIV)
  | none => if t == 18 then (0xFF, flIV) else (0, flIV ||| flSAT)

/-- A conversion of one element between any two types (09 R209 to R212; 16 R350). -/
def convertElem (dst src mode rb : Nat) (sat : SatRule) (ftz : Bool) (bits : Nat) : Res :=
  let acts := ftz && (dst == 3 || dst == 15)
  match decodeNum src (flushIn src acts bits) with
  | .nan neg q fr => encodeNaN dst neg q fr
  | .inf neg => encodeInf dst neg
  | .fin neg m e => encodeNum dst mode rb sat acts neg m e false

/-! ### Operations on values -/

/-- A signed value as an integer multiple of 2^e. -/
def sgn (neg : Bool) (m : Nat) : Int := if neg then -(m : Int) else m

/-- The first NaN of a list of operands, quieted, with IV when some operand signals (09 R208). -/
def nanOf (t : Nat) (xs : List Num) : Option Res :=
  match xs.find? Num.isNaN with
  | some (.nan neg _ fr) =>
    some ((encodeNaN t neg true fr).1, if xs.any Num.isSNaN then flIV else 0)
  | _ => none

/-- The default NaN with IV (09 R207). -/
def invalid (t : Nat) : Res := (defaultNaN t, flIV)

/-- A zero of a type. -/
def zeroOf (t : Nat) (neg : Bool) : Nat := match fmtOf t with | some f => f.signed neg 0 | none => 0

/-- How an arithmetic instruction rounds: code, random bits, what an overflow does, and FTZ. -/
structure Rnd where
  mode : Nat
  rb   : Nat
  sat  : SatRule
  ftz  : Bool
deriving DecidableEq, Repr

def Rnd.enc (r : Rnd) (t : Nat) (neg : Bool) (m : Nat) (e : Int) (st : Bool) : Res := encodeNum t r.mode r.rb r.sat r.ftz neg m e st

/-- The exact sum of two finite values, rounded once, with the zero rule of 16 R343. -/
def addFin (t : Nat) (r : Rnd) (n1 : Bool) (m1 : Nat) (e1 : Int) (n2 : Bool) (m2 : Nat) (e2 : Int) : Res :=
  if m1 == 0 && m2 == 0 then (zeroOf t (if n1 == n2 then n1 else r.mode == 2), 0)
  else
    let e := if m1 == 0 then e2 else if m2 == 0 then e1 else min e1 e2
    let v := (if m1 == 0 then 0 else sgn n1 m1 * (2 ^ (e1 - e).toNat : Nat))
      + (if m2 == 0 then 0 else sgn n2 m2 * (2 ^ (e2 - e).toNat : Nat))
    if v == 0 then (zeroOf t (r.mode == 2), 0) else r.enc t (decide (v < 0)) v.natAbs e false

/-- The sum of two values; the NaNs of the operands have been propagated. -/
def addNum (t : Nat) (r : Rnd) (x y : Num) : Res :=
  match x, y with
  | .inf a, .inf b => if a == b then ((encodeInf t a).1, 0) else invalid t
  | .inf a, _ => ((encodeInf t a).1, 0)
  | _, .inf b => ((encodeInf t b).1, 0)
  | .fin n1 m1 e1, .fin n2 m2 e2 => addFin t r n1 m1 e1 n2 m2 e2
  | _, _ => invalid t

/-- A value with its sign reversed. -/
def Num.negate : Num → Num
  | .nan n q f => .nan n q f
  | .inf n => .inf (!n)
  | .fin n m e => .fin (!n) m e

/-- The exact product of two values that are not NaN; `none` for 0 × ∞. -/
def mulNum (x y : Num) : Option Num :=
  match x, y with
  | .inf a, .inf b => some (.inf (a != b))
  | .inf a, .fin b m _ => if m == 0 then none else some (.inf (a != b))
  | .fin a m _, .inf b => if m == 0 then none else some (.inf (a != b))
  | .fin a m1 e1, .fin b m2 e2 => some (.fin (a != b) (m1 * m2) (e1 + e2))
  | _, _ => none

/-- A value that is not a NaN, rounded. -/
def roundNum (t : Nat) (r : Rnd) : Num → Res
  | .inf a => ((encodeInf t a).1, 0)
  | .fin n m e => r.enc t n m e false
  | .nan n _ f => encodeNaN t n true f

/-- fadd and fsub on elements (16 R343). -/
def faddElem (t : Nat) (r : Rnd) (sub : Bool) (a b : Nat) : Res :=
  let x := decodeNum t (flushIn t r.ftz a)
  let y := decodeNum t (flushIn t r.ftz b)
  match nanOf t [x, y] with
  | some v => v
  | none => addNum t r x (if sub then y.negate else y)

/-- fmul on elements (16 R343). -/
def fmulElem (t : Nat) (r : Rnd) (a b : Nat) : Res :=
  let x := decodeNum t (flushIn t r.ftz a)
  let y := decodeNum t (flushIn t r.ftz b)
  match nanOf t [x, y] with
  | some v => v
  | none => match mulNum x y with | some v => roundNum t r v | none => invalid t

/-- fma on elements (16 R343): one rounding; 0 × ∞ with a quiet NaN addend gives that NaN and IV. -/
def fmaElem (t : Nat) (r : Rnd) (a b c : Nat) : Res :=
  let x := decodeNum t (flushIn t r.ftz a)
  let y := decodeNum t (flushIn t r.ftz b)
  let z := decodeNum t (flushIn t r.ftz c)
  match nanOf t [x, y, z] with
  | some (v, fl) => (v, if !x.isNaN && !y.isNaN && (mulNum x y).isNone then flIV else fl)
  | none => match mulNum x y with | some v => addNum t r v z | none => invalid t

/-- fscale on elements (16 R343). Beyond 10,000 the scaled value overflows or underflows every format, with the same result. -/
def fscaleElem (t : Nat) (r : Rnd) (a : Nat) (n : Int) : Res :=
  let x := decodeNum t (flushIn t r.ftz a)
  match nanOf t [x] with
  | some v => v
  | none =>
    match x with
    | .fin neg m e => r.enc t neg m (e + clampInt (-10000) 10000 n) false
    | v => roundNum t r v

/-- x < y for values that are not NaN; `signedZero` orders −0 below +0. -/
def ltNum (signedZero : Bool) (x y : Num) : Bool :=
  match x, y with
  | .inf a, .inf b => a && !b
  | .inf a, _ => a
  | _, .inf b => !b
  | .fin n1 m1 e1, .fin n2 m2 e2 =>
    if m1 == 0 && m2 == 0 then signedZero && n1 && !n2
    else
      let e := min e1 e2
      decide (sgn n1 m1 * (2 ^ (e1 - e).toNat : Nat) < sgn n2 m2 * (2 ^ (e2 - e).toNat : Nat))
  | _, _ => false

/-- fmin, fmax and fmnum on elements (16 R344): `max` chooses the larger and `number` prefers numbers to NaNs. -/
def fminElem (t : Nat) (ftz max number : Bool) (a b : Nat) : Res :=
  let a := flushIn t ftz a
  let b := flushIn t ftz b
  let x := decodeNum t a
  let y := decodeNum t b
  let iv := if x.isSNaN || y.isSNaN then flIV else 0
  if number && x.isNaN && !y.isNaN then (b, iv)
  else if number && y.isNaN && !x.isNaN then (a, iv)
  else match nanOf t [x, y] with
    | some v => (v.1, iv)
    | none => (if max then (if ltNum true x y then b else a) else (if ltNum true y x then b else a), 0)

/-- fsetp on elements (16 R346, 13 Table 13-3: eq ne lt le gt ge num nan). -/
def fcmpElem (t : Nat) (ftz : Bool) (cmp a b : Nat) : Bool × Nat :=
  let x := decodeNum t (flushIn t ftz a)
  let y := decodeNum t (flushIn t ftz b)
  let un := x.isNaN || y.isNaN
  let iv := if x.isSNaN || y.isSNaN || (un && 2 ≤ cmp && cmp ≤ 5) then flIV else 0
  let r :=
    match cmp with
    | 0 => !un && !ltNum false x y && !ltNum false y x
    | 1 => un || ltNum false x y || ltNum false y x
    | 2 => !un && ltNum false x y
    | 3 => !un && !ltNum false y x
    | 4 => !un && ltNum false y x
    | 5 => !un && !ltNum false x y
    | 6 => !un
    | _ => un
  (r, iv)

/-- The class bit of an element (16 Table 16-4), from its raw bits. -/
def classBit (t bits : Nat) : Nat :=
  match decodeNum t bits with
  | .nan _ q _ => if q then 9 else 8
  | .inf neg => if neg then 0 else 7
  | .fin neg m _ =>
    if m == 0 then (if neg then 3 else 4)
    else
      let sub := match fmtOf t with | some f => natField bits f.fbits f.ebits == 0 | none => false
      if sub then (if neg then 2 else 5) else (if neg then 1 else 6)

/-! ### Division and roots -/

/-- A quotient of naturals with at least 90 bits: the integer quotient, its exponent and whether it is inexact. -/
def quotient (n d : Nat) : Nat × Int × Bool :=
  let k := 90 + d.log2 - n.log2
  let k := if n.log2 > 90 + d.log2 then 0 else k
  ((n <<< k) / d, -(k : Int), (n <<< k) % d != 0)

/-- The integer square root, bit by bit from bit `k`. -/
def isqrtFrom (n : Nat) : Nat → Nat → Nat
  | 0, r => if (r + 1) * (r + 1) ≤ n then r + 1 else r
  | k + 1, r =>
    let c := r + 2 ^ (k + 1)
    isqrtFrom n k (if c * c ≤ n then c else r)

def isqrt (n : Nat) : Nat := isqrtFrom n (n.log2 / 2 + 1) 0

/-- fdiv on elements (16 R348). -/
def fdivElem (t : Nat) (r : Rnd) (a b : Nat) : Res :=
  let x := decodeNum t (flushIn t r.ftz a)
  let y := decodeNum t (flushIn t r.ftz b)
  match nanOf t [x, y] with
  | some v => v
  | none =>
    match x, y with
    | .inf _, .inf _ => invalid t
    | .inf n1, .fin n2 _ _ => ((encodeInf t (n1 != n2)).1, 0)
    | .fin n1 _ _, .inf n2 => (zeroOf t (n1 != n2), 0)
    | .fin n1 m1 e1, .fin n2 m2 e2 =>
      if m2 == 0 then (if m1 == 0 then invalid t else ((encodeInf t (n1 != n2)).1, flDZ))
      else if m1 == 0 then (zeroOf t (n1 != n2), 0)
      else
        let (q, k, st) := quotient m1 m2
        r.enc t (n1 != n2) q (e1 - e2 + k) st
    | _, _ => invalid t

/-- The square root of m × 2^e with 100 bits. -/
def sqrtFin (m : Nat) (e : Int) : Nat × Int × Bool :=
  let k := 200 - min m.log2 200
  let k := if (e - k) % 2 == 0 then k else k + 1
  let n := m <<< k
  let r := isqrt n
  (r, (e - k) / 2, r * r != n)

/-- fsqrt on an element (16 R348). -/
def fsqrtElem (t : Nat) (r : Rnd) (a : Nat) : Res :=
  let x := decodeNum t (flushIn t r.ftz a)
  match nanOf t [x] with
  | some v => v
  | none =>
    match x with
    | .inf neg => if neg then invalid t else ((encodeInf t false).1, 0)
    | .fin neg m e =>
      if m == 0 then (zeroOf t neg, 0)
      else if neg then invalid t
      else
        let (q, k, st) := sqrtFin m e
        r.enc t false q k st
    | _ => invalid t

/-! ### Special functions (09 R215, R216)
Sums of series in fixed point. Every result is inexact but for those that a power of two gives. -/

/-- Fractional bits of the fixed-point series. -/
def fxBits : Nat := 512

/-- Σ over odd powers x^(2k+1)/(2k+1), with alternating signs when `alt`: atan or atanh of a fixed-point x below 1. -/
def oddSeries (alt : Bool) (x2 : Nat) : Nat → Nat → Nat → Int → Int
  | 0, _, _, acc => acc
  | fuel + 1, p, k, acc =>
    let term : Int := (p / (2 * k + 1) : Nat)
    oddSeries alt x2 fuel ((p * x2) >>> fxBits) (k + 1) (if alt && k % 2 == 1 then acc - term else acc + term)

/-- atan(1/n) and atanh(x) in fixed point. -/
def atanInv (n : Nat) : Int := let x := 2 ^ fxBits / n; oddSeries true ((x * x) >>> fxBits) 260 x 0 0
def atanhFx (x : Nat) : Int := oddSeries false ((x * x) >>> fxBits) 260 x 0 0

/-- π and ln 2 in fixed point. -/
def piFx : Int := 16 * atanInv 5 - 4 * atanInv 239
def ln2Fx : Int := 2 * atanhFx (2 ^ fxBits / 3)

/-- Σ t^k/k! from the term `p` = t^k/k!, every `step` terms, with alternating signs when `alt`. -/
def expSeries (alt : Bool) (t : Nat) (step : Nat) : Nat → Nat → Nat → Bool → Int → Int
  | 0, _, _, _, acc => acc
  | fuel + 1, p, k, minus, acc =>
    let p' := if step == 2 then (((((p * t) >>> fxBits) / (k + 1)) * t) >>> fxBits) / (k + 2) else ((p * t) >>> fxBits) / (k + 1)
    expSeries alt t step fuel p' (k + step) (alt && !minus) (if minus then acc - p else acc + p)

def expFx (t : Nat) : Int := expSeries false t 1 120 (2 ^ fxBits) 0 false 0
def cosFx (t : Nat) : Int := expSeries true t 2 70 (2 ^ fxBits) 0 false 0
def sinFx (t : Nat) : Int := expSeries true t 2 70 t 1 false 0

/-- A fixed-point result rounded to `t` under RNE. -/
def encFx (t : Nat) (ftz : Bool) (v : Int) : Res :=
  encodeNum t 0 0 .no ftz (decide (v < 0)) v.natAbs (-(fxBits : Int)) true

/-- The six special functions. -/
inductive SpecFn where
  | rcp | rsq | ex2 | lg2 | sin | cos
deriving DecidableEq, Repr

/-- 2^x for x = ±m × 2^e. -/
def ex2Fin (t : Nat) (ftz neg : Bool) (m : Nat) (e : Int) : Res :=
  if (m.log2 : Int) + e ≥ 12 then encodeNum t 0 0 .no ftz false 1 (if neg then -8192 else 8192) true
  else
    let x : Int := sgn neg m
    -- x × 2^1100 is an integer for every operand
    let fx := x * (2 ^ (e + 1100).toNat : Nat)
    let n := fx / (2 ^ 1100 : Nat)
    let f := (fx % (2 ^ 1100 : Nat)).toNat
    if f == 0 then encodeNum t 0 0 .no ftz false 1 n false
    else encodeNum t 0 0 .no ftz false (expFx ((f * ln2Fx.toNat) >>> 1100)).toNat (n - fxBits) true

/-- log2 of m × 2^e, m not zero. -/
def lg2Fin (t : Nat) (ftz : Bool) (m : Nat) (e : Int) : Res :=
  let k := m.log2
  let n : Int := (k : Int) + e
  if m == 2 ^ k then encodeNum t 0 0 .no ftz (decide (n < 0)) n.natAbs 0 false
  else
    let y := (m <<< fxBits) >>> k
    let z := ((y - 2 ^ fxBits) <<< fxBits) / (y + 2 ^ fxBits)
    let l := 2 * atanhFx z
    encFx t ftz (n * (2 ^ fxBits : Nat) + (l * (2 ^ fxBits : Nat)) / ln2Fx)

/-- sin or cos of ±m × 2^e, m not zero, reduced exactly against π (09 R216). -/
def trigFin (t : Nat) (ftz cos neg : Bool) (m : Nat) (e : Int) : Res :=
  if e < -300 then (if cos then encodeNum t 0 0 .no ftz false 1 0 true else encodeNum t 0 0 .no ftz neg m e true)
  else
    let x : Nat := if 0 ≤ e + fxBits then m * 2 ^ (e + fxBits).toNat else m
    let h := (piFx / 2).toNat
    let q := x / h
    let r := x % h
    let s := if cos then q + 1 else q
    let v := if s % 2 == 0 then sinFx r else cosFx r
    let v := if s % 4 ≥ 2 then -v else v
    encFx t ftz (if neg && !cos then -v else v)

/-- A special function on an operand `x` of type `src`, rounded once under RNE to `t` (09 R215, R216). -/
def specialElem (fn : SpecFn) (t src : Nat) (ftz : Bool) (a : Nat) : Res :=
  let x := decodeNum src (flushIn src ftz a)
  match nanOf t [x] with
  | some v => v
  | none =>
    match fn, x with
    | .rcp, .inf neg => (zeroOf t neg, 0)
    | .rcp, .fin neg m e =>
      if m == 0 then ((encodeInf t neg).1, flDZ)
      else let (q, k, st) := quotient 1 m; encodeNum t 0 0 .no ftz neg q (k - e) st
    | .rsq, .inf neg => if neg then invalid t else (zeroOf t false, 0)
    | .rsq, .fin neg m e =>
      if m == 0 then ((encodeInf t neg).1, flDZ)
      else if neg then invalid t
      else
        -- 1/√(m × 2^e) with e made even
        let (m, e) := if e % 2 == 0 then (m, e) else (2 * m, e - 1)
        let k := 200 + m.log2 + m.log2 % 2
        let n := 2 ^ k
        let r := isqrt (n / m)
        encodeNum t 0 0 .no ftz false r (-((k : Int) / 2) - e / 2) (r * r * m != n)
    | .ex2, .inf neg => if neg then (zeroOf t false, 0) else ((encodeInf t false).1, 0)
    | .ex2, .fin neg m e => if m == 0 then encodeNum t 0 0 .no ftz false 1 0 false else ex2Fin t ftz neg m e
    | .lg2, .inf neg => if neg then invalid t else ((encodeInf t false).1, 0)
    | .lg2, .fin neg m e =>
      if m == 0 then ((encodeInf t true).1, flDZ) else if neg then invalid t else lg2Fin t ftz m e
    | .sin, .inf _ => invalid t
    | .sin, .fin neg m e => if m == 0 then (zeroOf t neg, 0) else trigFin t ftz false neg m e
    | .cos, .inf _ => invalid t
    | .cos, .fin neg m e => if m == 0 then encodeNum t 0 0 .no ftz false 1 0 false else trigFin t ftz true neg m e
    | _, _ => invalid t

/-- A special function on an element of type `t`; an f16 element is widened exactly to f32 first (09 R215). -/
def specialOf (fn : SpecFn) (t : Nat) (ftz : Bool) (a : Nat) : Res := specialElem fn t t (ftz && t != 4) a

/-! ### Rounding to integral values, quantisation and random numbers -/

/-- fround on an element (16 R351). -/
def froundElem (t : Nat) (r : Rnd) (a : Nat) : Res :=
  let a := flushIn t r.ftz a
  let x := decodeNum t a
  match nanOf t [x] with
  | some v => v
  | none =>
    match x with
    | .fin neg m e =>
      if m == 0 then (a, 0)
      else
        let (n, inexact) := roundAt r.mode neg r.rb m e false 0
        ((encodeNum t 1 0 .no false neg n 0 false).1, if inexact then flNX else 0)
    | _ => (a, 0)

/-- An f16 scale is invalid when it is zero, infinite or NaN (09 R213). -/
def scaleBad (s : Nat) : Bool := match decodeNum 4 s with | .fin _ m _ => m == 0 | _ => true

/-- quant of an f32 x to `b` bits (09 R214). -/
def quantElem (b mode rb x s z : Nat) : Res :=
  let xv := decodeNum 3 x
  let top : Int := (2 ^ b : Nat) - 1
  match xv, decodeNum 4 s with
  | .nan _ _ _, _ => (z, flIV)
  | .inf neg, .fin sn sm _ =>
    if sm == 0 then (z, flIV) else (if neg != sn then 0 else top.toNat, flSAT)
  | .fin neg m e, .fin sn sm se =>
    if sm == 0 then (z, flDZ)
    else
      let (q, k, st) := quotient m sm
      let (n, inexact) := if m == 0 then (0, false) else roundAt mode (neg != sn) rb q (e - se + k) st 0
      let v := sgn (neg != sn) n + (z : Int)
      let c := clampInt 0 top v
      (c.toNat, (if v == c then 0 else flSAT) ||| (if inexact then flNX else 0))
  | _, _ => (z, flIV)

/-- dequant of a code w (09 R214): s × (w − z), exact in f32. -/
def dequantElem (w s z : Nat) : Res :=
  if scaleBad s then invalid 3
  else
    match decodeNum 4 s with
    | .fin sn m e =>
      let d : Int := (w : Int) - z
      encodeNum 3 0 0 .no false (sn != decide (d < 0)) (m * d.natAbs) e false
    | _ => invalid 3

/-- Philox4x32-10 (09 R218). -/
def philoxRounds : Nat → Nat → Nat → Nat → Nat → Nat → Nat → List Nat
  | 0, c0, c1, c2, c3, _, _ => [c0, c1, c2, c3]
  | n + 1, c0, c1, c2, c3, k0, k1 =>
    let p0 := 0xD2511F53 * c0
    let p1 := 0xCD9E8D57 * c2
    philoxRounds n (Nat.xor (Nat.xor (p1 / 2 ^ 32) c1) k0) (p1 % 2 ^ 32) (Nat.xor (Nat.xor (p0 / 2 ^ 32) c3) k1) (p0 % 2 ^ 32)
      ((k0 + 0x9E3779B9) % 2 ^ 32) ((k1 + 0xBB67AE85) % 2 ^ 32)

def philox (c : List Nat) (k0 k1 : Nat) : List Nat :=
  philoxRounds 10 (c.getD 0 0) (c.getD 1 0) (c.getD 2 0) (c.getD 3 0) k0 k1

end Sys2Proof.Machine
end

