-- ==== Sys2Proof/Machine/Regs.lean ====
section
/-!
DEFINITION. Finding the warps, blocks, cores, tasks and contexts of the state; registers, predicates and control registers of
a warp; quads and gangs.
-/
namespace Sys2Proof.Machine

/-! ### Lookups -/

def State.warpOf (s : State) (uid : Nat) : Option Warp := s.warps.find? (fun w => w.uid == uid)
def State.putWarp (s : State) (w : Warp) : State :=
  { s with warps := s.warps.map (fun v => if v.uid == w.uid then w else v) }
def State.onWarp (s : State) (uid : Nat) (f : Warp → Warp) : State :=
  { s with warps := s.warps.map (fun v => if v.uid == uid then f v else v) }

/-- The shadow of a warp, and changed (11 R243). -/
def State.shadowOf (s : State) (uid : Nat) : Option Warp := s.shadows.find? (fun w => w.uid == uid)
def State.onShadow (s : State) (uid : Nat) (f : Warp → Warp) : State :=
  { s with shadows := s.shadows.map (fun v => if v.uid == uid then f v else v) }

/-- The state in which the shadows stand where the warps do: a shadow executes as a warp does (11 R243). -/
def State.mirror (s : State) : State := { s with warps := s.shadows, shadows := s.warps }

def State.blockOf (s : State) (uid : Nat) : Option Block := s.blocks.find? (fun b => b.uid == uid)
def State.onBlock (s : State) (uid : Nat) (f : Block → Block) : State :=
  { s with blocks := s.blocks.map (fun b => if b.uid == uid then f b else b) }

/-- A core's state; an untouched core is as after reset. -/
def State.coreOf (s : State) (id : Nat) : Core := (s.cores.find? (fun c => c.id == id)).getD (Core.reset id)

/-- A core put into the list of cores, which rises by number. -/
def insertCore (c : Core) : List Core → List Core
  | [] => [c]
  | d :: ds => if c.id < d.id then c :: d :: ds else if c.id == d.id then c :: ds else d :: insertCore c ds
def State.putCore (s : State) (c : Core) : State := { s with cores := insertCore c s.cores }
def State.onCore (s : State) (id : Nat) (f : Core → Core) : State := s.putCore (f (s.coreOf id))

def State.ctxOf (s : State) (id : Nat) : Option Context := s.contexts.find? (fun c => c.id == id)
def State.onCtx (s : State) (id : Nat) (f : Context → Context) : State :=
  { s with contexts := s.contexts.map (fun c => if c.id == id then f c else c) }

def State.vdOf (s : State) (num : Nat) : Option VDev := s.vdevs.find? (fun v => v.num == num)
def State.onVd (s : State) (num : Nat) (f : VDev → VDev) : State :=
  { s with vdevs := s.vdevs.map (fun v => if v.num == num then f v else v) }

def State.taskOf (s : State) (die idx : Nat) : Option Task := s.tasks.find? (fun t => t.die == die && t.idx == idx)
def State.onTask (s : State) (die idx : Nat) (f : Task → Task) : State :=
  { s with tasks := s.tasks.map (fun t => if t.die == die && t.idx == idx then f t else t) }

def State.jobOf (s : State) (uid : Nat) : Option Job := s.jobs.find? (fun j => j.uid == uid)
def State.onJob (s : State) (uid : Nat) (f : Job → Job) : State :=
  { s with jobs := s.jobs.map (fun j => if j.uid == uid then f j else j) }

def State.partOf (s : State) (pid : Nat) : Option Partition := s.parts.find? (fun p => p.desc.pid == pid)

/-- The cluster and the die of a core (00 Table 0-1: 14 cores in a cluster, 8 clusters on a die). -/
def coreCluster (core : Nat) : Nat := core / 14
def coreDie (core : Nat) : Nat := core / 112

/-- The partition of a context, through its virtual device. -/
def State.partOfCtx (s : State) (ctx : Nat) : Option Partition :=
  match s.ctxOf ctx with
  | some c => match s.vdOf c.vd with | some v => s.partOf v.pid | none => none
  | none => none

/-- A fresh identifier. -/
def State.newUid (s : State) : Nat × State := (s.uids, { s with uids := s.uids + 1 })

/-- A free choice of the device: a number of which nothing is known (Config.choice), a new one each time. -/
def State.chooseNat (s : State) : Nat × State := (Config.choice s.fresh, { s with fresh := s.fresh + 1 })

/-! ### Registers -/

/-- A vector register of a lane; 255 is vz (12 R262). -/
def Regs.vec (r : Regs) (n lane : Nat) : Word := if n == 255 then 0 else Cells.get 0 r.v (32 * n + lane)
def Regs.setVec (r : Regs) (n lane : Nat) (v : Word) : Regs :=
  if n == 255 then r else { r with v := Cells.put 0 r.v (32 * n + lane) v }

/-- A uniform register (12 R263). -/
def Regs.uni (r : Regs) (n : Nat) : Word := Cells.get 0 r.u n
def Regs.setUni (r : Regs) (n : Nat) (v : Word) : Regs := { r with u := Cells.put 0 r.u n v }

/-- A predicate of a lane; p7 reads true and a write to it is discarded (00 R2, 18 R389). -/
def Regs.predMask (r : Regs) (p : Nat) : LaneMask := if p == 7 then 0xFFFFFFFF else Cells.get 0 r.p p
def Regs.pred (r : Regs) (p lane : Nat) : Bool := (r.predMask p).getLsbD lane
def Regs.setPred (r : Regs) (p lane : Nat) (v : Bool) : Regs :=
  if p == 7 then r else { r with p := Cells.put 0 r.p p (maskSet (r.predMask p) lane v) }

/-- `n` registers from `r` as one number, the lowest register least significant (09 R199). -/
def Regs.vecs (r : Regs) (reg lane : Nat) : Nat → Nat
  | 0 => 0
  | n + 1 => (r.vec reg lane).toNat + 2 ^ 32 * Regs.vecs r (reg + 1) lane n
def Regs.unis (r : Regs) (reg : Nat) : Nat → Nat
  | 0 => 0
  | n + 1 => (r.uni reg).toNat + 2 ^ 32 * Regs.unis r (reg + 1) n

/-- A register of any file in a lane, and written. -/
def Regs.read (r : Regs) (k : RegKind) (n lane : Nat) : Word :=
  match k with
  | .vec => r.vec n lane
  | .uni => r.uni n
  | .pred => if r.pred n lane then 1 else 0
def Regs.write (r : Regs) (k : RegKind) (n lane : Nat) (v : Word) : Regs :=
  match k with
  | .vec => r.setVec n lane v
  | .uni => r.setUni n v
  | .pred => r.setPred n lane (v != 0)

/-! ### Control registers -/

/-- Fields of WCTL (09 Table 9-5a). -/
def Warp.rnd (w : Warp) : Nat := bitField w.wctl 0 3
def Warp.ftz (w : Warp) : Bool := bitAt w.wctl 3
def Warp.stallChk (w : Warp) : Bool := bitAt w.wctl 4
def Warp.cast (w : Warp) : Bool := bitAt w.wctl 5
def Warp.paired (w : Warp) : Bool := bitAt w.wctl 6

/-- The value of REGION with VALID cleared (11 R241), and REGION set to a restart point (11 Table 11-1). -/
def Warp.clearRegion (w : Warp) : Warp := { w with region := w.region &&& ~~~(1 : BitVec 64) }
def regionAt (pc : BitVec 55) (valid : Bool) : BitVec 64 :=
  BitVec.ofNat 64 (pc.toNat / 4 * 4 + (if valid then 1 else 0))

/-! ### Quads -/

/-- A quad that holds nothing. -/
def Quad.empty : Quad :=
  { path := { pc := 0, active := 0, living := 0, stack := [] }, gang := 0, packed := false, park := .running, before := none,
    readyAt := 0, debts := [] }

def Warp.quad (w : Warp) (q : Nat) : Quad := w.quads.getD q Quad.empty
def Warp.onQuad (w : Warp) (q : Nat) (f : Quad → Quad) : Warp := { w with quads := modifyAt f q w.quads }
def Warp.onQuads (w : Warp) (qs : List Nat) (f : Quad → Quad) : Warp := qs.foldl (fun w q => w.onQuad q f) w

/-- A quad is living (05 R101). -/
def Quad.alive (q : Quad) : Bool := q.path.living != 0

/-- The quads of a warp, those that live, and those of a gang. -/
def quads8 : List Nat := [0, 1, 2, 3, 4, 5, 6, 7]
def Warp.aliveQuads (w : Warp) : List Nat := quads8.filter (fun q => (w.quad q).alive)
def Warp.members (w : Warp) (gang : Nat) : List Nat := w.aliveQuads.filter (fun q => (w.quad q).gang == gang)

/-- The active and the living lanes of some quads, as lane masks. -/
def Warp.activeOf (w : Warp) (qs : List Nat) : LaneMask :=
  qs.foldl (fun m q => m ||| quadMask (w.quad q).path.active q) 0
def Warp.livingOf (w : Warp) (qs : List Nat) : LaneMask :=
  qs.foldl (fun m q => m ||| quadMask (w.quad q).path.living q) 0

/-- A set of quads as bits, and back. -/
def quadSet (qs : List Nat) : BitVec 8 := qs.foldl (fun m q => m ||| BitVec.ofNat 8 (2 ^ q)) 0
def quadList (m : BitVec 8) : List Nat := quads8.filter (fun q => m.getLsbD q)

/-- A number for a gang formed now: `k` is a fresh identifier, and `n` tells apart the gangs that are formed with it. No two gangs of the
machine share a number. What identifies a gang to the machine is its lowest quad (05 R106), which its members give. -/
def gangId (k n : Nat) : Nat := 1024 * k + n

/-- Gangs by equal program counter, formed with a fresh identifier (05 R106, R107, R122). -/
def regroup (k : Nat) (w : Warp) (qs : List Nat) : Warp :=
  qs.foldl
    (fun w q =>
      let pc := (w.quad q).path.pc
      match qs.find? (fun p => (w.quad p).path.pc == pc) with
      | some p => w.onQuad q (fun x => { x with gang := gangId k p })
      | none => w)
    w

/-- The warps resident on a core that have not ended. -/
def State.residents (s : State) (core : Nat) : List Warp := s.warps.filter (fun w => w.core == core && !w.ended)

/-- The home warps of a gang with their member quads, by warp slot (05 R111: a packed gang may hold several). -/
def insertBySlot (w : Warp) : List Warp → List Warp
  | [] => [w]
  | v :: vs => if w.slot < v.slot then w :: v :: vs else v :: insertBySlot w vs
def State.gangWarps (s : State) (core gang : Nat) : List Warp :=
  ((s.residents core).filter (fun w => w.members gang != [])).foldl (fun l w => insertBySlot w l) []

/-- A member of a gang after an instruction: its warp's slot, its number, why it is parked and its program counter. -/
structure Member where
  slot : Nat
  quad : Nat
  park : Park
  pc   : BitVec 55
deriving DecidableEq, Repr

/-- Two members stay in one gang. -/
def Member.with (a b : Member) : Bool := a.pc == b.pc && a.park == b.park

/-- The members of a gang, the lowest first. -/
def State.gangMembers (s : State) (core gang : Nat) : List Member :=
  (s.gangWarps core gang).flatMap (fun w => (w.members gang).map (fun q => ⟨w.slot, q, (w.quad q).park, (w.quad q).path.pc⟩))

/-- The gang after an instruction: members with different program counters part, and so do members that parked from those that did
not (05 R106, R111). The part of the lowest quad keeps the number. -/
def State.partGang (s : State) (core gang : Nat) : State :=
  let all := s.gangMembers core gang
  match all with
  | [] => s
  | low :: _ =>
    if all.all (fun m => low.with m) then s
    else
      let (k, s) := s.newUid
      { s with
        warps := s.warps.map (fun w =>
          if w.core == core && !w.ended then
            (w.members gang).foldl
              (fun w' q =>
                let m : Member := ⟨w.slot, q, (w.quad q).park, (w.quad q).path.pc⟩
                match all.find? (fun n => n.with m) with
                | some n => if low.with n then w' else w'.onQuad q (fun x => { x with gang := gangId k (8 * n.slot + n.quad) })
                | none => w')
              w
          else w) }

end Sys2Proof.Machine
end

