-- ==== Sys2Proof/Machine/Banks.lean ====
section
/-!
DEFINITION. Bank groups (06 R129 to R137): where a byte of block memory or of a die scratchpad lies, parity and its update queue,
errors, rebuilding, and degraded groups. A byte of block memory is named by 262,144 × core + its offset on the core, a byte of a
scratchpad by 2^26 × die + its offset on the die.
-/
namespace Sys2Proof.Machine

/-- Where a word lies (06 Table 6-2): its group, its position in it, its row. -/
def bankPlace (space : BankSpace) (key : Nat) : GroupId × Nat × Nat :=
  match space with
  | .block =>
    let o := key % 262144
    (⟨.block, key / 262144, o / 16 % 8⟩, o / 4 % 4, o / 128)
  | .spad =>
    let o := key % 2 ^ 26
    (⟨.spad, key / 2 ^ 26, o / 16 % 1024⟩, o / 4 % 4, o / 16384)

/-- The first byte of a bank word. -/
def bankKey (g : GroupId) (bank row : Nat) : Nat :=
  match g.space with
  | .block => g.home * 262144 + row * 128 + g.group * 16 + bank * 4
  | .spad => g.home * 2 ^ 26 + row * 16384 + g.group * 16 + bank * 4

/-- Rows of a group. -/
def groupRows (g : GroupId) : Nat := match g.space with | .block => 2048 | .spad => 4096

/-- The key of a parity word. -/
def parityKey (g : GroupId) (row : Nat) : Nat :=
  (((match g.space with | .block => 0 | .spad => 1) * 512 + g.home) * 1024 + g.group) * 4096 + row

/-- The memory behind a space. -/
def State.bankMem (s : State) : BankSpace → Memory | .block => s.bmem | .spad => s.spad
def State.setBankMem (s : State) (space : BankSpace) (m : Memory) : State :=
  match space with | .block => { s with bmem := m } | .spad => { s with spad := m }

/-- The state of a group; a group that nothing has touched is as after reset. -/
def Group.reset (id : GroupId) : Group := { id, queue := [], stale := [], retired := [], lost := [], recompute := [], reports := [] }
def State.groupOf (s : State) (id : GroupId) : Group := (s.groups.find? (fun g => g.id == id)).getD (Group.reset id)
def State.putGroup (s : State) (g : Group) : State :=
  let rest := s.groups.filter (fun h => h.id != g.id)
  { s with groups := if g == Group.reset g.id then rest else rest ++ [g] }

/-- The stale bit of a row (06 R133): an entry waits for it, or its parity waits to be recomputed. -/
def Group.isStale (g : Group) (row : Nat) : Bool := g.queue.any (fun e => e.1 == row) || g.recompute.contains row

/-- A group whose stale-parity bitmap lists its stale rows. -/
def Group.restale (g : Group) : Group := { g with stale := (g.queue.map (fun e => e.1) ++ g.recompute).eraseDups }

/-- A word of a data bank, or of P (position 4), as it stands. -/
def State.bankWord (s : State) (g : GroupId) (bank row : Nat) : Word :=
  if bank == 4 then Cells.get 0 s.parity (parityKey g row) else BitVec.ofNat 32 ((s.bankMem g.space).read (bankKey g bank row) 4)
def State.setBankWord (s : State) (g : GroupId) (bank row : Nat) (v : Word) : State :=
  if bank == 4 then { s with parity := Cells.put 0 s.parity (parityKey g row) v }
  else s.setBankMem g.space ((s.bankMem g.space).write (bankKey g bank row) 4 v.toNat)

/-- A double-bit error stands in a word. -/
def State.doubleAt (s : State) (g : GroupId) (bank row : Nat) : Bool :=
  s.bankErrors.any (fun e => e.id == g && e.bank == bank && e.row == row && e.double)

/-- A word written with fresh check bits carries no error. -/
def State.soundAt (s : State) (g : GroupId) (bank row : Nat) : State :=
  { s with bankErrors := s.bankErrors.filter (fun e => !(e.id == g && e.bank == bank && e.row == row)) }

/-- The positions of a group's data banks other than one. -/
def otherBanks (bank : Nat) : List Nat := [0, 1, 2, 3].filter (· != bank)

/-- The exclusive or of words at a row. -/
def State.xorBanks (s : State) (g : GroupId) (banks : List Nat) (row : Nat) : Word :=
  banks.foldl (fun v b => v ^^^ s.bankWord g b row) 0

/-- A double-bit error put into P at a row, which then protects nothing there. -/
def State.spoilParity (s : State) (id : GroupId) (row : Nat) : State :=
  { (s.soundAt id 4 row) with bankErrors := (s.soundAt id 4 row).bankErrors ++ [{ id, bank := 4, row, double := true }] }

/-- The head of the parity-update queue applied to P (06 R133); with a double-bit error in P at its row, P waits to be recomputed,
or the row is lost when a data word has one too (06 Table 6-4). A degraded group cannot recompute P, and its error stays (R137). -/
def State.applyParity (s : State) (id : GroupId) : State :=
  let g := s.groupOf id
  match g.queue with
  | [] => s
  | (row, delta) :: rest =>
    let g := { g with queue := rest }
    if s.doubleAt id 4 row then
      if g.retired != [] then s.putGroup g.restale
      else if g.lost.any (fun l => l.1 == row) then s.putGroup g.restale
      else if [0, 1, 2, 3].any (fun b => s.doubleAt id b row) then
        s.putGroup ({ g with lost := g.lost ++ [(row, [])], recompute := g.recompute.filter (· != row) } : Group).restale
      else s.putGroup ({ g with recompute := if g.recompute.contains row then g.recompute else g.recompute ++ [row] } : Group).restale
    else ((s.setBankWord id 4 row (s.bankWord id 4 row ^^^ delta)).soundAt id 4 row).putGroup g.restale

/-- Queue entries applied until none remains for a row. -/
def State.drainRow (s : State) (id : GroupId) (row : Nat) : State :=
  (s.groupOf id).queue.foldl (fun s _ => if (s.groupOf id).queue.any (fun e => e.1 == row) then s.applyParity id else s) s

/-- P recomputed at a row from the four data banks (06 Table 6-4): it then holds every write of the row, those still queued included, so that P is their exclusive or (R129).
A double-bit error in one of the banks loses the row. -/
def State.recomputeParity (s : State) (id : GroupId) (row : Nat) : State :=
  let g := s.groupOf id
  let g := { g with recompute := g.recompute.filter (· != row), queue := g.queue.filter (fun e => e.1 != row) }
  if g.retired != [] then (s.spoilParity id row).putGroup g.restale
  else if [0, 1, 2, 3].any (fun b => s.doubleAt id b row) then s.putGroup ({ g with lost := g.lost ++ [(row, [])] } : Group).restale
  else ((s.setBankWord id 4 row (s.xorBanks id [0, 1, 2, 3] row)).soundAt id 4 row).putGroup g.restale

/-- A reconstruction served in a core's block memory is counted (20 R441). -/
def State.noteRebuilt (s : State) (id : GroupId) : State :=
  match id.space with
  | .block => s.onCore id.home (fun c => { c with rebuilt := c.rebuilt + 1 })
  | .spad => s

/-- An error that a word of a bank shows is reported (06 R136). -/
def State.noteReport (s : State) (id : GroupId) (bank row : Nat) : State :=
  match s.bankErrors.find? (fun e => e.id == id && e.bank == bank && e.row == row) with
  | none => s
  | some e => let g := s.groupOf id; s.putGroup { g with reports := g.reports ++ [(bank, e.double, s.hb)] }

/-- A word of a bank read beside others: an error that it shows is reported, and a single-bit one corrected (R134, R136). -/
def State.touchBank (s : State) (id : GroupId) (row bank : Nat) : State :=
  let t := s.noteReport id bank row
  if s.doubleAt id bank row then t else t.soundAt id bank row

/-- The words from which one of a data bank is rebuilt, read. -/
def State.touchOthers (s : State) (id : GroupId) (bank row : Nat) : State := (4 :: otherBanks bank).foldl (fun s b => s.touchBank id row b) s

/-- A read of a busy bank may be served by reconstruction (06 R132), as the device's cycles decide. It takes the word's own value, since P is the exclusive or of the data;
with an uncorrectable error in the way it is abandoned. The choice is seen only by the errors that it reports. -/
def State.conflict (s : State) (id : GroupId) (bank row : Nat) : State :=
  let g := s.groupOf id
  if g.retired == [] && !g.isStale row && g.queue.length < 8
      && s.bankErrors.any (fun e => e.id == id && e.row == row && e.bank != bank) then
    let (k, s) := s.chooseNat
    if natBit k 0 then s.touchOthers id bank row else s
  else s

/-- REASON and BANK of a reconstruction fault that an error in P, or one elsewhere, brings about. -/
def State.badBankOf (s : State) (id : GroupId) (bank row : Nat) : Nat := if (otherBanks bank).any (fun b => s.doubleAt id b row) then bank else 4

/-- A read of one word of a data bank: its value, or REASON and BANK of a reconstruction fault (06 R134, R137, Tables 6-4 and 6-5). -/
def State.readBank (s : State) (id : GroupId) (bank row : Nat) : State × Except (Nat × Nat) Word :=
  let s := s.noteReport id bank row
  let g := s.groupOf id
  if g.retired.length ≥ 2 then (s, .error (2, bank))
  else if g.lost.any (fun l => l.1 == row) then (s, .error (4, bank))
  else if g.retired.contains bank then
    let s := (s.drainRow id row).touchOthers id bank row
    if (4 :: otherBanks bank).any (fun b => s.doubleAt id b row) then (s, .error (2, s.badBankOf id bank row))
    else (s.noteRebuilt id, .ok (s.xorBanks id (4 :: otherBanks bank) row))
  else if s.doubleAt id bank row then
    if g.retired != [] then (s, .error (2, bank))
    else if g.isStale row then (s, .error (0, bank))
    else
      let s := s.touchOthers id bank row
      if (otherBanks bank).any (fun b => s.doubleAt id b row) then (s, .error (1, bank))
      else if s.doubleAt id 4 row then (s, .error (3, 4))
      else
        let v := s.xorBanks id (4 :: otherBanks bank) row
        (((s.setBankWord id bank row v).soundAt id bank row).noteRebuilt id, .ok v)
  else ((s.conflict id bank row).soundAt id bank row, .ok (s.bankWord id bank row))

/-- A row's bank written: a lost row is whole again once all four banks have been written, and its parity is then recomputed. -/
def Group.noteWrite (g : Group) (bank row : Nat) : Group :=
  let lost := g.lost.map (fun l => if l.1 == row && !l.2.contains bank then (l.1, l.2 ++ [bank]) else l)
  let whole := lost.filter (fun l => l.2.length ≥ 4)
  { g with lost := lost.filter (fun l => l.2.length < 4), recompute := g.recompute ++ whole.map (fun l => l.1) }

/-- Some bytes of a word replaced. -/
def mergeBytes (old : Word) (off n v : Nat) : Word :=
  BitVec.ofNat 32 (old.toNat - natField old.toNat (8 * off) (8 * n) * 2 ^ (8 * off) + v % 2 ^ (8 * n) * 2 ^ (8 * off))

/-- The parity delta of a write placed at the tail of the queue; a full queue first applies its head (06 R133). -/
def State.queueParity (s : State) (id : GroupId) (row : Nat) (delta : Word) : State :=
  let s := if (s.groupOf id).queue.length ≥ 8 then s.applyParity id else s
  let g := s.groupOf id
  s.putGroup ({ g with queue := g.queue ++ [(row, delta)] } : Group).restale

/-- The parity of a row of which one word was written over an unknown one: it waits to be recomputed from the data, or in a degraded group protects the retired bank no more. -/
def State.renewParity (s : State) (id : GroupId) (bank row : Nat) : State :=
  let g := (s.groupOf id).noteWrite bank row
  if g.retired.contains 4 then s.putGroup { g with recompute := [] }
  else if g.retired != [] then (s.spoilParity id row).putGroup ({ g with recompute := g.recompute.filter (· != row) } : Group).restale
  else
    s.putGroup (if g.recompute.contains row || g.lost.any (fun l => l.1 == row) then g else { g with recompute := g.recompute ++ [row] }).restale

/-- A write of `n` bytes from byte `off` of one word: done, or REASON and BANK of a reconstruction fault (06 R133, R137; 19 R404). -/
def State.writeBank (s : State) (id : GroupId) (bank row off n v : Nat) : State × Option (Nat × Nat) :=
  let g := s.groupOf id
  if g.retired.length ≥ 2 then (s, some (2, bank))
  else if g.retired.contains bank then
    let s := (s.drainRow id row).touchOthers id bank row
    if (otherBanks bank).any (fun b => s.doubleAt id b row) || (n < 4 && s.doubleAt id 4 row) then (s, some (2, s.badBankOf id bank row))
    else if n < 4 && g.lost.any (fun l => l.1 == row) then (s, some (4, bank))
    else
      let old := s.xorBanks id (4 :: otherBanks bank) row
      let new := mergeBytes old off n v
      let s := (s.setBankWord id bank row new).soundAt id 4 row
      let s := s.setBankWord id 4 row (s.xorBanks id (otherBanks bank) row ^^^ new)
      let g := (s.groupOf id).noteWrite bank row
      (s.putGroup ({ g with recompute := g.recompute.filter (· != row) } : Group).restale, none)
  else
    let bad := s.doubleAt id bank row
    match (if bad then s.readBank id bank row else ((s.noteReport id bank row).soundAt id bank row, .ok (s.bankWord id bank row))) with
    | (s, .error r) =>
      if n < 4 then (s, some r)
      else
        let s := (s.setBankWord id bank row (BitVec.ofNat 32 v)).soundAt id bank row
        (s.renewParity id bank row, none)
    | (s, .ok old) =>
      let new := mergeBytes old off n v
      let s := s.setBankWord id bank row new
      let s := s.putGroup (((s.groupOf id).noteWrite bank row).restale)
      (if g.retired.contains 4 then s else s.queueParity id row (old ^^^ new), none)

/-- TINFO of cause 0x0D (06 Table 6-5). -/
def bankInfo (g : GroupId) (bank row reason : Nat) : Nat :=
  g.group * 2 ^ 32 + (match g.space with | .block => 0 | .spad => 1) * 2 ^ 30 + bank * 2 ^ 27 + reason * 2 ^ 24 + row

/-- `n` bytes of a bank space, word by word: their value, or the TINFO of a reconstruction fault. -/
def State.readSpace (s : State) (space : BankSpace) (key : Nat) : Nat → Nat → State × Except Nat Nat
  | 0, _ => (s, .ok 0)
  | fuel + 1, n =>
    if n == 0 then (s, .ok 0)
    else
      let off := key % 4
      let k := min n (4 - off)
      let (g, bank, row) := bankPlace space key
      match s.readBank g bank row with
      | (s, .error r) => (s, .error (bankInfo g r.2 row r.1))
      | (s, .ok w) =>
        match State.readSpace s space (key + k) fuel (n - k) with
        | (s, .error i) => (s, .error i)
        | (s, .ok hi) => (s, .ok (natField w.toNat (8 * off) (8 * k) + hi * 2 ^ (8 * k)))

/-- `n` bytes written to a bank space, word by word. -/
def State.writeSpace (s : State) (space : BankSpace) (key v : Nat) : Nat → Nat → State × Option Nat
  | 0, _ => (s, none)
  | fuel + 1, n =>
    if n == 0 then (s, none)
    else
      let off := key % 4
      let k := min n (4 - off)
      let (g, bank, row) := bankPlace space key
      match s.writeBank g bank row off k v with
      | (s, some r) => (s, some (bankInfo g r.2 row r.1))
      | (s, none) => State.writeSpace s space (key + k) (v / 2 ^ (8 * k)) fuel (n - k)

/-- An access to a word can meet a fault of its group (19 R468): the group is degraded, or an error or lost row stands in it. -/
def State.bankRisk (s : State) (space : BankSpace) (key : Nat) : Bool :=
  let (g, _, _) := bankPlace space key
  (s.groupOf g).retired != []

end Sys2Proof.Machine
end

