-- ==== Sys2Proof/Machine/Device.lean ====
section
/-!
DEFINITION. Device memory and address translation (06 R146 to R148), what a write wakes, signals (02 R34 to R36), guest time, error
records (11 R258), and killing a context (02 R37). A byte of device memory is named by its physical address, plus
2^40 × (package + 1) when another package holds it.
-/
namespace Sys2Proof.Machine

/-! ### Addresses -/

/-- Package physical addresses end here (01 R8). -/
def paLimit : Nat := 768000000000

/-- The home slice of a package physical address, its stack, and the die of a stack, which holds the stacks 3d to 3d + 2 and the home slices 24d to 24d + 23 (01 R6, R8). -/
def homeSlice (pa : Nat) : Nat := pa / 512 % 96
def homeStack (pa : Nat) : Nat := homeSlice pa / 8
def homeDie (pa : Nat) : Nat := homeStack pa / 3

/-- The key of a byte of device memory. -/
def devKey (own pkg : BitVec 10) (pa : Nat) : Nat := if pkg == 0x3FF || pkg == own then pa else (pkg.toNat + 1) * 2 ^ 40 + pa

/-- The package of a key of another package's memory. -/
def keyRemote (key : Nat) : Option (BitVec 10) := if key < 2 ^ 40 then none else some (BitVec.ofNat 10 (key / 2 ^ 40 - 1))

/-- TINFO of cause 0x1C (01 Table 1-4). -/
def fabricInfo (pkg : BitVec 10) (done reason port : Nat) : Nat := pkg.toNat * 2 ^ 38 + done * 2 ^ 30 + reason * 2 ^ 24 + port * 2 ^ 16

/-- A port; one that nothing has touched is as after cold reset. -/
def State.portOf (s : State) (id : Nat) : Port := (s.ports.find? (fun p => p.id == id)).getD (Port.reset id)
def State.putPort (s : State) (p : Port) : State := { s with ports := s.ports.filter (fun q => q.id != p.id) ++ [p] }

/-- A port that nothing has brought down is up (01 R13). -/
def State.portUp (s : State) (port : Nat) : Bool := match s.ports.find? (fun p => p.id == port) with | some p => p.up | none => true

/-- The egress port toward a package for a flit class (01 R17 to R20): the first route whose port is up, or TINFO of the fabric error
for an operation that never left the package. -/
def State.routeTo (s : State) (pkg : BitVec 10) (cls : Nat) : Except Nat Nat :=
  match s.routes.filter (fun r => r.dst == pkg && r.cls == cls) with
  | [] => .error (fabricInfo pkg 0 0 0xFF)
  | r :: rs =>
    match (r :: rs).find? (fun r => s.portUp r.port) with
    | some r => .ok r.port
    | none => .error (fabricInfo pkg 0 1 r.port)

/-- What an access needs of a page. -/
inductive Right where
  | r | w | rw | x
deriving DecidableEq, Repr

/-- TINFO of cause 0x06 (06 Table 6-5). -/
def walkInfo (reason level : Nat) : Nat := 2 * 2 ^ 30 + reason * 2 ^ 24 + level * 2 ^ 16

/-- REASON of a missing right (06 Table 6-5). -/
def rightMissing (e : BitVec 64) : Right → Option Nat
  | .r => if bitAt e 2 then none else some 2
  | .w => if bitAt e 3 then none else some 3
  | .rw => if !bitAt e 2 then some 2 else if !bitAt e 3 then some 3 else none
  | .x => if bitAt e 4 then none else some 4

/-- The fields of an entry that must be zero (06 Table 6-9): a table pointer names this package. -/
def entryReserved (e : BitVec 64) (level : Nat) : Bool :=
  bitField e 50 14 != 0 || bitField e 5 11 != 0 || (!bitAt e 1 && bitField e 40 10 != 0x3FF)
    || (bitAt e 1 && level == 2 && bitField e 16 13 != 0)

/-- A walk of the page tables (06 R146, R147): the leaf with its level, or REASON and LEVEL. -/
def State.walk (s : State) (va : Nat) : Nat → Nat → Nat → Except (Nat × Nat) (BitVec 64 × Nat)
  | 0, _, level => .error (5, level)
  | fuel + 1, table, level =>
    let idx := natField va (if level == 1 then 42 else if level == 2 then 29 else 16) 13
    let e := BitVec.ofNat 64 (s.dev.read (table + 8 * idx) 8)
    if !bitAt e 0 then .error (0, level)
    else if entryReserved e level then .error (1, level)
    else if bitAt e 1 then (if level == 1 then .error (5, 1) else .ok (e, level))
    else if level == 3 then .error (5, 3)
    else State.walk s va fuel (bitField e 16 24 * 65536) (level + 1)

/-- The page number of an address at a level. -/
def pageOf (va level : Nat) : Nat := if level == 2 then va / 2 ^ 29 else va / 2 ^ 16

/-- A cached leaf for an address (06 R148): only entries of the context are used. -/
def findLeaf (ls : List CachedLeaf) (ctx va : Nat) : Option CachedLeaf :=
  ls.find? (fun l => l.ctx == ctx && l.page == pageOf va l.level)

/-- A leaf for an address: cached in the core, cached in the die, or walked and then cached in both (06 R148: 256 and 16,384
entries; the oldest makes room). -/
def State.leafOf (s : State) (core ctx va : Nat) : State × Except (Nat × Nat) (BitVec 64 × Nat) :=
  let die := coreDie core
  let dieLeaves := (s.dieLeaves.filter (fun l => l.1 == die)).map (fun l => l.2)
  match findLeaf (s.coreOf core).leaves ctx va with
  | some l => (s, .ok (l.entry, l.level))
  | none =>
    match findLeaf dieLeaves ctx va with
    | some l => (s.onCore core (fun c => { c with leaves := (l :: c.leaves).take 256 }), .ok (l.entry, l.level))
    | none =>
      match s.ctxOf ctx with
      | none => (s, .error (0, 1))
      | some c =>
        match s.walk va 3 c.root 1 with
        | .error e => (s, .error e)
        | .ok (e, level) =>
          let l : CachedLeaf := { ctx, page := pageOf va level, level, entry := e }
          let s := s.onCore core (fun c => { c with leaves := (l :: c.leaves).take 256 })
          ({ s with dieLeaves := s.dieLeaves.filter (fun x => x.1 != die) ++ ((l :: dieLeaves).take 16384).map (fun l => (die, l)) }, .ok (e, level))

/-- Translation (06 R146, R147): the key of the byte, or a cause with its TINFO. A physical address that no memory holds gives
cause 0, which the machine stops at. -/
def State.translate (s : State) (core ctx va : Nat) (need : Right) : State × Except (Nat × Nat) Nat :=
  match s.leafOf core ctx va with
  | (s, .error (reason, level)) => (s, .error (0x06, walkInfo reason level))
  | (s, .ok (e, level)) =>
    match rightMissing e need with
    | some reason => (s, .error (0x06, walkInfo reason level))
    | none =>
      let pa := bitField e 16 24 * 65536 + va % (if level == 2 then 2 ^ 29 else 2 ^ 16)
      if pa ≥ paLimit then (s, .error (0, 0)) else (s, .ok (devKey s.pkg (BitVec.ofNat 10 (bitField e 40 10)) pa))

/-- An engine performed an operation for a context in this heartbeat (04 R100). -/
def State.noteWork (s : State) (ctx : Nat) : State := s.onCtx ctx (fun c => { c with activeHb := s.hb })

/-- Every cached translation of a context dropped (06 R148). -/
def State.dropLeaves (s : State) (keep : CachedLeaf → Bool) : State :=
  { s with
    dieLeaves := s.dieLeaves.filter (fun l => keep l.2),
    cores := s.cores.map (fun c => { c with leaves := c.leaves.filter keep }) }

/-- The instruction cache of some cores invalidated (12 R275). -/
def State.dropCode (s : State) (which : Nat → Bool) : State :=
  { s with cores := s.cores.map (fun c => if which c.id then { c with icache := [] } else c) }

/-! ### Signals (02 R34 to R36) -/

/-- A vector of a device raised: pending until it is written; merged when it is pending already. -/
def State.raiseVector (s : State) (vd vector : Nat) : State :=
  s.onVd vd (fun v => { v with vectors := modifyAt (fun x => { x with pending := true }) vector v.vectors })

/-! ### What a write wakes -/

/-- Two byte ranges overlap. -/
def overlap (a n b m : Nat) : Bool := a < b + m && b < a + n

/-- Waits whose watched word a write touched are stirred (19 R415). -/
def stirWait (space : Space) (key n : Nat) (x : Waiting) : Waiting :=
  { x with
    lanes := x.lanes.map (fun l =>
      if l.space == space && overlap key n l.addr (if x.wide then 8 else 4) && l.result.isNone then { l with stirred := true }
      else l) }

/-- The state a squash leaves (07 R165): no buffer and no read set, nothing that was speculated pending, and the warp parked at
its barrier with the paths and WSTAT it passed it with; the mold step state is cleared (10 R235), and nothing waits for a shadow. -/
def Warp.squash (w : Warp) : Warp :=
  match w.spec with
  | none => w
  | some x =>
    { w with
      spec := none, wstat := x.wstat, barrier := some { word := x.word, gen := x.gen }, trail := [], agreed := [], offer := none,
      pending := w.pending.filter (fun a => a.seq < x.since), scored := w.scored.filter (fun a => a.seq < x.since),
      late := w.late.filter (fun l => l.1 < x.since),
      mstep := { w.mstep with active := false, slot := 0, opnd := 0, total := 0, done := 0, acc := [] },
      quads := List.zipWith
        (fun q p => if q.path.living == 0 && p.living == 0 then q
          else { q with path := p, gang := gangId x.since 0, park := .barrier, debts := [] })
        w.quads x.paths }

/-- A warp other than the writer speculates on a granule of a written range (07 R165). -/
def Warp.speculatesOn (writer : Option Nat) (key n : Nat) (w : Warp) : Bool :=
  match w.spec with
  | some x => writer != some w.uid && x.reads.any (fun g => overlap key n (32 * g) 32)
  | none => false

/-- The warps that a write squashes, and their shadows with them (07 R165, R166). -/
def State.squashOn (s : State) (writer : Option Nat) (key n : Nat) : State :=
  let hit (v : Warp) : Bool := s.warps.any (fun w => w.uid == v.uid && w.speculatesOn writer key n)
  { s with
    warps := s.warps.map (fun w => if w.speculatesOn writer key n then w.squash else w),
    shadows := s.shadows.map (fun v => if hit v then v.squash else v) }

/-- The word arms of a device that a write fires (02 R35 operation 4). -/
def fireArms (dev : Memory) (key n : Nat) (v : VDev) : VDev :=
  let hit (a : Arm) : Option Nat :=
    match a with
    | .word vec addr value => if overlap key n addr 8 && dev.read addr 8 == value.toNat then some vec else none
    | .task _ _ _ => none
  { v with
    arms := v.arms.filter (fun a => (hit a).isNone),
    vectors := (v.arms.filterMap hit).foldl (fun vs k => modifyAt (fun x => { x with pending := true }) k vs) v.vectors }

/-- The word that a SIGNAL_ON operation 4 watches from the moment its block is taken has been written with its compare value (02 R35). -/
def seeWord (dev : Memory) (key n : Nat) (c : JrfCommand) : JrfCommand :=
  { c with watch := c.watch.map (fun w => (w.1, w.2.1, w.2.2 || (overlap key n w.1 8 && dev.read w.1 8 == w.2.1.toNat))) }

/-- What a write to `n` bytes of a space brings about beside its data (19 R415; 07 R165; 02 R35). -/
def State.notify (s : State) (space : Space) (key n : Nat) (writer : Option Nat) : State :=
  let s := { s with warps := s.warps.map (fun w => { w with waits := w.waits.map (stirWait space key n) }) }
  match space with
  | .blk => s.squashOn writer key n
  | .dev => { s with vdevs := s.vdevs.map (fireArms s.dev key n), commands := s.commands.map (seeWord s.dev key n) }
  | _ => s

/-! ### Device memory -/

/-- A line that stays uncorrectable (11 R469). -/
def State.lineBad (s : State) (key : Nat) : Bool := Cells.get false s.badLines (key / 64)

/-- Some line of a range is uncorrectable. -/
def State.rangeBad (s : State) (key n : Nat) : Bool :=
  (List.range ((key + n - 1) / 64 - key / 64 + 1)).any (fun i => Cells.get false s.badLines (key / 64 + i))

/-- A line that some bytes reach and do not cover whole. -/
def torn (key n line : Nat) : Bool := overlap key n (64 * line) 64 && !decide (key ≤ 64 * line ∧ 64 * line + 64 ≤ key + n)

/-- Some line of a range is uncorrectable and not covered whole by it: a write of it is not performed (11 R469). -/
def State.tornLine (s : State) (key n : Nat) : Bool := s.badLines.any (fun e => torn key n e.1)

/-- Bytes put into device memory but for those in some lines. -/
def putSound (bad : List Nat) (m : Memory) (key : Nat) : List Byte → Memory
  | [] => m
  | b :: bs => putSound bad (if bad.contains (key / 64) then m else m.setByte key b) (key + 1) bs

/-- Bytes written to device memory. An uncorrectable line covered whole is sound again, and one covered in part keeps its bytes (11 R469). -/
def State.writeDev (s : State) (key : Nat) (bs : List Byte) (writer : Option Nat) : State :=
  let bad := (s.badLines.filter (fun e => torn key bs.length e.1)).map (fun e => e.1)
  let s := { s with
    dev := if bad == [] then s.dev.setBytes key bs else putSound bad s.dev key bs,
    badLines := s.badLines.filter (fun e => !(overlap key bs.length (64 * e.1) 64 && !torn key bs.length e.1)) }
  s.notify .dev key bs.length writer

/-- A number written to device memory. -/
def State.storeDev (s : State) (key n v : Nat) (writer : Option Nat) : State := s.writeDev key (leBytes n v) writer

/-- Bytes written to a bank space, one by one or word by word, with what the write wakes. -/
def bankSpace : BankSpace → Space | .block => .blk | .spad => .spad
def State.storeBank (s : State) (space : BankSpace) (key n v : Nat) (writer : Option Nat) : State × Option Nat :=
  match s.writeSpace space key v (n + 1) n with
  | (s, some i) => (s, some i)
  | (s, none) => (s.notify (bankSpace space) key n writer, none)

/-! ### Guest time and the error log -/

/-- TIME of a virtual device (02 R42, R43): it stands while the device is paused. -/
def State.guestTime (s : State) (v : VDev) : BitVec 64 :=
  match v.paused with
  | some t => t
  | none => s.ns + v.timeOff

/-- An error record put into a device's log (11 R258): 256 records, the oldest making room. -/
def State.logTo (s : State) (vd : Nat) (r : ErrorRecord) : State :=
  s.onVd vd (fun v =>
    let r := { r with seq := v.logSeq, time := s.guestTime v, hb := s.hb }
    { v with log := (v.log ++ [r]).drop (v.log.length + 1 - 256), logSeq := v.logSeq + 1 })

/-- A record with every field zero but its kind. -/
def ErrorRecord.ofKind (kind : Nat) : ErrorRecord :=
  { kind, cause := 0, time := 0, hb := 0, ctx := 0, core := 0, die := 0, detail := 0, tmask := 0, taddr := 0, tinfo := 0, seq := 0,
    qpc := [] }

/-- A record of a context, to its device. -/
def State.logCtx (s : State) (ctx : Nat) (r : ErrorRecord) : State :=
  match s.ctxOf ctx with
  | some c => s.logTo c.vd { r with ctx }
  | none => s

/-- The partitions whose clusters hold a core: its owner, or the borrower of its margin cluster. -/
def State.holdsCore (s : State) (p : Partition) (core : Nat) : Bool :=
  let k := coreCluster core
  match s.margins.find? (fun m => m.cluster == k && m.lentTo.isSome) with
  | some m => m.lentTo == some p.desc.pid
  | none => bitAt p.desc.guar k || bitAt p.desc.margin k

/-- A record of hardware, to every device of each partition that holds the unit. -/
def State.logPart (s : State) (holds : Partition → Bool) (r : ErrorRecord) : State :=
  (s.vdevs.filter (fun v => match s.partOf v.pid with | some p => holds p | none => false)).foldl (fun s v => s.logTo v.num r) s

/-- The number a core has in its partition (04 R85): its place among the cores of the partition's own clusters, or after those among the clusters that it borrows (DESIGN CHOICE:
log 68). -/
def State.coreNumber (s : State) (core : Nat) : Nat :=
  match s.parts.find? (fun p => s.holdsCore p core) with
  | some p =>
    let own (k : Nat) : Bool := bitAt p.desc.guar k || bitAt p.desc.margin k
    let below (f : Nat → Bool) (n : Nat) : Nat := ((List.range n).filter f).length
    let k := coreCluster core
    14 * (if own k then below own k
          else below own 32 + below (fun j => s.margins.any (fun m => m.cluster == j && m.lentTo == some p.desc.pid)) k) + core % 14
  | none => core

/-! ### Killing a context (02 R37) -/

/-- A command that the kill of its context keeps: one that has begun, but no `cpv`, whose held writes would wait on versions (02 R37 step 2; 07 R169). -/
def Command.kept (c : Command) : Bool := c.begun && match c.work with | .copy (.cpv _) _ _ _ _ _ _ _ => false | _ => true

/-- Steps 1 and 2 of the kill of a context: its warps issue nothing more; copies, jobs and tasks that have not begun are dropped,
its saved blocks and its held versioned writes with them (07 R169), and its running commands end with KILLED (02 R38). Step 3 and 4 come with write quiescence. -/
def State.killContext (s : State) (ctx : Nat) : State :=
  match s.ctxOf ctx with
  | none => s
  | some c =>
    if c.killing || c.killed then s
    else
      let s := s.onCtx ctx (fun c => { c with killing := true })
      let resident (t : Task) : Bool := s.blocks.any (fun b => b.die == t.die && b.task == t.idx)
      { s with
        cores := s.cores.map (fun k =>
          { k with
            sprues := k.sprues.map (fun q => q.filter (fun x => x.ctx != ctx || x.kept)),
            mallocs := k.mallocs.filter (fun m => !(s.warps.any (fun w => w.uid == m.warp && w.ctx == ctx))) }),
        jobs := s.jobs.filter (fun j => j.ctx != ctx || j.entries != [] || j.status != 0),
        heldWrites := s.heldWrites.filter (fun h => h.ctx != ctx),
        saved := s.saved.filter (fun b => b.ctx != ctx),
        cpcs := s.cpcs.filter (fun o => o.cmd.ctx != ctx),
        commands := s.commands.map (fun k =>
          if k.ctx == ctx && k.outcome.isNone && k.phase != 0 && k.code != 2 && k.code != 9 then
            { k with outcome := some (0x0009, BitVec.ofNat 64 k.copied) }
          else k),
        tasks := (s.tasks.filter (fun t => t.ctx != ctx || resident t)).map (fun t =>
          if t.ctx == ctx then { t with stages := t.stages.map (fun g => { g with next := 2 ^ 32 }) } else t) }

end Sys2Proof.Machine
end

