-- ==== Sys2Proof/Machine/Ops.lean ====
section
/-!
DEFINITION. The shared operations over warps: taking a trap and returning from one (05 R121 to R124), held faults (08 R186), restarts
(11 R242), paired warps (11 R243 to R247), and what the end of a quad or the parking of a quad completes (05 R107, R113).
-/
namespace Sys2Proof.Machine

/-! ### Traps -/

/-- TINFO of cause 0x02 (13 R282): CHECK and FIELD. -/
def encInfo (check field : Nat) : Nat := check * 256 + field

/-- A trap in some lanes with nothing but a cause. -/
def Trap.of (cause : Nat) (mask : LaneMask) (first : Nat) (addr info : Option Nat) : Trap := { cause, mask, addr, first, info }

/-- A quad that a trap does not stop: it is parked (05 R121). A quad that only waits to issue again is not. -/
def Quad.parked (q : Quad) : Bool :=
  match q.park with
  | .running | .sleep | .yield _ _ | .fenceTick => false
  | _ => true

/-- The quads that take part in a handler: living and not parked (05 R122). -/
def Warp.handlerQuads (w : Warp) : List Nat := w.aliveQuads.filter (fun q => !(w.quad q).parked)

/-- The quads of the gang whose pour is between steps: a bit in each of the first eight accumulators holds them. A state that `mrest` or `restw` has put back
belongs to no gang (17 R374). -/
def StepState.quads (m : StepState) : List Nat := quads8.filter (fun q => (m.acc.byte (80 * q + 1)).getLsbD 2)
def StepState.ownedBy (m : StepState) (qs : List Nat) : StepState :=
  { m with
    acc := quads8.foldl (fun a q => let x := a.byte (80 * q + 1); a.setByte (80 * q + 1) (if qs.contains q then x ||| 4 else x &&& 0xFB)) m.acc }

/-- The quads of the gang that goes on with the sparse pour between steps, where it still is that gang (10 R235). -/
def Warp.pourer (w : Warp) : List Nat :=
  let qs := w.mstep.quads
  if w.mstep.active && w.members (w.quad (qs.headD 0)).gang == qs && qs.all (fun q => (w.quad q).park == .running) then qs else []

/-- A sparse pour is to finish its steps before the warp stops: not one of the quads that the trap is in (10 R235). -/
def Warp.finishes (w : Warp) : Bool :=
  w.pourer != [] && match w.trapWait with | some t => w.pourer.all (fun q => quadBits t.mask q == 0) | none => true

/-- Everything that a warp has issued has completed (05 R121, 12 R272, 10 R235). -/
def Warp.quiet (w : Warp) : Bool := w.pending == [] && w.scored == [] && w.tick.isNone && !w.finishes

/-- The trap registers that a trap writes (05 R121); `free` stands for what the manual leaves unstated of TADDR and TINFO. -/
def Warp.trapRegs (w : Warp) (t : Trap) (free : Nat) : TrapRegs :=
  { tbase := w.trap.tbase, tcause := BitVec.ofNat 32 t.cause, tmask := t.mask, taddr := BitVec.ofNat 64 (t.addr.getD free),
    tfirst := BitVec.ofNat 64 t.first, tinfo := BitVec.ofNat 64 (t.info.getD (free / 2 ^ 64)),
    tqpc := w.quads.map (fun q => BitVec.ofNat 64 q.path.pc.toNat) }

/-- The warp as it enters its handler (05 R122): its non-parked living quads form one gang at TBASE, formed with the fresh identifier `k`,
and INTRAP is set. -/
def Warp.enter (w : Warp) (t : Trap) (free clk k : Nat) : Warp :=
  let hs := w.handlerQuads
  let w' := { w with trap := w.trapRegs t free, inTrap := true, trapWait := none, trapGiven := false, handler := quadSet hs }
  w'.onQuads hs (fun q =>
    { q with
      path := { q.path with pc := BitVec.ofNat 55 w.trap.tbase.toNat }, gang := gangId k (hs.headD 0), park := .running,
      readyAt := clk, debts := [] })

/-- A shadow whose leading warp takes a trap that no instruction of the shadow raises stands where the leading warp stands. -/
def Warp.meet (v w : Warp) : Warp :=
  if w.trapGiven then { v with quads := List.zipWith (fun q p => { q with path := { q.path with pc := p.path.pc }, park := p.park }) v.quads w.quads } else v

/-- What a warp has asked other packages for is nothing to it any more: it leaves the instruction that asked. -/
def State.forget (s : State) (uid : Nat) : State :=
  { s with
    answers := s.answers.filter (fun a => a.who != .engine uid),
    channels := s.channels.map (fun o =>
      match o.access.kind with
      | .ask who write => if who == .engine uid then { o with access := { o.access with kind := .ask (.engine 0) write } } else o
      | _ => o) }

/-- TRAP_ENTRY once everything issued has completed (05 R121, R122, R124): the handler at TBASE, for a paired warp's shadow too (11 R247), or with
TBASE 0 the end of the context and an error record of KIND 1 (11 Table 11-6). -/
def State.enterTrap (s : State) (uid : Nat) (t : Trap) : State :=
  match s.warpOf uid with
  | none => s
  | some w =>
    let (free, s) := (s.forget uid).chooseNat
    if w.trap.tbase == 0 then
      let r := w.trapRegs t free
      let s := s.putWarp { w with trap := r, trapWait := none }
      let s := s.logCtx w.ctx
        { ErrorRecord.ofKind 1 with
          cause := t.cause, core := s.coreNumber w.core, die := coreDie w.core, tmask := t.mask, taddr := r.taddr, tinfo := r.tinfo,
          qpc := r.tqpc }
      s.killContext w.ctx
    else
      let (k, s) := s.newUid
      let clk := (s.coreOf w.core).clk
      (s.putWarp (w.enter t free clk k)).onShadow uid (fun v => (v.meet w).enter t free clk k)

/-- The speculation of a warp, and of its shadow, squashed (07 R165, R166). -/
def State.squashPair (s : State) (uid : Nat) : State := (s.onWarp uid Warp.squash).onShadow uid Warp.squash

/-- What the shadow of a paired warp still has to issue up to a trap: the instruction that raised it (11 R247). -/
def Trail.ofTrap (quads : BitVec 8) (t : Trap) : Trail :=
  { quads, others := false, seq := 0, compared := none, released := false, value := none, exits := false, bar := false, trap := some t,
    banks := 0 }

/-- A trap taken by a warp. One that a trap already waits for is not taken: its quad stands at its instruction, which executes again after `tret`
(05 R121). While speculating the warp squashes instead (07 R166). Otherwise the entry comes once everything that the warp has issued
has completed, and in paired mode once the shadow has raised the same (11 R247), unless the trap is `given`: one that no instruction of the
shadow raises. -/
def State.takeTrapOf (given : Bool) (s : State) (uid : Nat) (t : Trap) : State :=
  match s.warpOf uid with
  | none => s
  | some w =>
    if w.trapWait.isSome then s
    else if w.spec.isSome then s.squashPair uid
    else if (s.shadowOf uid).isSome then
      let quads := quadSet (quads8.filter (fun q => quadBits t.mask q != 0))
      s.putWarp { w with trapWait := some t, trapGiven := given, trail := if given then w.trail else w.trail ++ [Trail.ofTrap quads t] }
    else if w.quiet then s.enterTrap uid t
    else s.putWarp { w with trapWait := some t }

/-- A trap of an instruction. -/
def State.takeTrap (s : State) (uid : Nat) (t : Trap) : State := s.takeTrapOf false uid t

/-- The quads of a packed gang return, still packed, to their home warps as gangs of one (05 R123). -/
def State.dissolve (s : State) (core gang : Nat) : State :=
  if (s.gangWarps core gang).all (fun w => (w.members gang).all (fun q => !(w.quad q).packed)) then s
  else
    let (k, s) := s.newUid
    { s with
      warps := s.warps.map (fun w =>
        if w.core == core && !w.ended then
          (w.members gang).foldl
            (fun w q => if (w.quad q).packed then w.onQuad q (fun x => { x with gang := gangId k (8 * w.slot + q) }) else w) w
        else w) }

/-- The lanes of a warp that can fault: living and not helper lanes (08 R185). -/
def Warp.realLanes (w : Warp) : LaneMask := w.livingOf w.aliveQuads &&& ~~~w.helper

/-- A held fault taken before any instruction issues (08 R186, 05 R121). -/
def State.deliverHeld (s : State) (uid : Nat) : State :=
  match s.warpOf uid with
  | none => s
  | some w =>
    match w.heldFault with
    | none => s
    | some f =>
      let s := s.putWarp { w with heldFault := none }
      s.takeTrapOf true uid
        { cause := f.cause.toNat, mask := f.mask, addr := some f.addr.toNat,
          first := (w.quad (w.handlerQuads.headD 0)).path.pc.toNat, info := some f.info.toNat }

/-- The return from a trap (05 R122): INTRAP is cleared, each quad of the handler resumes at its TQPC, quads with equal TQPCs
forming one gang, and a held fault is delivered. A warp that waited at a barrier word when it was unparked for its trap waits there again. -/
def State.returnFromTrap (s : State) (uid : Nat) : State :=
  match s.warpOf uid with
  | none => s
  | some w =>
    let hs := (quadList w.handler).filter (fun q => (w.quad q).alive)
    let w := hs.foldl
      (fun w q => w.onQuad q (fun x =>
        { x with
          path := { x.path with pc := BitVec.ofNat 55 (w.trap.tqpc.getD q 0).toNat }, park := if w.barrier.isSome then .barrier else .running, before := none, debts := [] }))
      w
    let (k, s) := s.newUid
    let s := s.putWarp { regroup k w hs with inTrap := false, handler := 0 }
    s.deliverHeld uid

/-! ### Restarts (11 R242) -/

/-- The mold step state with no pour between steps. -/
def StepState.idle (m : StepState) : StepState := { m with active := false, slot := 0, opnd := 0, total := 0, done := 0, acc := [] }

/-- A pending access that a restart discards: one that is not released, one that only fetches a result, and an atomic or tile flag that still
holds its gang, whose effect has not begun. -/
def Access.discards (a : Access) : Bool :=
  a.held || match a.kind with
    | .load _ _ | .mon _ => true
    | .atom _ _ _ _ _ | .tileFlag => a.holds
    | _ => false

/-- A warp restarted at REGION: its speculation is squashed, what is not released and what is pending of results is dropped, its living quads
form one gang at PCW, formed with the fresh identifier `k`, with all their living lanes active, and COUNT advances. -/
def Warp.restart (w : Warp) (region : BitVec 64) (clk k : Nat) : Warp :=
  let w := w.squash
  let pc := BitVec.ofNat 55 (bitField region 2 53 * 4)
  let alive := w.aliveQuads
  let w := { w with
    pending := w.pending.filter (fun a => !a.discards), region,
    scored := [], late := [], waits := [], mstep := w.mstep.idle, trapWait := none, trapGiven := false, trail := [], agreed := [], offer := none,
    rcount := BitVec.ofNat 32 (bitField w.rcount 0 2 + 1) }
  w.onQuads alive (fun q =>
    { q with
      path := { q.path with pc, active := q.path.living, stack := [] }, gang := gangId k (alive.headD 0),
      park := if w.barrier.isSome then .barrier else .running, readyAt := clk, debts := [], before := none })

/-- The hidden slot of a shadow (11 R243): 64 above the slot of its leading warp. A warp of a slot that a block can take is no shadow. -/
def hiddenSlot : Nat := 64
def Warp.hidden (w : Warp) : Bool := decide (hiddenSlot ≤ w.slot)

/-- A shadow in the same state as its leading warp, with nothing of its own pending (11 R243, 04 R95). -/
def Warp.asShadow (w : Warp) : Warp :=
  { w with
    slot := w.slot + hiddenSlot, pending := [], scored := [], late := [], waits := [], spec := w.spec.map (fun x => { x with buffer := [], reads := [] }),
    tick := none, errors := [], lines := [], cache := [], dirty := [], badLines := [], heldFault := none, trail := [], agreed := [], offer := none,
    trapWait := none, trapGiven := false }

/-- What follows a refused restart (11 R242, R246): the speculation is discarded and the quads that it parked take part in the handler. With `drop`, what
is not released is dropped and the shadow starts again from the state of its leading warp, since the two no longer agree (DESIGN CHOICE: log 63). -/
def Warp.refused (drop : Bool) (w : Warp) : Warp :=
  let w := if w.spec.isSome then
      let v := w.squash
      { v with quads := v.quads.map (fun q => if q.park == .barrier then { q with park := .running } else q) }
    else w
  if drop then
    let gone := (w.pending.filter (fun a => a.held)).map (fun a => a.seq)
    { w with
      pending := w.pending.filter (fun a => !a.held), scored := w.scored.filter (fun e => !gone.contains e.seq), trail := [], agreed := [], offer := none }
  else w

/-- A trigger of a restart: the restart of the warp and its shadow, or the trap of its cause when it is refused (11 R242, Table 11-3). `unit` and
`index` go into TINFO with REASON, and `first` into TFIRST: the instruction of the gang that triggered it. An error that the register file or the mold store reports is
counted on its core (R253). -/
def State.restartOrTrap (s : State) (uid : Nat) (drop : Bool) (cause unit index : Nat) (mask : LaneMask) (first : BitVec 55) : State :=
  match s.warpOf uid with
  | none => s
  | some w =>
    let s := if cause == 0x0E && unit ≤ 3 then s.onCore w.core (fun c => { c with regErrors := c.regErrors ++ [s.hb] }) else s
    if bitAt w.region 0 && bitField w.rcount 0 2 < 3 then
      let (k, s) := (s.forget uid).newUid
      let clk := (s.coreOf w.core).clk
      (s.putWarp (w.restart w.region clk k)).onShadow uid (fun v => v.restart w.region clk k)
    else
      let reason := if bitAt w.region 0 then 0 else 1
      let w := w.refused drop
      ((s.putWarp w).onShadow uid (fun v => if drop then w.asShadow else v.refused false)).takeTrapOf true uid
        { cause, mask, addr := none, first := first.toNat, info := some (unit * 2 ^ 28 + reason * 2 ^ 24 + index * 2 ^ 16) }

/-! ### Paired warps (11 R243 to R247) -/

/-- An instruction that the shadow issues by itself, with nothing to compare or to take. -/
def Trail.plain (h : Trail) : Bool := h.compared.isNone && h.value.isNone && !h.exits && !h.bar && h.trap.isNone

/-- An entry that the shadow reaches in order: a compared operation, a `bar`, an `exit` or a trap (R246). -/
def Trail.keyed (h : Trail) : Bool := h.compared.isSome || h.exits || h.bar || h.trap.isSome

/-- The first entry of a list that satisfies a test, taken out. -/
def dropFirst (p : Trail → Bool) : List Trail → List Trail
  | [] => []
  | h :: hs => if p h then hs else h :: dropFirst p hs

/-- The first entry of a list that satisfies a test, changed. -/
def changeFirst (p : Trail → Bool) (f : Trail → Trail) : List Trail → List Trail
  | [] => []
  | h :: hs => if p h then f h :: hs else h :: changeFirst p f hs

/-- The operations in the store-compare buffer and the entries of the load-value queue (R244, R245). -/
def Warp.buffered (w : Warp) : Nat := (w.trail.filter (fun h => h.compared.isSome && !h.released)).length
def Warp.queued (w : Warp) : Nat := (w.trail.filter (fun h => h.value.isSome)).length

/-- A result that has arrived for the shadow: words of registers counted from the first that the instruction writes. -/
def Warp.fillValue (seq : Nat) (words : List (Nat × Nat × Word)) (w : Warp) : Warp :=
  { w with
    trail := w.trail.map (fun h => if h.seq == seq then { h with value := h.value.map (fun v => { v with ready := true, words }) } else h) }

/-- The mismatch of a paired warp and its shadow (R246): restart, or cause 0x0F at the instruction of some quads of the leading warp. -/
def State.mismatch (s : State) (uid : Nat) (quads : BitVec 8) : State :=
  match s.warpOf uid with
  | none => s
  | some w =>
    let qs := (quadList quads).filter (fun q => (w.quad q).alive)
    let qs := if qs == [] then w.handlerQuads else qs
    s.restartOrTrap uid true 0x0F 0 0 (w.activeOf qs &&& ~~~w.helper) (w.quad (qs.headD 0)).path.pc

/-- The entry of a trap that waited, once the warp is quiet and its shadow has reached the same boundary with the same trap (05 R121, 11 R247). -/
def State.settleTrap (s : State) (uid : Nat) : State :=
  match s.warpOf uid with
  | none => s
  | some w =>
    match w.trapWait with
    | none => s
    | some t =>
      if !w.quiet then s
      else
        match s.shadowOf uid with
        | none => s.enterTrap uid t
        | some v =>
          if w.trail != [] then s
          else if w.trapGiven || (match v.trapWait with | some u => u.cause == t.cause && u.mask == t.mask && u.addr == t.addr | none => false) then
            s.enterTrap uid t
          else s.mismatch uid (quadSet (quads8.filter (fun q => quadBits t.mask q != 0)))

/-! ### What parking and the end of quads complete -/

/-- The quads that a wait of the whole warp counts: all living ones, or the handler's while INTRAP is set (18 R385, 19 R411). -/
def Warp.counted (w : Warp) : List Nat :=
  if w.inTrap then w.aliveQuads.filter (fun q => w.handler.getLsbD q) else w.aliveQuads

/-- An `rgang` or `rgang.home` that every counted quad has reached (05 R107, R113): they re-gang by equal program counter, as gangs formed
with the fresh identifier `k`. -/
def Warp.settleRgang (w : Warp) (k : Nat) : Warp :=
  let qs := w.counted
  let all (p : Park) : Bool := qs != [] && qs.all (fun q => (w.quad q).park == p)
  if all .rgang || all .rgangHome then
    let home := all .rgangHome
    let w := w.onQuads qs (fun q => { q with park := .running, before := none, packed := if home then false else q.packed })
    let w := if qs == w.aliveQuads then
        { w with pending := w.pending.map (fun a => { a with joined := some (a.joined.getD k) }) } else w
    regroup k w qs
  else w

/-- Stack cache lines of a warp (06 R127): the device addresses of its stack begin at `base`. -/
def lineBytes : Nat := 128

end Sys2Proof.Machine
end

