-- ==== Sys2Proof/Machine/Operands.lean ====
section
/-!
DEFINITION. The operand forms: registers, uniforms and the I word (12 R262, R263), the random operand (12 R266), predicate
operands (18 R389), and operands poured through molds (chapter 10).
-/
namespace Sys2Proof.Machine

/-! ### Plain operands -/

/-- The I word widened to a type (12 R263), with the flags that widening sets (09 R209: a signalling NaN sets IV). -/
def wideImmRes (t : Nat) (pair : Bool) (i : BitVec 32) : Res :=
  if !pair then (i.toNat, 0)
  else if t == 16 then (wrap 64 (signed 32 i.toNat), 0)
  else if t == 15 then convertElem 15 3 0 0 .no false i.toNat
  else (i.toNat, 0)
def wideImm (t : Nat) (pair : Bool) (i : BitVec 32) : Nat := (wideImmRes t pair i).1

/-- The value of a source field of `n` registers in a lane, not poured. -/
def plainOperand (r : Regs) (x : Fields) (o : Operand) (n lane : Nat) : Nat :=
  if o.isImm then wideImm x.t.toNat (n == 2) x.i
  else if o.uni then r.unis o.reg.toNat n
  else r.vecs o.reg.toNat lane n

/-- A predicate operand in a lane (18 R389): bit 3 negates. -/
def predOperand (r : Regs) (o : Operand) (lane : Nat) : Bool := (r.pred (o.reg.toNat % 8) lane) != bitAt o.reg 3

/-- The number of registers a source form reads. -/
def SForm.regs : SForm → Nat
  | .reg n _ _ _ _ _ _ => n
  | _ => 0

/-- A source field in a lane under its form. -/
def formOperand (r : Regs) (x : Fields) (f : SForm) (o : Operand) (lane : Nat) : Nat :=
  match f with
  | .reg n _ _ _ _ _ _ => plainOperand r x o n lane
  | .pred _ => boolNat (predOperand r o lane)
  | _ => 0

/-- Random bits of element `i` in a lane (09 R202), from the random operand that the form locates (12 R266). -/
def randomBits (r : Regs) (x : Fields) (f : Form) (lane i : Nat) : Nat :=
  let (uni, reg) :=
    match f.rnd with
    | .c => (x.c.uni, x.c.reg.toNat)
    | .e => (bitAt x.e 8, bitField x.e 0 8)
    | .none => (false, 255)
  let w := if uni then r.uni (reg + i / 2) else r.vec (reg + i / 2) lane
  bitField w (16 * (i % 2)) 16

/-! ### Bindings -/

/-- Fields of a binding record (10 Table 10-1). -/
def BindRec.sf (b : BindRec) : Nat := bitField b.sfmt 0 5
def BindRec.mf (b : BindRec) : Nat := bitField b.mfmt 0 5
def BindRec.rf (b : BindRec) : Nat := bitField b.res 0 5
def BindRec.sparse (b : BindRec) : Bool := bitAt b.flags 0
def BindRec.sscl (b : BindRec) : Bool := bitAt b.flags 1
def BindRec.mscl (b : BindRec) : Bool := bitAt b.flags 2
def BindRec.grp (b : BindRec) : Nat := bitField b.flags 3 2
def BindRec.satb (b : BindRec) : Bool := bitAt b.mode 3
def BindRec.rowPred (b : BindRec) : Nat := bitField b.preds 0 3
def BindRec.colPred (b : BindRec) : Nat := bitField b.preds 3 3

/-- Rows of a mold: 32 lanes of source elements (10 R223). -/
def BindRec.rows (b : BindRec) : Nat := 32 * tyCount b.sf

/-- The banks a binding uses (10 Table 10-2). -/
def BindRec.bankList (b : BindRec) : List Nat := if b.mf == 15 then [b.bank.toNat, b.bank.toNat + 1] else [b.bank.toNat]

/-- The rounding code of a binding: 6 takes WCTL.RND (10 R229). -/
def BindRec.rmode (b : BindRec) (rnd : Nat) : Nat := if bitField b.mode 0 3 == 6 then rnd else bitField b.mode 0 3

/-- A pour through the binding needs random bits (12 R266). -/
def BindRec.needsRandom (b : BindRec) (rnd : Nat) : Bool := (b.rf == 3 || b.rf == 15) && b.rmode rnd == 5

/-- The binding of a slot. -/
def Warp.slotOf (w : Warp) (n : Nat) : Option Binding := (w.slots.getD (n - 1) none)

/-! ### What a pour computes (10 R228 to R232) -/

/-- What a pour reads beside its slot: the core, the registers, the lanes that are active after the guard and not helper lanes, the
packed quads among them, and WCTL.RND. -/
structure PourEnv where
  core   : Nat
  regs   : Regs
  real   : LaneMask
  packed : List Nat
  rnd    : Nat
deriving DecidableEq, Repr

/-- The lanes whose rows can be live for a destination lane: a packed quad sees its own lanes (05 R112). -/
def PourEnv.sources (e : PourEnv) (b : BindRec) (n : Nat) : LaneMask :=
  let m := e.real &&& e.regs.predMask b.rowPred
  if e.packed.contains (n / 4) then m &&& quadMask 0xF (n / 4) else m

/-- A bit of the source bitmap (10 R233). -/
def PourEnv.bitmap (e : PourEnv) (b : BindRec) (k : Nat) : Bool :=
  (e.regs.vec b.bmreg.toNat (b.sel.toNat + k / 32)).getLsbD (k % 32)

/-- Row k counts for the steps of a sparse pour, or takes part at all (10 R228, R233). -/
def PourEnv.rowSet (e : PourEnv) (b : Binding) (k : Nat) : Bool := !b.record.sparse || (b.rows.getLsbD k && e.bitmap b.record k)

/-- Entry (k, n) of the matrix: element 32k + n of the bank (10 R223). -/
def State.moldEntry (s : State) (core : Nat) (b : BindRec) (k n : Nat) : Nat :=
  let base := (core * 64 + b.bank.toNat) * 4096
  let i := 32 * k + n
  let w := tyWidth b.mf
  if w == 4 then natField (s.banks.byte (base + i / 2)).toNat (4 * (i % 2)) 4 else s.banks.read (base + i * (w / 8)) (w / 8)

/-- A group's f16 scale and zero point, or the codes of a scale block (10 R231, R232). -/
def Binding.scale16 (b : Binding) (g n : Nat) : Nat := leAt b.scales (2 * (32 * g + n)) 2
def Binding.zeroPoint (b : Binding) (g n : Nat) : Nat :=
  if b.record.mf == 11 then leAt b.zeros (32 * g + n) 1 else natField (leAt b.zeros ((32 * g + n) / 2) 1) (4 * (n % 2)) 4
def Binding.codes (b : Binding) (r : Regs) (j n : Nat) : Nat × Nat :=
  (if b.record.sscl then bitField (r.uni (b.record.sureg.toNat + j / 4)) (8 * (j % 4)) 8 else 127,
   if b.record.mscl then leAt b.scales (32 * j + n) 1 else 127)

/-- A term that is not skipped: a bad scale, or its two factors with a power of two, or with an exact multiplier. -/
inductive Term where
  | bad
  | prod (x m : Num) (shift : Int)
  | quant (x s : Num) (w : Int)
deriving DecidableEq, Repr

/-- Term (k, n), or none when it is skipped (10 R228, R231, R232). -/
def termOf (s : State) (e : PourEnv) (b : Binding) (reg k n : Nat) : Option Term :=
  let t := b.record.sf
  let c := tyCount t
  if !((e.sources b.record n).getLsbD (k / c) && e.rowSet b k) then none
  else
    let raw := e.regs.vecs reg (k / c) (tyRegs t)
    let x := decodeNum t (natField raw (k % c * tyWidth t) (tyWidth t))
    let entry := s.moldEntry e.core b.record k n
    if b.record.mf == 11 || b.record.mf == 12 then
      let g := k / (16 * 2 ^ b.record.grp)
      let z := b.zeroPoint g n
      if entry == z then none
      else if scaleBad (b.scale16 g n) then some .bad
      else some (.quant x (decodeNum 4 (b.scale16 g n)) ((entry : Int) - z))
    else
      let m := decodeNum b.record.mf entry
      if m.isZero then none
      else if t == 6 || t == 7 || t == 8 then
        let (a, c) := b.codes e.regs (k / 32) n
        if a == 255 || c == 255 then some .bad else some (.prod x m ((a : Int) + c - 254))
      else some (.prod x m 0)

/-- The terms of column n, by rising row. -/
def termsOf (s : State) (e : PourEnv) (b : Binding) (reg n : Nat) : List Term :=
  (List.range b.record.rows).filterMap (fun k => termOf s e b reg k n)

/-- The exact product of a term; `none` for 0 × ∞. -/
def Term.value : Term → Option Num
  | .bad => none
  | .prod x m sh =>
    match mulNum x m with
    | some (.fin n v e) => some (.fin n v (e + sh))
    | r => r
  | .quant x s w =>
    match mulNum x s with
    | some (.fin n v e) => some (.fin (n != decide (w < 0)) (v * w.natAbs) e)
    | some (.inf n) => some (.inf (n != decide (w < 0)))
    | r => r

/-- The factors of a term, in order. -/
def Term.factors : Term → List Num
  | .bad => []
  | .prod x m _ => [x, m]
  | .quant x s _ => [x, s]

/-- The exact sum of finite values as an integer multiple of a power of two. -/
def exactSum (xs : List Num) : Int × Int :=
  xs.foldl
    (fun (acc : Int × Int) x =>
      match x with
      | .fin n m e =>
        if m == 0 then acc
        else if acc.1 == 0 then (sgn n m, e)
        else
          let q := min acc.2 e
          (acc.1 * (2 ^ (acc.2 - q).toNat : Nat) + sgn n m * (2 ^ (e - q).toNat : Nat), q)
      | _ => acc)
    (0, 0)

/-- The sign of an exact zero sum of values (10 R229): a single value keeps its sign. -/
def zeroSign (mode : Nat) (xs : List Num) : Bool :=
  match xs with
  | [] => false
  | [x] => x.neg
  | _ => if xs.all Num.neg then true else mode == 2

/-- An exact sum of values rounded into f32 or f64, with the special values of 10 R229. `zero` is the sign of an exact zero. -/
def roundSum (t : Nat) (r : Rnd) (zero : Bool) (xs : List Num) : Res :=
  let pos := xs.any (fun x => x == .inf false)
  let neg := xs.any (fun x => x == .inf true)
  if pos && neg then invalid t
  else if pos || neg then ((encodeInf t neg).1, 0)
  else
    let (v, e) := exactSum xs
    if v == 0 then (zeroOf t zero, 0) else r.enc t (decide (v < 0)) v.natAbs e false

/-- The rounding rule of a binding: saturation applies to every overflow of a scaled pour and to infinities otherwise (10 R232,
09 R210). -/
def BindRec.satRule (b : BindRec) : SatRule :=
  if !b.satb then .no else if b.sf == 6 || b.sf == 7 || b.sf == 8 then .full else .infinity

/-- What the terms of a column come to before they are rounded (10 R229, R234): a bad scale, the NaN of the lowest NaN factor with its flags,
whether a term is 0 × ∞, +∞ or −∞, how many terms there are (0, 1 or 2 for more), whether all of them are negative and whether none is, and the exact
sum of the finite ones as an integer and a power of two. -/
structure Column where
  bad   : Bool
  nan   : Option Res
  undef : Bool
  pos   : Bool
  neg   : Bool
  count : Nat
  minus : Bool
  plus  : Bool
  sum   : Int
  exp   : Int
deriving DecidableEq, Repr

/-- The column of some terms, the NaN taken in a type. -/
def columnOf (t : Nat) (ts : List Term) : Column :=
  let vals := ts.filterMap Term.value
  let sum := exactSum vals
  { bad := ts.contains .bad, nan := nanOf t (ts.flatMap Term.factors), undef := ts.any (fun x => x.value.isNone),
    pos := vals.any (fun x => x == .inf false), neg := vals.any (fun x => x == .inf true), count := min ts.length 2,
    minus := vals.all Num.neg, plus := !vals.any Num.neg, sum := sum.1, exp := sum.2 }

/-- The values that stand for a column beside its NaNs: its infinities and its finite sum. -/
def Column.values (c : Column) : List Num :=
  (if c.pos then [.inf false] else []) ++ (if c.neg then [.inf true] else []) ++ (if c.sum == 0 then [] else [.fin (decide (c.sum < 0)) c.sum.natAbs c.exp])

/-- The first special outcome of a column (10 R229 steps 1 to 3), `d` standing before every term when there is one. -/
def Column.special (t : Nat) (d : Option Num) (c : Column) : Option Res :=
  if c.bad then some (invalid t)
  else
    match nanOf t (match d with | some v => [v] | none => []), c.nan with
    | some (v, f), some (_, g) => some (v, f ||| g)
    | some r, none => some r
    | none, some r => some r
    | none, none => if c.undef then some (invalid t) else none

/-- The sign of an exact zero: of the sum of a column (10 R229), or with `d` of the accumulation of `macc` (17 R369, 16 R343). -/
def Column.zeroNeg (mode : Nat) (d : Option Num) (c : Column) : Bool :=
  match d with
  | some v => if v.neg && c.minus then true else if !v.neg && c.plus then false else mode == 2
  | none => if c.count == 0 then false else if c.minus then true else if c.count == 1 then false else mode == 2

/-- A column rounded into f32: the pour, or with `d` the accumulation of `macc` (17 R369). -/
def Column.roundF32 (b : BindRec) (r : Rnd) (d : Option Num) (c : Column) : Res :=
  match c.special 3 d with
  | some v => v
  | none =>
    roundSum 3 { r with sat := b.satRule } (c.zeroNeg r.mode d) ((match d with | some v => [v] | none => []) ++ c.values)

/-- A column with RES i32, `d` added exactly (10 R229, 17 R369). -/
def Column.roundI32 (satb : Bool) (d : Int) (c : Column) : Res :=
  let v := d + (if c.exp < 0 then c.sum / (2 ^ (-c.exp).toNat : Nat) else c.sum * (2 ^ c.exp.toNat : Nat))
  if satb then
    let w := clampInt (intMin 1) (intMax 1) v
    (wrap 32 w, if w == v then 0 else flSAT)
  else (wrap 32 v, 0)

/-- One level of the pairwise tree of an f64 pour (10 R230): absent nodes add nothing. -/
def treePair (r : Rnd) : Option Num × Nat → Option Num × Nat → Option Num × Nat
  | (none, f), (none, g) => (none, f ||| g)
  | (some a, f), (none, g) => let (v, k) := roundNum 15 r a; (some (decodeNum 15 v), f ||| g ||| k)
  | (none, f), (some b, g) => let (v, k) := roundNum 15 r b; (some (decodeNum 15 v), f ||| g ||| k)
  | (some a, f), (some b, g) =>
    let (v, k) := match nanOf 15 [a, b] with | some q => q | none => roundSum 15 r (zeroSign r.mode [a, b]) [a, b]
    (some (decodeNum 15 v), f ||| g ||| k)

def treeLevel (r : Rnd) : List (Option Num × Nat) → List (Option Num × Nat)
  | a :: b :: rest => treePair r a b :: treeLevel r rest
  | l => l

/-- The 32 nodes of level 0 of column n (10 R230). -/
def treeNodes (s : State) (e : PourEnv) (b : Binding) (reg n : Nat) : List (Option Num × Nat) :=
  (List.range 32).map (fun k => ((termOf s e b reg k n).bind Term.value, 0))

/-- A sum with RES f64: levels 1 to 4 under RNE, the last level under the binding's mode, with `d` added exactly there (10 R230,
17 R369). An infinite term decides the column before the tree (R229 step 4), and sets no flag (DEDUCED: log 64). An exact zero sum of the terms has
the sign of R229, whichever level it arises at. -/
def sumF64 (s : State) (e : PourEnv) (b : Binding) (r : Rnd) (d : Option Num) (reg n : Nat) : Res :=
  let c := columnOf 15 (termsOf s e b reg n)
  match c.special 15 d with
  | some v => v
  | none =>
    let ds := match d with | some v => [v] | none => []
    if c.pos || c.neg then roundSum 15 r false (ds ++ c.values)
    else
      let rne : Rnd := { mode := 0, rb := 0, sat := .no, ftz := false }
      let level4 := treeLevel rne (treeLevel rne (treeLevel rne (treeLevel rne (treeNodes s e b reg n))))
      let flags := level4.foldl (fun f x => f ||| x.2) 0
      let nodes := level4.filterMap (fun x => x.1)
      let vals := ds ++ nodes
      match nanOf 15 vals with
      | some (v, f) => (v, f ||| flags)
      | none =>
        let zero := if c.sum == 0 then c.zeroNeg r.mode d
          else match d with
            | some _ => if vals.all Num.neg then true else if vals.any Num.neg then r.mode == 2 else false
            | none => zeroSign r.mode vals
        let (v, f) := if vals == [] then (0, 0) else roundSum 15 { r with sat := b.record.satRule } zero vals
        (v, f ||| flags)

/-- The column of a pour with RES f32 or i32. -/
def columnAt (s : State) (e : PourEnv) (b : Binding) (reg n : Nat) : Column := columnOf 3 (termsOf s e b reg n)

/-- The value that a pour delivers to lane n, and its flags (10 R228 to R232). -/
def pourLane (s : State) (e : PourEnv) (b : Binding) (rb reg n : Nat) : Res :=
  let r : Rnd := { mode := b.record.rmode e.rnd, rb, sat := .no, ftz := false }
  if b.record.rf == 1 then (columnAt s e b reg n).roundI32 b.record.satb 0
  else if b.record.rf == 15 then sumF64 s e b r none reg n
  else (columnAt s e b reg n).roundF32 b.record r none

/-! ### The accumulators of a sparse pour (10 R234) -/

/-- The exponent at which an accumulator's sum counts: no product of two elements of Table 10-2, whatever its scales, has a smaller one. -/
def accExp : Int := -310

/-- An accumulator as 80 bytes. The encoding is the implementation's (log 6): a byte of marks, a byte with IV and the rounding code, and the sum in two's complement of
78 bytes, or the NaN. `mode` is the rounding code that the pour took at its issue. -/
def Column.encode (mode : Nat) (c : Column) : List Byte :=
  let marks := boolNat c.bad + 2 * boolNat c.nan.isSome + 4 * boolNat c.undef + 8 * boolNat c.minus + 16 * c.count + 64 * boolNat c.pos + 128 * boolNat c.neg
  let body : Nat := match c.nan with
    | some (v, _) => v
    | none => wrap 624 (c.sum * (2 ^ (c.exp - accExp).toNat : Nat))
  leBytes 1 marks ++ leBytes 1 ((match c.nan with | some (_, f) => f % 2 | none => 0) + 2 * boolNat c.plus + 32 * mode) ++ leBytes 78 body

/-- The column of an accumulator, and its rounding code. -/
def Column.decode (bs : List Byte) : Column × Nat :=
  let m := leAt bs 0 1
  let f := leAt bs 1 1
  let body := leAt bs 2 78
  ({ bad := natBit m 0, nan := if natBit m 1 then some (body % 2 ^ 32, f % 2) else none, undef := natBit m 2, minus := natBit m 3, plus := natBit f 1,
     count := natField m 4 2, pos := natBit m 6, neg := natBit m 7, sum := if natBit m 1 then 0 else signed 624 body, exp := accExp },
   f / 32)

/-- The steps of a pour (10 R233, 17 R371): eight places each among the live rows. -/
def pourSteps (e : PourEnv) (b : Binding) : Nat :=
  if !b.record.sparse then 1
  else
    let live := e.real &&& e.regs.predMask b.record.rowPred
    max 1 (ceilDiv ((List.range b.record.rows).filter (fun k => live.getLsbD (k / tyCount b.record.sf) && e.rowSet b k)).length 8)

/-- The bytes of a bank that a pour can read (10 R225): beyond them none is read. -/
def BindRec.bankBytes (b : BindRec) : Nat := if b.mf == 15 then 4096 else b.rows * 32 * tyWidth b.mf / 8

/-- The row of the matrix that a word of a bank belongs to, counted through the pair of banks of an f64 mold; a word can hold parts of
one row only, since a row has 32 entries. -/
def BindRec.rowOfByte (b : BindRec) (i : Nat) : Nat := i / (4 * tyWidth b.mf)

/-- A word with a double-bit error among those that a pour reads, by its bank (10 R222, R225, 11 R248): the words of the rows that are live for it. -/
def State.badBank (s : State) (e : PourEnv) (b : Binding) : Option Nat :=
  let r := b.record
  let live (i : Nat) : Bool :=
    let k := r.rowOfByte i
    (e.real &&& e.regs.predMask r.rowPred).getLsbD (k / tyCount r.sf) && e.rowSet b k
  (r.bankList.zip (List.range r.bankList.length)).findSome? (fun (k, i) =>
    if s.badBankWords.any (fun w => w.1 / 1024 == e.core * 64 + k && decide (4 * (w.1 % 1024) < r.bankBytes)
        && live (4096 * i + 4 * (w.1 % 1024))) then some k else none)

/-! ### Checks of pours (10 R227) -/

/-- TINFO of causes 0x09 to 0x0B (17 Table 17-1). Of the REASONs of cause 0x0A only 1 concerns a bank. -/
def moldInfo (reason bank opnd slot : Nat) : Nat := reason * 2 ^ 20 + bank * 2 ^ 8 + opnd * 2 ^ 6 + slot

/-- A result type accepts an operand of type `t` (10 R227). -/
def resAccepts (res t : Nat) : Bool := (res == 3 && t == 3) || (res == 15 && t == 15) || (res == 1 && (t == 0 || t == 1 || t == 2))

/-- The poured operands of an instruction: operand number, slot, register. -/
def pouredOperands (x : Fields) : List (Nat × Nat × Nat) :=
  [(0, x.a), (1, x.b), (2, x.c)].filterMap (fun (k, o) => if o.mold == 0 then none else some (k, o.mold.toNat, o.reg.toNat))

/-- Check 8 of Table 12-3 for every poured operand, `ty` giving its compared type: the causes of R227 in the order of its table. -/
def pourFault (w : Warp) (x : Fields) (ty : Nat → Nat) : Option (Nat × Nat) :=
  let ps := pouredOperands x
  let unbound := ps.find? (fun p => (w.slotOf p.2.1).isNone)
  let rec' (n : Nat) : BindRec := match w.slotOf n with | some b => b.record | none => ⟨0, 0, 0, 0, 0, 0, 0, 0, 0, 0, 0, 0, 0, 0, 0, 0⟩
  let wrong := ps.find? (fun p => !resAccepts (rec' p.2.1).rf (ty p.1))
  let sparse := ps.filter (fun p => (rec' p.2.1).sparse)
  let freed := ps.find? (fun p => match w.slotOf p.2.1 with | some b => b.freed | none => false)
  let beyond := ps.find? (fun p => if p.2.2 == 255 then tyPair (rec' p.2.1).sf else p.2.2 + tyRegs (rec' p.2.1).sf > w.nreg)
  match unbound, wrong with
  | some p, _ => some (0x09, moldInfo 0 255 p.1 p.2.1)
  | none, some p => some (0x0A, moldInfo 3 255 p.1 p.2.1)
  | none, none =>
    match sparse with
    | _ :: p :: _ => some (0x0A, moldInfo 4 255 p.1 p.2.1)
    | _ =>
      match freed, beyond with
      | some p, _ => some (0x0B, moldInfo 1 (rec' p.2.1).bank.toNat p.1 p.2.1)
      | none, some p => some (0x02, encInfo 8 (6 + p.1))
      | none, none => none

end Sys2Proof.Machine
end

