-- ==== Sys2Proof/Machine/Flags.lean ====
section
/-!
DEFINITION. Flags: the sticky flags of WSTAT (09 R205), the saturation of integer results (15 R317), and integer comparisons
(15 R326).
-/
namespace Sys2Proof.Machine

/-- Flags ORed into WSTAT (09 R205). -/
def Warp.orFlags (w : Warp) (flags : Nat) : Warp := { w with wstat := w.wstat ||| BitVec.ofNat 32 flags }

/-- An element as an exact integer: signed for codes 1, 9, 13 and 16 (15 R312). -/
def elemInt (t bits : Nat) : Int := if tySigned t then signed (tyWidth t) bits else (bits % 2 ^ tyWidth t : Nat)

/-- An exact integer result brought into a type: clamped with SAT, or wrapped (15 R317). -/
def intResult (t : Nat) (sat : Bool) (v : Int) : Res :=
  if sat && (v < intMin t || v > intMax t) then (wrap (tyWidth t) (clampInt (intMin t) (intMax t) v), flSAT)
  else (wrap (tyWidth t) v, 0)

/-- An integer comparison: eq ne lt le gt ge (13 Table 13-3). -/
def intCompare (cmp : Nat) (x y : Int) : Bool :=
  match cmp with
  | 0 => decide (x = y)
  | 1 => decide (x ≠ y)
  | 2 => decide (x < y)
  | 3 => decide (x ≤ y)
  | 4 => decide (x > y)
  | _ => decide (x ≥ y)

/-- Element `i` of a register value, and a register value with it replaced (09 R199). -/
def elemOf (t v i : Nat) : Nat := natField v (i * tyWidth t) (tyWidth t)
def putElem (t v i e : Nat) : Nat :=
  v - elemOf t v i * 2 ^ (i * tyWidth t) + e % 2 ^ tyWidth t * 2 ^ (i * tyWidth t)

/-- A value built from its elements, each with flags: the value and the flags ORed. -/
def buildElems (t : Nat) (f : Nat → Res) : Nat → Res
  | 0 => (0, 0)
  | n + 1 =>
    let (v, g) := buildElems t f n
    let (e, h) := f n
    (v + e % 2 ^ tyWidth t * 2 ^ (n * tyWidth t), g ||| h)

/-- Every element of a type. -/
def mapElems (t : Nat) (f : Nat → Res) : Res := buildElems t f (tyCount t)

end Sys2Proof.Machine
end

