-- ==== Sys2Proof/Machine/Issue.lean ====
section
/-!
DEFINITION. The issue of one instruction by the chosen gang (05 R106, 12 R268): the checks of Table 12-3 in their order, the guard,
early reads and writes (12 R271), poured operands, and the advance of the quads. A meaning is given as what it does for one home
warp of the gang (05 R112).
-/
namespace Sys2Proof.Machine

/-! ### Registers an instruction reads and writes -/

/-- A run of registers of one file. -/
def regRun (k : RegKind) (r n : Nat) : List (RegKind × Nat) :=
  if k == .vec && r == 255 then [] else (List.range n).map (fun i => (k, r + i))

/-- Registers of a source field. -/
def sourceRegs (f : SForm) (o : Operand) : List (RegKind × Nat) :=
  match f with
  | .reg n _ _ _ _ _ _ => if o.isImm then [] else if o.uni then regRun .uni o.reg.toNat n else regRun .vec o.reg.toNat n
  | .pred _ => if o.reg.toNat % 8 == 7 then [] else [(.pred, o.reg.toNat % 8)]
  | _ => []

/-- A predicate read or written, p7 being none. -/
def predReg (p : Nat) : List (RegKind × Nat) := if p == 7 then [] else [(.pred, p)]

/-- Registers that a poured operand reads beside its source (10 R228, R232, R233). -/
def slotRegs (w : Warp) (o : Operand) : List (RegKind × Nat) :=
  if o.mold == 0 then []
  else match w.slotOf o.mold.toNat with
    | none => []
    | some b =>
      predReg b.record.rowPred ++ predReg b.record.colPred
        ++ (if tyPair b.record.sf then regRun .vec (o.reg.toNat + 1) 1 else [])
        ++ (if b.record.sparse then regRun .vec b.record.bmreg.toNat 1 else [])
        ++ (if b.record.sscl then regRun .uni b.record.sureg.toNat (if b.record.sf == 8 then 2 else 1) else [])

/-- An instruction or one of its pours needs random bits (12 R266). -/
def needsRandom (w : Warp) (x : Fields) (f : Form) : Bool :=
  (f.rm && (x.rm == 5 || (x.rm == 6 && w.rnd == 5)))
    || (pouredOperands x).any (fun p => match w.slotOf p.2.1 with | some b => b.record.needsRandom w.rnd | none => false)

/-- A destination that is read too: an element replaced in a register (15 R330; 16 R350, R352), a counter (18 R382), an
accumulator (17 R369). -/
def readsDest (o : Op) (x : Fields) : Bool :=
  match o with
  | .loop | .macc | .quant => true
  | .icvt => tyCount (styp x) == 1 && tyCount x.t.toNat > 1
  | .fcvt => tyCount (styp x) < tyCount x.t.toNat
  | _ => false

/-- Registers of the D field when it is a destination. -/
def destRegs (x : Fields) : DForm → List (RegKind × Nat)
  | .vec n _ _ => regRun .vec x.d.toNat n
  | .uni n _ => regRun .uni x.d.toNat n
  | .pred => predReg (x.d.toNat % 8)
  | _ => []

/-- What an instruction reads (12 R271, R272). -/
def readRegs (w : Warp) (o : Op) (x : Fields) (f : Form) : List (RegKind × Nat) :=
  predReg x.guard.pred.toNat ++ sourceRegs f.a x.a ++ sourceRegs f.b x.b ++ sourceRegs f.c x.c
    ++ slotRegs w x.a ++ slotRegs w x.b ++ slotRegs w x.c
    ++ (match f.d with | .source n _ => regRun .vec x.d.toNat n | _ => [])
    ++ (if readsDest o x then destRegs x f.d else [])
    ++ (if needsRandom w x f then
          match f.rnd with
          | .c => regRun (if x.c.uni then .uni else .vec) x.c.reg.toNat f.rndRegs
          | .e => regRun (if bitAt x.e 8 then .uni else .vec) (bitField x.e 0 8) f.rndRegs
          | .none => []
        else [])
    ++ (match o with
        | .sel | .addc | .subb => predReg (bitField x.e 0 3)
        | .pmovGet => (List.range 7).map (fun p => (.pred, p))
        | _ => [])

/-- What an instruction writes. -/
def writeRegs (o : Op) (x : Fields) (f : Form) : List (RegKind × Nat) :=
  destRegs x f.d
    ++ (match o with
        | .addc | .subb => predReg (bitField x.e 4 3)
        | .pmovPut => if x.b.isImm then ((List.range 7).filter (fun p => bitAt x.i p)).map (fun p => (.pred, p))
                      else (List.range 7).map (fun p => (.pred, p))
        | _ => [])

/-! ### Latencies (09 R217, 15 R314, 16 R340, 17 R369, 18 R389) -/

/-- An instruction that pours through a sparse slot (12 R272). -/
def poursSparse (w : Warp) (x : Fields) : Bool :=
  (pouredOperands x).any (fun p => match w.slotOf p.2.1 with | some b => b.record.sparse | none => false)

/-- An instruction whose result has variable latency (12 R272); it is not owed under R271. -/
def variableLatency (w : Warp) (o : Op) (x : Fields) : Bool :=
  poursSparse w x || match o with
  | .ldb | .ldd | .ldk | .atom | .mon | .wait | .rng | .mnstat | .perf | .malloc | .mnisect | .launch | .barArrive => true
  | .csrr => let n := bitField x.e 0 12; n == 0x20 || n == 0x21 || n == 0x60 || n == 0x50
  | _ => false

/-- The latency of an instruction without its pours. -/
def baseLatency (o : Op) (x : Fields) : Nat :=
  let t := x.t.toNat
  match o with
  | .div | .rem => if tyPair t then 40 else 20
  | .icvt => if setI64.contains t || setI64.contains (styp x) then 8 else 4
  | .fadd | .fsub | .fmul | .fma | .fmin | .fmax | .fmnum | .fsetp | .fscale | .fround => if t == 15 then 8 else 4
  | .fcvt => if tyPair t || tyPair (styp x) then 8 else 4
  | .frcp | .frsq => if t == 15 then 16 else 12
  | .fex2 | .flg2 | .fsin | .fcos => 12
  | .fdiv | .fsqrt => if t == 15 then 32 else 16
  | .macc => 0
  | _ => 4

/-- What dense pours add: 6 clocks, or 9 for an f64 pour (09 Table 9-9). -/
def pourLatency (w : Warp) (x : Fields) : Nat :=
  (pouredOperands x).foldl (fun m p => match w.slotOf p.2.1 with | some b => max m (if b.record.rf == 15 then 9 else 6) | none => m) 0

def latency (w : Warp) (o : Op) (x : Fields) : Nat := if variableLatency w o x then 0 else baseLatency o x + pourLatency w x

/-! ### Early reads and writes (12 R271) -/

/-- The debts of some quads on registers of a list. -/
def owedOn (w : Warp) (qs : List Nat) (rs : List (RegKind × Nat)) : List (Nat × Debt) :=
  qs.flatMap (fun q => ((w.quad q).debts.filter (fun d => rs.contains (d.kind, d.reg))).map (fun d => (q, d)))

/-- TINFO of cause 0x07 (12 R271): the first register of the instruction that is still owed. -/
def stallInfo (w : Warp) (qs : List Nat) (rs : List (RegKind × Nat)) : Option Nat :=
  (rs.find? (fun r => owedOn w qs [r] != [])).map (fun r =>
    r.2 + 256 * (match r.1 with | .vec => 0 | .uni => 1 | .pred => 2))

/-- The registers as an instruction that reads too early sees them: in each lane, the value before the write or the value
written; the device does not say which. -/
def earlyView (s : State) (w : Warp) (qs : List Nat) (rs : List (RegKind × Nat)) (r : Regs) : State × Regs :=
  (owedOn w qs rs).foldl
    (fun (acc : State × Regs) (qd : Nat × Debt) =>
      [0, 1, 2, 3].foldl
        (fun (acc : State × Regs) i =>
          let (k, s) := acc.1.chooseNat
          (s, if natBit k 0 then acc.2.write qd.2.kind qd.2.reg (4 * qd.1 + i) (qd.2.old.getD i 0) else acc.2))
        acc)
    (s, r)

/-- Registers after a write that came too early: in each lane, the value it wrote or the earlier one. -/
def earlyWrite (s : State) (w : Warp) (qs : List Nat) (rs : List (RegKind × Nat)) (old new : Regs) : State × Regs :=
  (owedOn w qs rs).foldl
    (fun (acc : State × Regs) (qd : Nat × Debt) =>
      [0, 1, 2, 3].foldl
        (fun (acc : State × Regs) i =>
          let lane := 4 * qd.1 + i
          let before := old.read qd.2.kind qd.2.reg lane
          if before == acc.2.read qd.2.kind qd.2.reg lane then acc
          else
            let (k, s) := acc.1.chooseNat
            (s, if natBit k 0 then acc.2.write qd.2.kind qd.2.reg lane before else acc.2))
        acc)
    (s, new)

/-- The debts of a quad after it issued an instruction: what it owed falls by the declared distance, and what it wrote with latency
`lat` is owed anew, `before` being the registers before the write. -/
def Quad.pay (q : Quad) (idx dist lat : Nat) (rs : List (RegKind × Nat)) (before : Regs) : Quad :=
  let old := (q.debts.filter (fun d => !rs.contains (d.kind, d.reg) && d.owed > dist)).map (fun d => { d with owed := d.owed - dist })
  let new : List Debt :=
    if lat > dist then
      rs.map (fun r => { kind := r.1, reg := r.2, owed := lat - dist, old := [0, 1, 2, 3].map (fun i => before.read r.1 r.2 (4 * idx + i)) })
    else []
  { q with debts := old ++ new }

/-- The registers and lanes of a list in which a write that comes now is too early (12 R271). -/
def earlyLanes (w : Warp) (qs : List Nat) (rs : List (RegKind × Nat)) : List (Nat × Nat) :=
  (owedOn w qs rs).flatMap (fun qd => if qd.2.kind == .vec then [0, 1, 2, 3].map (fun i => (qd.2.reg, 4 * qd.1 + i)) else [])

/-- Values that land in registers, those in the lanes of `early` either landing or not (12 R271). -/
def State.landing (s : State) (early : List (Nat × Nat)) : List (Nat × Nat × Word) → State × List (Nat × Nat × Word)
  | [] => (s, [])
  | v :: vs =>
    let (s, vs) := State.landing s early vs
    if early.contains (v.1, v.2.1) then
      let (k, s) := s.chooseNat
      (s, if natBit k 0 then vs else v :: vs)
    else (s, v :: vs)

/-! ### The context of an issue -/

/-- What a meaning sees of the issue for one home warp: the instruction, the member quads, their address, the active lanes, the lanes
whose rows a pour may use (the guard holds: 10 R228), the
lanes where it takes effect, whether the guard holds in some real lane of the gang, the registers as read, the values and
flags of the poured operands, the columns that they were rounded from with their rounding codes, and for a shadow what its leading warp issued (11 R243). -/
structure Ctx where
  op     : Op
  x      : Fields
  form   : Form
  core   : Nat
  gang   : Nat
  warp   : Warp
  quads  : List Nat
  pc     : BitVec 55
  len    : Nat
  active : LaneMask
  rows   : LaneMask
  lanes  : LaneMask
  any    : Bool
  regs   : Regs
  poured : List (Nat × List Res)
  columns : List (Nat × List (Column × Nat))
  trail  : Option Trail
deriving DecidableEq, Repr

def Ctx.ty (c : Ctx) : Nat := c.x.t.toNat
def Ctx.next (c : Ctx) : BitVec 55 := c.pc + BitVec.ofNat 55 c.len

/-- The value of operand A, B or C in a lane, after any pour. -/
def Ctx.operand (c : Ctx) (k : Nat) (f : SForm) (o : Operand) (lane : Nat) : Nat :=
  match c.poured.find? (fun p => p.1 == k) with
  | some p => (p.2.getD lane (0, 0)).1
  | none => formOperand c.regs c.x f o lane
def Ctx.a (c : Ctx) (lane : Nat) : Nat := c.operand 0 c.form.a c.x.a lane
def Ctx.b (c : Ctx) (lane : Nat) : Nat := c.operand 1 c.form.b c.x.b lane
def Ctx.c (c : Ctx) (lane : Nat) : Nat := c.operand 2 c.form.c c.x.c lane

/-- The value of the D register of a lane before the instruction. -/
def Ctx.d (c : Ctx) (n lane : Nat) : Nat := c.regs.vecs c.x.d.toNat lane n

/-- Random bits of element `i`. -/
def Ctx.random (c : Ctx) (lane i : Nat) : Nat := randomBits c.regs c.x c.form lane i

/-- The rounding code after DYN (09 R201). -/
def Ctx.rmode (c : Ctx) : Nat := if c.x.rm == 6 then c.warp.rnd else c.x.rm.toNat

/-- The lanes that take part and are not helper lanes, and the lowest of them. -/
def Ctx.real (c : Ctx) : LaneMask := c.lanes &&& ~~~c.warp.helper
def Ctx.leader (c : Ctx) : Option Nat := lowestLane c.real

/-- Everything in one state: what the gang's home warps are, in slot order, with the guard rule of per-warp effects (12 R267). -/
def guardMask (w : Warp) (g : Guard) : LaneMask :=
  let m := w.regs.predMask g.pred.toNat
  if g.neg then ~~~m else m

/-- The outcome of the checks and of the effect for one home warp: it went on or waits, it traps, it consumed an uncorrectable error (11 R248: UNIT, INDEX and
the real lanes), an address holds no memory, or it is a shadow out of step with its leading warp (R246). -/
inductive Done where
  | ok (s : State)
  | trap (s : State) (uid : Nat) (t : Trap)
  | consumed (s : State) (unit index : Nat) (mask : LaneMask)
  | absent
  | differ (s : State)
deriving DecidableEq, Repr

/-! ### The checks of Table 12-3 -/

/-- Row 6: `tret` outside a handler, and `csrw` to a register that programs do not write (18 R387, 15 Table 15-8). -/
def privilegeFault (w : Warp) (o : Op) (x : Fields) : Bool :=
  match o with
  | .tret => !w.inTrap
  | .csrw =>
    let n := bitField x.e 0 12
    (0x10 ≤ n && n ≤ 0x1B) || n == 0x20 || n == 0x21 || n == 0x50 || n == 0x60
  | _ => false

/-- The type that a poured operand is compared with (10 R227, 15 R313, 16 R337). -/
def comparedType (o : Op) (x : Fields) (k : Nat) : Nat :=
  match o with
  | .icvt | .fcvt => styp x
  | .quant => 3
  | .fscale => if k == 1 then 1 else x.t.toNat
  | _ => x.t.toNat

/-- What the checks of rows 4 and 5 take from a warp. -/
def Warp.checkEnv (w : Warp) (x : Fields) : CheckEnv :=
  { nreg := w.nreg, nureg := w.nureg, sr := some (w.rnd == 5),
    pourRnd := some ((pouredOperands x).any (fun p => match w.slotOf p.2.1 with | some b => b.record.needsRandom w.rnd | none => false)) }

/-- The first of rows 4 to 7 that fails: cause and TINFO. -/
def earlyFault (w : Warp) (qs : List Nat) (o : Op) (x : Fields) : Option (Nat × Nat) :=
  let f := o.form x
  match formCheck (w.checkEnv x) o x with
  | some (.field check field) => some (0x02, encInfo check field)
  | some .unassigned => some (0x01, encInfo 2 0)
  | none =>
    if privilegeFault w o x then some (0x03, 0)
    else if w.stallChk || w.cast then
      match stallInfo w qs (readRegs w o x f ++ writeRegs o x f) with
      | some i => some (0x07, i)
      | none => none
    else none

/-- Row 8, with the random bits that a pour cannot be given (12 R266: FIELD 11), and a poured store whose form cannot take one
(19 R403: cause 0x0A, REASON 3). -/
def moldFault (w : Warp) (o : Op) (x : Fields) : Option (Nat × Nat) :=
  let f := o.form x
  match pourFault w x (comparedType o x) with
  | some r => some r
  | none =>
    let store := o == .stb || o == .std || o == .stk
    if store && x.c.mold != 0 && (bitField x.e 0 2 != 0 || bitAt x.e 3) then
      some (0x0A, moldInfo 3 255 2 x.c.mold.toNat)
    else
      let bits := (pouredOperands x).any (fun p => match w.slotOf p.2.1 with | some b => b.record.needsRandom w.rnd | none => false)
      let given := match f.rnd with | .c => x.len.toNat ≥ 2 | .e => true | .none => false
      if bits && !given then some (0x02, encInfo 8 11) else none

/-! ### Uncorrectable errors (11 R248) -/

/-- The lanes in which a sparse binding of the instruction reads its bitmap register (10 R233). -/
def bitmapLanes (w : Warp) (x : Fields) (reg : Nat) : LaneMask :=
  (pouredOperands x).foldl
    (fun m p =>
      match w.slotOf p.2.1 with
      | some b => if b.record.sparse && b.record.bmreg.toNat == reg then
          m ||| maskOf (fun l => decide (b.record.sel.toNat ≤ l ∧ l < b.record.sel.toNat + b.record.rows / 32)) else m
      | none => m)
    0

/-- An instruction that reads a register of lanes other than the one it writes (18 R390 to R392, 15 R327). -/
def readsAcross (o : Op) : Bool :=
  match o with
  | .vote | .ballot | .qswz | .qbcast | .qvote | .bperm | .lanes | .elect => true
  | _ => false

/-- The lanes of an issue that consume an error: the lane that reads it, for the guard every active one, or every lane where the instruction takes effect for
a uniform register, a bitmap register and an exchange between lanes. -/
def Ctx.errorLanes (c : Ctx) (rs : List (RegKind × Nat)) (e : RegError) : LaneMask :=
  let one (m : LaneMask) : LaneMask := if m.getLsbD e.lane then BitVec.ofNat 32 (2 ^ e.lane) else 0
  if !rs.contains (e.kind, e.reg) then 0
  else match e.kind with
    | .uni => c.lanes
    | .pred => if e.reg == c.x.guard.pred.toNat then one c.active else if readsAcross c.op && c.active.getLsbD e.lane then c.lanes else one c.lanes
    | .vec => if (bitmapLanes c.warp c.x e.reg).getLsbD e.lane || (readsAcross c.op && c.active.getLsbD e.lane) then c.lanes else one c.lanes

/-- UNIT of an error (11 Table 11-3). -/
def RegError.unit (e : RegError) : Nat := match e.kind with | .vec => 0 | .uni => 1 | .pred => 2

/-- The error that the real lanes of an issue consume, in a register or in a bank that it pours from: UNIT, INDEX and those lanes; and the helper lanes
that consume one, which is ignored (05 R116). -/
def Ctx.consumes (s : State) (c : Ctx) (env : PourEnv) (rs : List (RegKind × Nat)) : Option (Nat × Nat × LaneMask) × LaneMask :=
  let found := c.warp.errors.map (fun e => (e.unit, e.reg, c.errorLanes rs e))
    ++ (pouredOperands c.x).filterMap (fun p => (c.warp.slotOf p.2.1).bind (fun b => (s.badBank env b).map (fun bank => (3, bank, c.lanes))))
  ((found.find? (fun f => f.2.2 &&& ~~~c.warp.helper != 0)).map (fun f => (f.1, f.2.1, f.2.2 &&& ~~~c.warp.helper)),
   found.foldl (fun m f => m ||| f.2.2) 0 &&& c.warp.helper)

/-! ### Poured operands -/

/-- The environment of the pours of an issue. -/
def Ctx.pourEnv (c : Ctx) : PourEnv :=
  { core := c.core, regs := c.regs, real := c.rows &&& ~~~c.warp.helper,
    packed := c.quads.filter (fun q => (c.warp.quad q).packed), rnd := c.warp.rnd }

/-- The columns of a pour with RES f32 or i32 in the lanes where the instruction takes effect, each with the rounding code taken at issue. -/
def pourColumns (s : State) (c : Ctx) (b : Binding) (reg : Nat) : List (Column × Nat) :=
  lanes32.map (fun n => (if c.lanes.getLsbD n then columnAt s c.pourEnv b reg n else columnOf 3 [], b.record.rmode c.warp.rnd))

/-- What a pour delivers of its columns, each rounded once (10 R228, R229). -/
def Ctx.delivered (c : Ctx) (b : Binding) (cols : List (Column × Nat)) : List Res :=
  lanes32.map (fun n =>
    match cols[n]? with
    | none => (0, 0)
    | some (col, mode) =>
      if !c.lanes.getLsbD n then (0, 0)
      else if b.record.rf == 1 then col.roundI32 b.record.satb 0
      else col.roundF32 b.record { mode, rb := c.random n 0, sat := .no, ftz := false } none)

/-- The column predicate masks lanes of the destination, and no row (10 R228). -/
def pourLanes (c : Ctx) : LaneMask :=
  (pouredOperands c.x).foldl
    (fun m p => match c.warp.slotOf p.2.1 with | some b => m &&& c.regs.predMask b.record.colPred | none => m)
    c.lanes

/-- The accumulator bytes of a pour's columns (10 R234: 80 bytes for each), and back. -/
def accEncode (cols : List (Column × Nat)) : Memory :=
  (List.range 32).foldl (fun m n => match cols[n]? with | some (c, mode) => m.setBytes (80 * n) (c.encode mode) | none => m) []
def accDecode (m : Memory) : List (Column × Nat) := (List.range 32).map (fun n => Column.decode (m.bytes (80 * n) 80))

/-- The pours of an issue. Dense pours are delivered at once. A sparse pour fixes its columns at its issue and performs one step at a time; the instruction
goes on with the last, with what the accumulators hold (10 R233, R234, 17 R374). -/
inductive Pours where
  | done (vals : List (Nat × List Res)) (cols : List (Nat × List (Column × Nat))) (step : StepState)
  | more (step : StepState)
deriving DecidableEq, Repr

def pourOperands (s : State) (c : Ctx) : Pours :=
  (pouredOperands c.x).foldl
    (fun acc p =>
      match acc, c.warp.slotOf p.2.1 with
      | .done vals cols step, some b =>
        if b.record.rf == 15 then
          .done (vals ++ [(p.1, lanes32.map (fun n => if c.lanes.getLsbD n then pourLane s c.pourEnv b (c.random n 0) p.2.2 n else (0, 0)))]) cols step
        else if !b.record.sparse then
          let l := pourColumns s c b p.2.2
          .done (vals ++ [(p.1, c.delivered b l)]) (cols ++ [(p.1, l)]) step
        else
          let step :=
            if step.active && step.slot == p.2.1 && step.opnd == p.1 then step
            else { active := true, slot := p.2.1, opnd := p.1, total := pourSteps c.pourEnv b, done := 0, acc := accEncode (pourColumns s c b p.2.2) }
          if step.done + 1 < step.total then .more ({ step with done := step.done + 1 }.ownedBy c.quads)
          else
            let l := accDecode step.acc
            .done (vals ++ [(p.1, c.delivered b l)]) (cols ++ [(p.1, l)]) step.idle
      | acc, _ => acc)
    (.done [] [] c.warp.mstep)

/-! ### The advance after an instruction -/

/-- Quads at the address after the instruction. -/
def advanceQuads (w : Warp) (qs : List Nat) (len : Nat) : Warp :=
  w.onQuads qs (fun q => { q with path := { q.path with pc := q.path.pc + BitVec.ofNat 55 len } })

/-- STALL counted and results owed (12 R269, R271). -/
def chargeQuads (w : Warp) (qs : List Nat) (clk stall lat : Nat) (rs : List (RegKind × Nat)) (before : Regs) : Warp :=
  qs.foldl (fun w q => w.onQuad q (fun x => { Quad.pay x q (1 + stall) lat rs before with readyAt := clk + 1 + stall })) w

/-- The instruction waits to issue again in the next clock. -/
def stall (s : State) (c : Ctx) : Done :=
  let clk := (s.coreOf c.core).clk
  .ok (s.onWarp c.warp.uid (fun w => w.onQuads c.quads (fun q => { q with readyAt := clk + 1 })))

/-- Instructions that clear REGION.VALID as they issue, their effect beginning there (11 R241). An `atom`, `red` or `tflag` clears it when its accesses
are released or performed. -/
def clearsRegion (o : Op) : Bool :=
  o.opc ≥ 0xA0 || match o with
    | .malloc | .mfree | .barInit | .barArrive | .barWait | .barSync | .barSyncSpec | .barDebt => true
    | _ => false

/-- The flags of the pours of the real lanes, and of the I word widened (12 R263, 09 R209). -/
def Ctx.pourFlags (c : Ctx) : Nat :=
  let imm := match c.form.b with
    | .reg 2 _ _ _ _ true _ => if c.x.b.isImm && c.real != 0 then (wideImmRes c.x.t.toNat true c.x.i).2 else 0
    | _ => 0
  c.poured.foldl (fun g p => (laneList c.real).foldl (fun g l => g ||| (p.2.getD l (0, 0)).2) g) imm

/-- The state of a warp after an instruction of its quads that did not trap: what it wrote is in `s`. The flags of its pours are ORed into
WSTAT (10 R229). -/
def finishWarp (s : State) (c : Ctx) (advance : Bool) : State :=
  let clk := (s.coreOf c.core).clk
  s.onWarp c.warp.uid (fun w =>
    let w := if advance then advanceQuads w c.quads c.len else w
    let w := chargeQuads w c.quads clk c.x.stall.toNat (latency c.warp c.op c.x) (writeRegs c.op c.x c.form) c.warp.regs
    let w := { w with
      offered := false, wstat := w.wstat ||| BitVec.ofNat 32 c.pourFlags, retired := w.retired + 1, pours := w.pours + BitVec.ofNat 64 (pouredOperands c.x).length }
    if clearsRegion c.op && c.any then w.clearRegion else w)

/-! ### The frame of an issue -/

/-- Zero in every register that an instruction writes, in some lanes: what a helper lane receives where its fault or error is ignored (05 R116). -/
def Ctx.zeroRegs (c : Ctx) (lanes : LaneMask) (r : Regs) : Regs :=
  (writeRegs c.op c.x c.form).foldl (fun r k => if k.1 == .uni then r else (laneList lanes).foldl (fun r l => r.write k.1 k.2 l 0) r) r
def Ctx.zeroed (c : Ctx) (lanes : LaneMask) (w : Warp) : Warp := if lanes == 0 then w else { w with regs := c.zeroRegs lanes w.regs }

/-- The trap that rows 1 to 8 raise in the lanes of a mask. Where they are all helper lanes nothing happens but the advance (12 R268), and for row 8 the zero
that their destination receives (05 R116). -/
def checkTrap (s : State) (c : Ctx) (mask zero : LaneMask) (cause info : Nat) : Done :=
  let m := mask &&& ~~~c.warp.helper
  if m == 0 then
    .ok (s.onWarp c.warp.uid (fun w =>
      c.zeroed zero (chargeQuads (advanceQuads w c.quads c.len) c.quads (s.coreOf c.core).clk c.x.stall.toNat 0 [] w.regs)))
  else .trap s c.warp.uid (Trap.of cause m c.pc.toNat none (if cause == 0x03 then none else some info))

/-- The context of an issue before its operands are read. -/
def baseCtx (o : Op) (x : Fields) (core gang : Nat) (w : Warp) (anyReal : Bool) : Ctx :=
  let qs := w.members gang
  let active := w.activeOf qs
  { op := o, x, form := o.form x, core, gang, warp := w, quads := qs, pc := (w.quad (qs.headD 0)).path.pc,
    len := 4 * (x.len.toNat + 1), active, rows := active &&& guardMask w x.guard, lanes := active &&& guardMask w x.guard,
    any := anyReal, regs := w.regs, poured := [], columns := [], trail := none }

/-- What comes before the effect of an instruction in one home warp: its outcome when a check fails or a sparse pour takes another
step, else the state and the context for the effect, and the helper lanes that receive zero. -/
inductive Prep where
  | out (d : Done)
  | ready (s : State) (c : Ctx) (voided : LaneMask)
deriving DecidableEq, Repr

/-- The checks of rows 4 to 8, errors in what the instruction reads, the registers as it sees them, and its pours. -/
def prepare (s : State) (c : Ctx) : Prep :=
  let w := c.warp
  match earlyFault w c.quads c.op c.x with
  | some (cause, info) => .out (checkTrap s c c.active 0 cause info)
  | none =>
    match moldFault w c.op c.x with
    | some (cause, info) => .out (checkTrap s c c.lanes c.lanes cause info)
    | none =>
      let rs := readRegs w c.op c.x c.form
      match c.consumes s c.pourEnv rs with
      | (some (unit, index, mask), _) => .out (.consumed s unit index mask)
      | (none, voided) =>
        let (s, regs) := earlyView s w c.quads rs w.regs
        let c := { c with regs, lanes := c.lanes &&& ~~~voided }
        match pourOperands s c with
        | .more step =>
          let clk := (s.coreOf c.core).clk
          .out (.ok (s.onWarp w.uid (fun w =>
            { w with mstep := step, steps := w.steps + 1 }.onQuads c.quads (fun q => { q with readyAt := clk + 1 }))))
        | .done vals cols step =>
          .ready (s.onWarp w.uid (fun w => { w with mstep := step })) { c with lanes := pourLanes c, poured := vals, columns := cols } voided

/-- The banks that the pours of an instruction read. -/
def Ctx.pouredBanks (c : Ctx) : BitVec 64 :=
  (pouredOperands c.x).foldl
    (fun m p => match c.warp.slotOf p.2.1 with | some b => b.record.bankList.foldl (fun m k => m ||| BitVec.ofNat 64 (2 ^ k)) m | none => m) 0

/-- The entry of an instruction in the trail of a leading warp (11 R243). -/
def Ctx.entry (c : Ctx) : Trail :=
  { quads := quadSet c.quads, others := c.any && c.real == 0, seq := 0, compared := none, released := false, value := none,
    exits := c.op == .exit, bar := false, trap := none, banks := c.pouredBanks }

/-- A warp has issued an instruction: it has retired one, or its quads have gone on. -/
def Warp.wentOn (v w : Warp) : Bool :=
  v.rcount == w.rcount && (v.retired != w.retired || v.quads.map (fun q => q.path) != w.quads.map (fun q => q.path))

/-- Quads of an issue that go on where others of it trap are for the shadow to issue first (11 R247). -/
def State.noteRest (s : State) (c : Ctx) (qs : List Nat) : State :=
  if qs == [] || !c.warp.paired || c.trail.isSome then s
  else s.onWarp c.warp.uid (fun w => { w with trail := w.trail ++ [{ c.entry with quads := quadSet qs }] })

/-- An instruction that a leading warp issued and that has entered nothing in its trail is for its shadow to issue too (11 R243). -/
def State.noteTrail (s : State) (c : Ctx) : State :=
  s.onWarp c.warp.uid (fun w => if w.wentOn c.warp && w.trail.length == c.warp.trail.length then { w with trail := w.trail ++ [c.entry] } else w)

def State.noteIssue (s : State) (c : Ctx) : State := if c.warp.paired && c.trail.isNone then s.noteTrail c else s

/-- One home warp: what comes before the effect, and the effect. -/
def issueWarp (effect : State → Ctx → Done) (s : State) (c : Ctx) : Done :=
  match prepare s c with
  | .out (.ok s) => .ok (s.noteIssue c)
  | .out d => d
  | .ready s c' voided =>
    match effect s c' with
    | .ok s => .ok ((if voided == 0 then s else s.onWarp c.warp.uid (c.zeroed voided)).noteIssue c')
    | d => d

/-- Every home warp of the gang in turn, `s0` being the state before the first. A trap in one of several undoes what the others did in
this issue: they issue again as gangs of their own (05 R123). -/
def issueHomes (effect : State → Ctx → Done) (o : Op) (x : Fields) (core gang : Nat) (anyReal alone : Bool) (s0 : State) :
    List Warp → State → Done
  | [], s => .ok s
  | w :: ws, s =>
    match s.warpOf w.uid with
    | none => issueHomes effect o x core gang anyReal alone s0 ws s
    | some w' =>
      let c := baseCtx o x core gang w' anyReal
      match issueWarp effect s c with
      | .ok s' => issueHomes effect o x core gang anyReal alone s0 ws s'
      | .consumed s' unit index mask =>
        issueHomes effect o x core gang anyReal alone s0 ws (s'.restartOrTrap w.uid false 0x0E unit index mask c.pc)
      | .absent => .absent
      | .differ s' => .differ s'
      | .trap s' uid t =>
        if alone then .trap s' uid t
        else match issueWarp effect s0 (baseCtx o x core gang w anyReal) with
          | .trap s' uid t => .trap s' uid t
          | _ => .trap s0 uid t

/-- The outcome of an instruction. -/
abbrev Out := Host.Outcome State Fault Refusal

/-- The guard rule of per-warp effects (12 R267): the guard holds in some real active lane of the gang. -/
def anyReal (x : Fields) (gang : Nat) (ws : List Warp) : Bool :=
  ws.any (fun w => (w.activeOf (w.members gang) &&& guardMask w x.guard &&& ~~~w.helper) != 0)

/-! ### The issue of a shadow (11 R243 to R247) -/

/-- The trail of a leading warp once its shadow has reached an entry: that entry and those before it are gone. -/
def popThrough (p : Trail → Bool) (l : List Trail) : List Trail := if l.any p then (l.dropWhile (fun h => !p h)).drop 1 else l

/-- A shadow that raises a trap: the same one as its leading warp at the same boundary, or a mismatch (11 R247). It waits while its leading warp has reached
nothing that must be in step. -/
def State.shadowTraps (s : State) (uid : Nat) (t : Trap) : State :=
  match s.warpOf uid with
  | none => s
  | some w =>
    match w.trail.find? Trail.keyed with
    | none => s
    | some h =>
      match h.trap with
      | some u =>
        if u.cause == t.cause && u.mask == t.mask && u.addr == t.addr then
          ((s.onWarp uid (fun w => { w with trail := popThrough (fun h => h.trap.isSome) w.trail })).onShadow uid (fun v => { v with trapWait := some t })).settleTrap uid
        else s.mismatch uid h.quads
      | none => s.mismatch uid h.quads

/-- The issue of an instruction by a shadow, in the state in which it stands where its leading warp does. What the effect compares or takes it finds in the
trail of its leading warp; an instruction that does neither takes one plain entry out of it. -/
def State.issueShadow (effect : State → Ctx → Done) (o : Op) (x : Fields) (s : State) (cur : Issuing) : Out :=
  match s.shadows.find? (fun v => v.core == cur.core && v.slot == cur.slot) with
  | none => .next s
  | some v =>
    match s.warpOf v.uid with
    | none => .next s
    | some w =>
      match w.trail with
      | [] => .next s
      | h :: _ =>
        let c := baseCtx o x cur.core cur.gang v true
        match issueWarp effect s.mirror { c with any := h.others || c.real != 0, trail := some h } with
        | .ok m =>
          let s' := m.mirror
          let same := match s'.warpOf v.uid with | some w' => w'.trail == w.trail | none => false
          let went := match s'.shadowOf v.uid with | some v' => v'.wentOn v | none => false
          .next (if same && went && h.plain then s'.onWarp v.uid (fun w => { w with trail := w.trail.drop 1 }) else s')
        | .trap m uid t => .next (m.mirror.shadowTraps uid t)
        | .consumed m unit index mask => .next (m.mirror.restartOrTrap v.uid true 0x0E unit index mask c.pc)
        | .absent => .fault .noSuchAddress
        | .differ m => .next (m.mirror.mismatch v.uid h.quads)

/-- The issue of an instruction by the chosen gang. A trap dissolves a packed gang (05 R123). -/
def issue (effect : State → Ctx → Done) (o : Op) (x : Fields) (s : State) : Out :=
  match s.cur with
  | none => .fault .noGang
  | some cur =>
    if hiddenSlot ≤ cur.slot then s.issueShadow effect o x cur
    else
      let ws := s.gangWarps cur.core cur.gang
      match issueHomes effect o x cur.core cur.gang (anyReal x cur.gang ws) (ws.length == 1) s ws s with
      | .ok s' => .next (s'.partGang cur.core cur.gang)
      | .absent => .fault .noSuchAddress
      | .trap s' uid t => .next ((s'.dissolve cur.core cur.gang).takeTrap uid t)
      | .consumed s' _ _ _ => .next s'
      | .differ s' => .next s'

/-! ### What a shadow compares and takes -/

/-- What identifies an instruction that is compared: opcode, F, T and E, which holds scope and layout mode (11 R245). -/
def Ctx.digest (c : Ctx) (l : List Nat) : List Nat := [c.op.opc, c.x.f.toNat, c.x.t.toNat, c.x.e.toNat, c.real.toNat] ++ l

/-- The trail of the leading warp changed, by its shadow: the shadow stands among the warps. -/
def State.onTrail (s : State) (uid : Nat) (f : List Trail → List Trail) : State := s.onShadow uid (fun w => { w with trail := f w.trail })

/-- A register written anew carries no error (11 R248). -/
def Warp.soundRegs (w : Warp) (lanes : LaneMask) (rs : List (RegKind × Nat)) : Warp :=
  { w with errors := w.errors.filter (fun e => !(rs.contains (e.kind, e.reg) && (e.kind == .uni || lanes.getLsbD e.lane))) }

/-- A slot bound or unbound; the step state of a pour through it is cleared (17 R366). -/
def Warp.setSlot (w : Warp) (n : Nat) (b : Option Binding) : Warp :=
  { w with
    slots := modifyAt (fun _ => b) (n - 1) w.slots,
    mstep := if w.mstep.active && w.mstep.slot == n then w.mstep.idle else w.mstep }

/-- A result taken from the load-value queue (11 R244): its words go to the registers that the shadow's own instruction writes, in its lanes. -/
def Ctx.takes (c : Ctx) (v : LoadValue) (w : Warp) : Warp :=
  let put (r : Regs) : Regs := v.words.foldl
    (fun r p =>
      match c.form.d with
      | .uni _ _ => r.setUni (c.x.d.toNat + p.1) p.2.2
      | _ => if c.lanes.getLsbD p.2.1 then r.setVec (if c.x.d == 255 then 255 else c.x.d.toNat + p.1) p.2.1 p.2.2 else r) r
  let w := v.slots.foldl (fun w p => if w.slotOf p.1 == none && p.2 == none then w else w.setSlot p.1 p.2) w
  Warp.soundRegs { w with regs := put w.regs, mstep := v.step.getD w.mstep } c.lanes (writeRegs c.op c.x c.form)

/-- A shadow takes the result of its instruction, in order, or waits for it. -/
def takeValue (s : State) (c : Ctx) : Done :=
  match (s.shadowOf c.warp.uid).bind (fun w => (w.trail.find? (fun h => h.value.isSome)).bind (fun h => h.value)) with
  | none => stall s c
  | some v =>
    if !v.ready then stall s c
    else .ok (((finishWarp s c true).onWarp c.warp.uid (c.takes v)).onTrail c.warp.uid (dropFirst (fun h => h.value.isSome)))

/-- A shadow reaches a compared operation: it offers it, and goes on once it has been compared and released, with the result if it has one. -/
def offerOp (valued : Bool) (digest : List Nat) (s : State) (c : Ctx) : Done :=
  let released := match (s.shadowOf c.warp.uid).bind (fun w => w.trail.find? Trail.keyed) with | some h => h.released && h.compared.isSome | none => false
  if !released then stall (s.onWarp c.warp.uid (fun v => { v with offer := some digest })) c
  else if valued then takeValue s c
  else .ok ((finishWarp s c true).onTrail c.warp.uid (popThrough Trail.keyed))

/-- An entry put into the trail of a leading warp. -/
def State.pushTrail (s : State) (uid : Nat) (h : Trail) : State := s.onWarp uid (fun w => { w with trail := w.trail ++ [h] })

/-- A result that has not arrived. -/
def LoadValue.pending : LoadValue := { ready := false, words := [], slots := [], step := none }

/-- What an instruction has written to its registers, for its shadow. -/
def Ctx.written (c : Ctx) (w : Warp) : LoadValue :=
  { ready := true, slots := [], step := none,
    words := ((writeRegs c.op c.x c.form).zip (List.range (writeRegs c.op c.x c.form).length)).flatMap (fun (p : (RegKind × Nat) × Nat) =>
      match p.1.1 with
      | .vec => (laneList c.lanes).map (fun l => (p.2, l, w.regs.vec p.1.2 l))
      | .uni => [(p.2, 0, w.regs.uni p.1.2)]
      | .pred => []) }

/-- The load-value queue, or the store-compare buffer, of a warp is full (11 R244, R245). -/
def Warp.queueFull (w : Warp) : Bool := decide (64 ≤ w.queued)
def Warp.bufferFull (w : Warp) : Bool := decide (32 ≤ w.buffered)

/-- The result of a compared operation, which came after its issue. -/
def Warp.fillCompared (opc : Nat) (words : List (Nat × Nat × Word)) (w : Warp) : Warp :=
  let mine (h : Trail) : Bool := (match h.compared with | some (k :: _) => k == opc | _ => false) && h.value.any (fun v => !v.ready)
  { w with trail := changeFirst mine (fun h => { h with value := h.value.map (fun v => { v with ready := true, words }) }) w.trail }

/-- An instruction whose result reaches the shadow through the load-value queue, complete at its issue (11 R244). -/
def valueEffect (effect : State → Ctx → Done) (s : State) (c : Ctx) : Done :=
  match c.trail with
  | some _ => takeValue s c
  | none =>
    if !c.warp.paired then effect s c
    else if c.warp.queueFull then stall s c
    else
      match effect s c with
      | .ok s' =>
        .ok (s'.onWarp c.warp.uid (fun w => if w.wentOn c.warp then { w with trail := w.trail ++ [{ c.entry with value := some (c.written w) }] } else w))
      | d => d

/-- A compared operation that is performed at its issue, or waits there (11 R245): the leading warp holds its gang until the shadow's has matched and then
performs it. A trap that it raises then is given to both, since the operations agreed. `valued` is set where it has a result, `later` where the result comes after
the issue. -/
def comparedEffect (valued later : Bool) (read : State → Ctx → List Nat) (effect : State → Ctx → Done) (s : State) (c : Ctx) : Done :=
  let key := quadSet c.quads
  let mine (h : Trail) : Bool := h.quads == key && h.compared.isSome
  match c.trail with
  | some _ => offerOp valued (c.digest (read s c)) s c
  | none =>
    if !c.warp.paired then effect s c
    else if c.warp.agreed.contains key then
      match effect s c with
      | .ok s' =>
        .ok (s'.onWarp c.warp.uid (fun w =>
          if !w.wentOn c.warp then w
          else
            { w with
              agreed := w.agreed.filter (· != key),
              trail := if valued && !later then changeFirst mine (fun h => { h with value := some (c.written w) }) w.trail else w.trail }))
      | .trap s' uid t =>
        .trap (s'.onWarp uid (fun w => { w with trapGiven := true, agreed := w.agreed.filter (· != key), trail := dropFirst mine w.trail })) uid t
      | d => d
    else if c.warp.trail.any mine || c.warp.bufferFull || (valued && c.warp.queueFull) then stall s c
    else
      stall (s.pushTrail c.warp.uid { c.entry with compared := some (c.digest (read s c)), value := if valued then some LoadValue.pending else none }) c

/-! ### Effects lane by lane -/

/-- What an instruction writes in one lane: vector registers, predicates and flags. -/
structure LaneOut where
  vecs  : List (Nat × Word) := []
  preds : List (Nat × Bool) := []
  flags : Nat := 0
deriving DecidableEq, Repr

/-- `n` 32-bit words of a number, to consecutive registers. -/
def wordsTo (reg v : Nat) : Nat → List (Nat × Word)
  | 0 => []
  | n + 1 => (reg, BitVec.ofNat 32 v) :: wordsTo (reg + 1) (v / 2 ^ 32) n

/-- A result to the D registers of the form, the lowest register least significant. -/
def Ctx.toD (c : Ctx) (v : Nat) (flags : Nat := 0) : LaneOut := { vecs := wordsTo c.x.d.toNat v c.form.d.vecs, flags }

/-- A predicate result to D. -/
def Ctx.toP (c : Ctx) (v : Bool) (flags : Nat := 0) : LaneOut :=
  { preds := match c.form.d with | .pred => [(c.x.d.toNat % 8, v)] | _ => [], flags }

/-- One lane's results written. -/
def Regs.applyLane (r : Regs) (lane : Nat) (o : LaneOut) : Regs :=
  let r := o.vecs.foldl (fun r v => r.setVec v.1 lane v.2) r
  o.preds.foldl (fun r p => r.setPred p.1 lane p.2) r

/-- The results of every lane of a mask written. -/
def Regs.applyLanes (r : Regs) (lanes : LaneMask) (f : Nat → LaneOut) : Regs :=
  (laneList lanes).foldl (fun r l => r.applyLane l (f l)) r

/-- The flags of the real lanes ORed. -/
def flagsOf (lanes : LaneMask) (f : Nat → LaneOut) : Nat := (laneList lanes).foldl (fun g l => g ||| (f l).flags) 0

/-- New registers of a warp after an instruction, with the uncertainty of a write that came too early (12 R271). -/
def settleRegs (s : State) (c : Ctx) (new : Regs) : State × Regs := earlyWrite s c.warp c.quads (writeRegs c.op c.x c.form) c.warp.regs new

/-- An instruction that acts lane by lane: `f` gives what it writes in a lane where it takes effect. -/
def laneEffect (f : Ctx → Nat → LaneOut) (s : State) (c : Ctx) : Done :=
  let new := c.warp.regs.applyLanes c.lanes (f c)
  let flags := flagsOf c.real (f c)
  let (s, new) := settleRegs s c new
  let s := s.onWarp c.warp.uid (fun w => (Warp.orFlags { w with regs := new } flags).soundRegs c.lanes (writeRegs c.op c.x c.form))
  .ok (finishWarp s c true)

/-- An instruction that acts lane by lane, as a step of the machine. -/
def perLane (o : Op) (f : Ctx → Nat → LaneOut) (x : Fields) (s : State) : Out := issue (laneEffect f) o x s

/-! ### Per-warp effects -/

/-- A per-warp effect (12 R267): nothing but the advance when the guard holds in no real lane of the gang. -/
def warpEffect (f : State → Ctx → Done) (s : State) (c : Ctx) : Done := if c.any then f s c else .ok (finishWarp s c true)

/-- A uniform register run written; what it held of errors is gone (11 R248). -/
def Warp.setUnis (w : Warp) (reg v n : Nat) : Warp :=
  { w with
    regs := (wordsTo reg v n).foldl (fun r p => r.setUni p.1 p.2) w.regs,
    errors := w.errors.filter (fun e => !(e.kind == .uni && decide (reg ≤ e.reg ∧ e.reg < reg + n))) }

/-- A uniform register run written by an instruction of some quads, with the uncertainty of a write that came too early (12 R271). -/
def State.putUnis (s : State) (w : Warp) (qs : List Nat) (reg v n : Nat) : State :=
  let (s, new) := earlyWrite s w qs ((List.range n).map (fun i => (RegKind.uni, reg + i))) w.regs (w.setUnis reg v n).regs
  s.onWarp w.uid (fun x => { x.setUnis reg v n with regs := new })
def State.putResult (s : State) (c : Ctx) (v n : Nat) : State := s.putUnis c.warp c.quads c.x.d.toNat v n

/-- A per-warp result of `n` uniform registers: `f` gives it in a lane, and the lowest lane that takes part and is not a helper lane
supplies it (12 R267); a home warp without such a lane writes nothing. -/
def uniformEffect (n : Nat) (f : Ctx → Nat → Nat) (s : State) (c : Ctx) : Done :=
  let write (c : Ctx) (r : Regs) : Regs :=
    match c.leader with
    | some l => (wordsTo c.x.d.toNat (f c l) n).foldl (fun r p => r.setUni p.1 p.2) r
    | none => r
  let (s, new) := settleRegs s c (write c c.warp.regs)
  let s := s.onWarp c.warp.uid (fun w => Warp.soundRegs { w with regs := new } c.lanes (writeRegs c.op c.x c.form))
  .ok (finishWarp s c true)

/-- A trap of an instruction in some lanes; helper lanes raise none (05 R116). -/
def laneTrap (s : State) (c : Ctx) (mask : LaneMask) (cause : Nat) (addr info : Option Nat) : Done :=
  let m := mask &&& ~~~c.warp.helper
  if m == 0 then .ok (finishWarp s c true)
  else if cause == 0 then .absent
  else .trap s c.warp.uid (Trap.of cause m c.pc.toNat addr info)

end Sys2Proof.Machine
end

