-- ==== Sys2Proof/Machine/Order.lean ====
section
/-!
DEFINITION. The order of a warp's accesses (07 R149 to R154) and the places of offsets in block memory, in a scratchpad window and in a
warp stack (05 R120; 06 R126, R127, R139, R467; 04 R88).
-/
namespace Sys2Proof.Machine

/-! ### Order -/

/-- The scopes widen in this order (07 Table 7-2). -/
def Scope.rank : Scope → Nat | .blk => 0 | .clu => 1 | .dev => 2 | .sys => 3

/-- The code of a scope in an E field (19 Table 19-2). -/
def scopeOf (n : Nat) : Scope := match n with | 0 => .blk | 1 => .clu | 2 => .dev | _ => .sys

/-- The least scope that covers an access (07 Table 7-2). -/
def Access.rank (a : Access) : Nat :=
  match a.space with
  | .blk | .stack => 0
  | .spad => 1
  | .dev => if a.remote.isSome then 3 else 2

/-- An access lies in a scope. -/
def Access.within (a : Access) (sc : Scope) : Bool := a.rank ≤ sc.rank

/-- Two accesses touch an overlapping byte. -/
def Access.meets (a b : Access) : Bool :=
  a.space == b.space && a.parts.any (fun p => b.parts.any (fun q => overlap p.addr p.bytes q.addr q.bytes))

/-- A tile flag waits for the earlier accesses that overlap its tile (07 R158). -/
def Access.tileMeets (x y : Access) : Bool :=
  match y.tile with
  | some (space, base, len) => x.space == space && x.parts.any (fun p => overlap p.name p.bytes base len)
  | none => false

/-- An earlier access or fence `x` is ordered before a later one `y` of the same warp (07 R151). A fence orders by standing between:
the accesses of its scope before it come before it, and those after it come after it. -/
def Access.before (x y : Access) : Bool :=
  decide (x.seq < y.seq) &&
  match x.kind, y.kind with
  | .fence _, .fence _ => false
  | .fence sc, _ => y.within sc
  | _, .fence sc => x.within sc
  | _, _ =>
    x.meets y
      || (match x.acq with | some sc => y.within sc | none => false)
      || (match y.rel with | some sc => x.within sc | none => false)
      || x.tileMeets y
      || (match x.joined with | some j => decide (j ≤ y.seq) | none => false)
      || (match x.ended with | some j => decide (j ≤ y.seq) && x.quad == y.quad | none => false)

/-- A parked `wait` still reads in a scope. -/
def Waiting.within (x : Waiting) (sc : Scope) : Bool :=
  x.lanes.any (fun l =>
    (match l.space with | .blk | .stack => 0 | .spad => 1 | .dev => if l.remote.isSome then 3 else 2) ≤ sc.rank)

/-- An access that the machine may perform now: nothing earlier of the warp is ordered before it, it is not held, no wait with an
acquire that covers it is still reading, and no `fence.tick` before it is open (07 R150, R151, R156; 19 R415). In cast mode the lanes of one
instruction that meet go in ascending order (R170). -/
def Warp.mayPerform (w : Warp) (a : Access) : Bool :=
  !a.held && !w.pending.any (fun x => x.before a)
    && !w.waits.any (fun x => decide (x.seq < a.seq) && match x.acq with | some sc => a.within sc | none => false)
    && !(match w.tick with | some t => decide (t.seq < a.seq) | none => false)
    && !(w.cast && w.pending.any (fun x => x.seq == a.seq && decide (x.lane < a.lane) && x.meets a))

/-- It may, the operations in the channels included: a tile flag waits until the earlier `.sys` accesses that overlap its tile are complete (07 R158). -/
def State.mayPerform (s : State) (w : Warp) (a : Access) : Bool :=
  w.mayPerform a && !s.channels.any (fun o => o.warp == w.uid && decide (o.access.seq < a.seq) && o.access.tileMeets a)

/-- Fences that nothing earlier is ordered before leave the pending list (19 R407: a fence is complete at issue). -/
def Warp.tidy (w : Warp) : Warp :=
  { w with
    pending := w.pending.filter (fun y =>
      match y.kind with
      | .fence sc => w.pending.any (fun x => x.before y) || w.waits.any (fun x => decide (x.seq < y.seq) && x.within sc)
      | _ => true) }

/-! ### Offsets -/

/-- Layout modes (06 R139): the physical offset of a named offset. -/
def layoutSkew (m : Nat) : Nat := match m with | 1 => 1 | 2 => 3 | 3 => 5 | _ => 0
def layoutOf (o m : Nat) : Nat := o - natField o 4 3 * 16 + (natField o 4 3 + layoutSkew m * natField o 7 3) % 8 * 16

/-- The key of a block-memory offset of a block: block core o[20:18], its placement base, and o[17:0] (05 R120, 06 R467). -/
def Block.key (b : Block) (o : Nat) : Nat := b.cores.getD (o / 262144) 0 * 262144 + b.bases.getD (o / 262144) 0 + o % 262144

/-- A block that holds nothing, where the state names none. -/
def Block.empty : Block :=
  { uid := 0, die := 0, task := 0, stage := 0, index := 0, cores := [], bases := [], bmem := 0, saveSlot := 0, lcore := 0, nwarp := 0,
    tags := [], banks := [], leaving := false }
def State.blockAt (s : State) (uid : Nat) : Block := (s.blockOf uid).getD Block.empty

/-- `n` bytes from a block-memory offset lie within the block's memory (05 R120). -/
def Block.holds (b : Block) (o n : Nat) : Bool := o < 2 ^ 21 && o + n ≤ b.bmem

/-- The barrier tag of the word at an offset (06 R138). -/
def Block.tagged (b : Block) (o : Nat) : Bool := Cells.get false b.tags (o / 8)

/-- The first tagged word that `n` bytes touch. -/
def Block.tagIn (b : Block) (o n : Nat) : Option Nat :=
  ((List.range ((o + n - 1) / 8 - o / 8 + 1)).find? (fun i => b.tagged (o + 8 * i))).map (fun i => (o / 8 + i) * 8)

/-- The scratchpad window of a context on a die: its first byte on the die and its length in bytes (03 R44, 06 R126). -/
def State.window (s : State) (ctx die : Nat) : Nat × Nat :=
  match s.partOfCtx ctx with
  | some p => let (base, len) := p.desc.spad.getD die (0, 0); (base * 2 ^ 20, len * 2 ^ 20)
  | none => (0, 0)

/-- The key of a scratchpad offset. -/
def spadKey (die base o : Nat) : Nat := die * 2 ^ 26 + base + o

/-- The descriptor of a block's stage. -/
def State.stageOf (s : State) (b : Block) : Option StageDesc :=
  match s.taskOf b.die b.task with
  | some t => t.rec'.stages[b.stage]?
  | none => none

/-- The stack region of a warp: its device address and length (04 R88). -/
def State.stackOf (s : State) (w : Warp) : Nat × Nat :=
  match s.blockOf w.block with
  | some b =>
    match s.stageOf b with
    | some d => (d.stackBase + (b.saveSlot * b.nwarp + w.wid) * d.stackLen, d.stackLen)
    | none => (0, 0)
  | none => (0, 0)

/-! ### Save slots (04 R77, R96) -/

/-- Threads, warps and blocks of a stage, its warps on each core, and the size of a save slot (R77, R78, R96). -/
def StageDesc.threads (d : StageDesc) : Nat := d.bx * d.by' * d.bz
def StageDesc.nwarp (d : StageDesc) : Nat := ceilDiv d.threads 32
def StageDesc.blocks (d : StageDesc) : Nat := d.gx * d.gy * d.gz
def StageDesc.perCore (d : StageDesc) (paired : Bool) : Nat := ceilDiv d.nwarp (max 1 d.cores) * (if paired then 2 else 1)
def StageDesc.slotSize (d : StageDesc) : Nat := 256 + 528384 * d.cores + 37248 * d.nwarp

/-- The bytes of a save area, and where the slots of a stage begin. -/
def slotsBefore (ds : List StageDesc) : Nat := ds.foldl (fun n d => n + d.slots * d.slotSize) 0
def TaskRec.saveSize (r : TaskRec) : Nat := slotsBefore r.stages
def TaskRec.slotBase (r : TaskRec) (stage slot : Nat) : Nat :=
  r.save + slotsBefore (r.stages.take stage) + slot * (match r.stages[stage]? with | some d => d.slotSize | none => 0)

/-- The address of a save slot. -/
def State.slotAddr (s : State) (die task stage slot : Nat) : Nat :=
  match s.taskOf die task with | some t => t.rec'.slotBase stage slot | none => 0

end Sys2Proof.Machine
end

