-- ==== Sys2Proof/Machine/Blocks.lean ====
section
/-!
DEFINITION. What happens to warps as wholes: barrier words (19 R409 to R413), the end of a speculation (07 R164), the end of a warp and
of a block (18 R383, 04 R81), packing windows (05 R110, R111), and the settling of a warp after a quad parked or died.
-/
namespace Sys2Proof.Machine

/-! ### Barrier words (19 Table 19-4) -/

/-- The fields of a barrier word; DEBT modulo 2^28. -/
structure BarWord where
  gen     : Nat
  quota   : Nat
  arrived : Nat
  debt    : Nat
deriving DecidableEq, Repr

def BarWord.ofNat (v : Nat) : BarWord :=
  { gen := natField v 48 16, quota := natField v 38 10, arrived := natField v 28 10, debt := natField v 0 28 }
def BarWord.toNat (b : BarWord) : Nat :=
  b.gen % 2 ^ 16 * 2 ^ 48 + b.quota % 2 ^ 10 * 2 ^ 38 + b.arrived % 2 ^ 10 * 2 ^ 28 + b.debt % 2 ^ 28

/-- A word that an update leaves with all arrivals and no debt completes its phase in the same write (19 R409). -/
def BarWord.close (b : BarWord) : BarWord :=
  if b.arrived == b.quota && b.debt == 0 then { b with gen := (b.gen + 1) % 2 ^ 16, arrived := 0 } else b

/-- The contiguous runs of a granule's valid bytes as parts: a whole word where all its bytes are valid, else single bytes. -/
def Granule.parts (g : Granule) : List Part :=
  [0, 1, 2, 3, 4, 5, 6, 7].flatMap (fun w =>
    let part (i n : Nat) : Part := { addr := g.base + i, bytes := n, data := BitVec.ofNat 64 (g.bytes.read i n), name := g.base + i, laid := 0 }
    if [0, 1, 2, 3].all (fun i => g.valid.getLsbD (4 * w + i)) then [part (4 * w) 4]
    else ([0, 1, 2, 3].filter (fun i => g.valid.getLsbD (4 * w + i))).map (fun i => part (4 * w + i) 1))

/-- A store that enters the pending list from the overrun buffer, ordered before every later access of the warp and not among the others (07 R164). -/
def Granule.access (g : Granule) (seq : Nat) (pc : BitVec 55) (quad : Nat) : Access :=
  { seq, pc, quad, lane := 4 * quad, blame := BitVec.ofNat 32 (2 ^ (4 * quad)), depth := 0, joined := some (seq + 1), ended := none, acq := none, rel := none, space := g.space,
    kind := .store, parts := g.parts, remote := none, tile := none, held := false, holds := false, helper := false }

/-- The buffered stores of a warp as pending accesses. -/
def drainBuffer (pc : BitVec 55) (quad : Nat) (gs : List Granule) (seq : Nat) : List Access := gs.map (fun g => g.access seq pc quad)

/-- The valid bytes of a granule laid over a memory. -/
def Granule.overlay (g : Granule) (m : Memory) : Memory :=
  (List.range 32).foldl (fun m i => if g.valid.getLsbD i then m.setByte (g.base + i) (g.bytes.byte i) else m) m

/-- Buffered stack stores reach the stack cache, which holds their lines since they were issued. -/
def Warp.stackGranules (w : Warp) (gs : List Granule) : Warp :=
  gs.foldl
    (fun w g => { w with cache := g.overlay w.cache, dirty := if w.dirty.contains (g.base / 128) then w.dirty else w.dirty ++ [g.base / 128] })
    w

/-- The speculation of a warp ends with its phase: its stores become pending (07 R164), those to the stack in the stack cache (06 R128). -/
def Warp.commit (w : Warp) (seq : Nat) : Warp :=
  match w.spec with
  | none => w
  | some x =>
    let q := w.aliveQuads.headD 0
    let w := w.stackGranules (x.buffer.filter (fun g => g.space == .stack))
    { w with
      spec := none,
      pending := w.pending ++ drainBuffer (w.quad q).path.pc q (x.buffer.filter (fun g => g.space != .stack)) seq }

/-- A warp sees the generation of a barrier word of its block (19 R412, 04 R95). -/
def Warp.seeGen (word gen clk seq : Nat) (w : Warp) : Warp :=
  let w := match w.spec with
    | some x => if x.word == word && x.gen.toNat != gen then w.commit seq else w
    | none => w
  match w.barrier with
  | some x =>
    if x.word == word && x.gen.toNat != gen then
      { w with
        barrier := none,
        quads := w.quads.map (fun q => if q.park == .barrier then { q with park := .running, readyAt := clk } else q) }
    else w
  | none => w

/-- Every warp of a block, and its shadow, sees a word's generation. -/
def State.showGen (s : State) (block word gen : Nat) : State :=
  let (k, s) := s.newUid
  let see (w : Warp) : Warp := if w.block == block && !w.ended then w.seeGen word gen (s.coreOf w.core).clk k else w
  { s with warps := s.warps.map see, shadows := s.shadows.map see }

/-- A barrier word read, and an update of it written in one bank write (19 R409): the word before, or TINFO of cause 0x0D. -/
def State.updateBar (s : State) (b : Block) (o : Nat) (f : BarWord → BarWord) : State × Except Nat BarWord :=
  match s.readSpace .block (b.key o) 9 8 with
  | (s, .error i) => (s, .error i)
  | (s, .ok v) =>
    let old := BarWord.ofNat v
    let new := (f old).close
    match s.storeBank .block (b.key o) 8 new.toNat none with
    | (s, some i) => (s, .error i)
    | (s, none) => (if new.gen == old.gen then s else s.showGen b.uid o new.gen, .ok old)

/-- A route-1 arrival (08 R182, 19 R412): it pays DEBT, and has no effect on an untagged word. -/
def State.payDebt (s : State) (b : Block) (o n : Nat) : State :=
  if b.tagged o then (s.updateBar b o (fun w => { w with debt := (w.debt + 2 ^ 28 - n % 2 ^ 28) % 2 ^ 28 })).1 else s

/-! ### The stack cache (06 R127) -/

/-- A warp's line written back to its region. A write-back that the page tables refuse drops the line and kills the context. -/
def State.writeBackLine (s : State) (uid line : Nat) : State :=
  match s.warpOf uid with
  | none => s
  | some w =>
    let drop (w : Warp) : Warp :=
      { w with
        lines := w.lines.filter (· != line), dirty := w.dirty.filter (· != line), badLines := w.badLines.filter (· != line),
        cache := w.cache.zero (lineBytes * line) lineBytes }
    let s' := s.putWarp (drop w)
    if !w.dirty.contains line then s'
    else
      let va := (s.stackOf w).1 + lineBytes * line
      match s'.translate w.core w.ctx va .w with
      | (s', .error (cause, info)) =>
        if cause == 0 then s'
        else
          (s'.logCtx w.ctx { ErrorRecord.ofKind 7 with
            cause := 6, core := s'.coreNumber w.core, die := coreDie w.core, taddr := BitVec.ofNat 64 va, tinfo := BitVec.ofNat 64 info }).killContext w.ctx
      | (s', .ok key) => s'.writeDev key (w.cache.bytes (lineBytes * line) lineBytes) (some uid)

/-- Every line of a warp written back. -/
def State.writeBackAll (s : State) (uid : Nat) : State :=
  match s.warpOf uid with
  | none => s
  | some w => w.lines.foldl (fun s l => s.writeBackLine uid l) s

/-- A line that the overrun buffer of a warp holds bytes of stays in the cache. -/
def Warp.pins (w : Warp) (line : Nat) : Bool :=
  match w.spec with | some x => x.buffer.any (fun g => g.space == .stack && g.base / lineBytes == line) | none => false

/-- Room for one more line among the 512 of a core (R127): a full cache writes back a line that nothing holds and that is not among those to keep, of the device's choice. -/
def State.roomForLine (s : State) (uid core : Nat) (keep : List Nat) : State :=
  let held := (s.residents core).flatMap (fun w => w.lines.map (fun l => (w, l)))
  let free := held.filter (fun p => !p.1.pins p.2 && !(p.1.uid == uid && keep.contains p.2))
  if held.length < 512 || free == [] then s
  else
    let (k, s) := s.chooseNat
    match free[k % free.length]? with
    | some p => s.writeBackLine p.1.uid p.2
    | none => s

/-! ### The end of a block (04 R81, R83, R87) -/

/-- A consuming block's flag is emptied and its tile counted as consumed (04 R83 step 4). -/
def State.releaseTile (s : State) (b : Block) : State :=
  match s.taskOf b.die b.task, s.stageOf b with
  | some t, some d =>
    if b.stage == 0 then s
    else
      let (base, _) := s.window t.ctx b.die
      let q := spadKey b.die base d.queue
      match s.readSpace .spad (q + 4) 5 4 with
      | (s, .error _) => s
      | (s, .ok depth) =>
        match s.readSpace .spad (q + 16) 9 8 with
        | (s, .error _) => s
        | (s, .ok flags) =>
          let s := match s.translate (b.cores.headD 0) t.ctx (flags + 8 * (b.index % max depth 1)) .w with
            | (s, .ok key) => s.storeDev key 8 0 none
            | (s, .error _) => s
          match s.readSpace .spad (q + 32) 9 8 with
          | (s, .error _) => s
          | (s, .ok n) => (s.storeBank .spad (q + 32) 8 (n + 1) none).1
  | _, _ => s

/-- STATE in the header of a block's save slot (04 Table 4-7): 0 free, 1 resident, 2 saved. -/
def State.setSlotState (s : State) (die task stage slot v : Nat) : State :=
  match s.taskOf die task with
  | none => s
  | some t =>
    match s.translate (112 * die) t.ctx (s.slotAddr die task stage slot + 4) .w with
    | (s, .ok key) => s.storeDev key 4 v none
    | (s, .error _) => s

/-- A block completes: it is counted, its slot, cores and memory are free, and its slot's STATE says so (04 R81, R87, Table 4-7). Its last `exit` retired in this heartbeat
(R100). -/
def State.completeBlock (s : State) (uid : Nat) : State :=
  match s.blockOf uid with
  | none => s
  | some b =>
    let s := (s.releaseTile b).setSlotState b.die b.task b.stage b.saveSlot 0
    let s := match s.taskOf b.die b.task with | some t => s.noteWork t.ctx | none => s
    let s := s.onTask b.die b.task (fun t =>
      { t with
        stages := modifyAt (fun g => { g with done := g.done + 1, slots := g.slots.filter (fun x => x.1 != b.saveSlot) }) b.stage t.stages })
    { s with
      warps := s.warps.filter (fun w => w.block != uid), shadows := s.shadows.filter (fun w => w.block != uid), blocks := s.blocks.filter (fun x => x.uid != uid),
      cores := s.cores.map (fun c =>
        { c with
          windows := c.windows.filter (fun w => w.block != uid),
          shapes := c.shapes.filter (fun r => r.block != some uid),
          idleSince := if b.cores.contains c.id then s.hb else c.idleSince }) }

/-- A block whose warps have all ended and whose accesses have all been performed completes. -/
def State.settleBlock (s : State) (uid : Nat) : State :=
  let ws := s.warps.filter (fun w => w.block == uid)
  if ws != [] && ws.all (fun w => w.ended && w.trail == [] && w.pending == [] && !s.channels.any (fun o => o.warp == w.uid)) then s.completeBlock uid else s

/-- A warp whose quads have all died ends: its lines are written back first (06 R127, 18 R383). Its shadow has reached the same end (11 R246). -/
def State.endWarp (s : State) (uid : Nat) : State :=
  match s.warpOf uid with
  | none => s
  | some w =>
    if w.ended || w.aliveQuads != [] || w.trail != [] then s
    else
      let s := s.writeBackAll uid
      let s := s.onWarp uid (fun w => { w with ended := true, waits := [], scored := [], barrier := none, spec := none })
      s.settleBlock w.block

/-! ### Packing windows (05 R110, R111) -/

/-- A quad parked in a window: its target, slot, number and warp. -/
structure Packed where
  pc   : Nat
  slot : Nat
  quad : Nat
  warp : Nat
deriving DecidableEq, Repr

/-- The order of R111: by target, then slot, then number. -/
def Packed.lt (a b : Packed) : Bool :=
  a.pc < b.pc || (a.pc == b.pc && (a.slot < b.slot || (a.slot == b.slot && a.quad < b.quad)))
def insertPacked (p : Packed) : List Packed → List Packed
  | [] => [p]
  | q :: qs => if p.lt q then p :: q :: qs else q :: insertPacked p qs

/-- A gang being formed: its number, target and the slot indices it holds. -/
structure Forming where
  gang  : Nat
  pc    : Nat
  quads : List Nat
deriving DecidableEq, Repr

/-- A quad joins the first gang of its target that holds no quad of its index, else starts one; `k` is the fresh identifier of the gangs of this window. -/
def joinGang (k : Nat) (p : Packed) : List Forming → List Forming × Nat
  | [] => ([{ gang := gangId k (8 * p.slot + p.quad), pc := p.pc, quads := [p.quad] }], gangId k (8 * p.slot + p.quad))
  | g :: gs =>
    if g.pc == p.pc && !g.quads.contains p.quad then ({ g with quads := g.quads ++ [p.quad] } :: gs, g.gang)
    else let (gs', n) := joinGang k p gs; (g :: gs', n)

/-- The warps of a window: those of its block on its core. -/
def State.windowWarps (s : State) (core block : Nat) : List Warp := (s.residents core).filter (fun w => w.block == block)

/-- The quads parked in a window, in order. -/
def State.windowQuads (s : State) (core block : Nat) (pc : BitVec 55) : List Packed :=
  ((s.windowWarps core block).flatMap (fun w =>
    (w.aliveQuads.filter (fun q => (w.quad q).park == .packing pc)).map (fun q =>
      { pc := (w.quad q).path.pc.toNat, slot := w.slot, quad := q, warp := w.uid }))).foldl (fun l p => insertPacked p l) []

/-- A window closes: its parked quads form gangs (05 R111) and are packed (R112). -/
def State.closeWindow (s : State) (core block : Nat) (pc : BitVec 55) : State :=
  let ps := s.windowQuads core block pc
  let (k, s) := s.newUid
  let s := (ps.foldl
    (fun (acc : State × List Forming) p =>
      let (gs, n) := joinGang k p acc.2
      (acc.1.onWarp p.warp (fun w => w.onQuad p.quad (fun q => { q with gang := n, packed := true, park := .running })), gs))
    (s, [])).1
  s.onCore core (fun c => { c with windows := c.windows.filter (fun w => !(w.block == block && w.pc == pc)) })

/-- A window in which every living quad of the block's warps on the core is parked closes. -/
def State.settleWindows (s : State) (core : Nat) : State :=
  (s.coreOf core).windows.foldl
    (fun s win =>
      let parked := (s.windowQuads core win.block win.pc).length
      let living := ((s.windowWarps core win.block).flatMap (fun w => w.aliveQuads)).length
      if parked != 0 && parked == living then s.closeWindow core win.block win.pc else s)
    s

/-! ### `bar` (19 R411, R412) -/

/-- The operands of a `bar` in one register allocation: the offset and B. -/
def barOperands (x : Fields) (r : Regs) (lane : Nat) : Nat × Nat :=
  ((if x.a.uni then (r.uni x.a.reg.toNat).toNat else (r.vec x.a.reg.toNat lane).toNat), plainOperand r x x.b 1 lane)

/-- A `bar` that a warp performs or traps at is behind it in the trail of a paired warp. -/
def Warp.passBar (qs : List Nat) (w : Warp) : Warp := { w with trail := dropFirst (fun h => h.bar) w.trail, agreed := w.agreed.filter (· != quadSet qs) }

/-- A trap that a `bar` takes: its quads stop parking first. A shadow stands at the same `bar`. -/
def State.barTrap (s : State) (w : Warp) (qs : List Nat) (t : Trap) : State :=
  ((s.putWarp ((w.passBar qs).onQuads qs (fun q => { q with park := .running }))).onShadow w.uid (fun v =>
    v.onQuads qs (fun q => { q with park := .running }))).takeTrapOf true w.uid t

/-- The parked quads of a `bar` go on as one gang, formed with the fresh identifier `k`, at the next instruction, or park at the barrier. -/
def Warp.barGo (qs : List Nat) (o : Op) (x : Fields) (park : Option AtBarrier) (clk k : Nat) (w : Warp) : Warp :=
  let w' := advanceQuads (w.passBar qs) qs (4 * (x.len.toNat + 1))
  let w' := w'.onQuads qs (fun q => { q with park := if park.isSome then .barrier else .running, gang := gangId k (qs.headD 0) })
  let w' := chargeQuads w' qs clk x.stall.toNat (latency w o x) (writeRegs o x (o.form x)) w.regs
  { w' with barrier := park, retired := w'.retired + 1, offered := false }

/-- They go on, and so do those of the shadow. -/
def State.barGo (s : State) (uid : Nat) (qs : List Nat) (o : Op) (x : Fields) (park : Option AtBarrier) : State :=
  let clk := match s.warpOf uid with | some w => (s.coreOf w.core).clk | none => 0
  let (k, s) := s.newUid
  (s.onWarp uid (Warp.barGo qs o x park clk k)).onShadow uid (Warp.barGo qs o x park clk k)

/-- What an arrival does after it is counted: the token before, and whether the phase is over. -/
def State.barArrive (s : State) (b : Block) (off : Nat) : State × Except Nat (Nat × Bool) :=
  match s.updateBar b off (fun v => { v with arrived := v.arrived + 1 }) with
  | (s, .error i) => (s, .error i)
  | (s, .ok old) => (s, .ok (old.gen, BarWord.close { old with arrived := old.arrived + 1 } != { old with arrived := old.arrived + 1 }))

/-- A `bar` performed by a warp whose counted quads are all parked at it. -/
def State.performBar (s : State) (w : Warp) (qs : List Nat) (o : Op) (x : Fields) : State :=
  let lanes := w.activeOf qs &&& guardMask w x.guard &&& ~~~w.helper
  let pc := (w.quad (qs.headD 0)).path.pc
  match lowestLane lanes, s.blockOf w.block with
  | some lane, some b =>
    let (off, n) := barOperands x w.regs lane
    let trap (cause : Nat) (addr info : Option Nat) : State := s.barTrap w qs (Trap.of cause lanes pc.toNat addr info)
    let mark (w : Warp) : Warp := if o == Op.barSyncSpec && w.paired then
        { w with region := regionAt (pc + BitVec.ofNat 55 (4 * (x.len.toNat + 1))) true }
      else w.clearRegion
    if o == Op.barInit && n > 1023 then trap 0x02 none (encInfo 9 7)
    else if !b.holds off 8 then trap 0x05 (if off ≥ 2 ^ 21 then off else max off b.bmem) none
    else if off % 8 != 0 then trap 0x04 off none
    else
      let bankFault (s : State) (i : Nat) : State := s.barTrap w qs (Trap.of 0x0D lanes pc.toNat off i)
      match s.readSpace .block (b.key off) 9 8 with
      | (s, .error i) => bankFault s i
      | (s, .ok v) =>
        let word := BarWord.ofNat v
        let field6 := s.barTrap w qs (Trap.of 0x02 lanes pc.toNat none (encInfo 9 6))
        let s' := (s.onWarp w.uid mark).onShadow w.uid mark
        match o with
        | .barInit =>
          let idle := word.arrived == 0 && word.debt == 0
            && !s.warps.any (fun v => v.block == w.block && (match v.barrier with | some p => p.word == off | none => false))
          if b.tagged off && !idle then trap 0x08 off (some 0)
          else
            match s'.storeBank .block (b.key off) 8 (BarWord.toNat { gen := 0, quota := n, arrived := 0, debt := 0 }) none with
            | (s, some i) => bankFault s i
            | (s, none) =>
              (s.onBlock b.uid (fun b => { b with tags := Cells.put false b.tags (off / 8) (n != 0) })).barGo w.uid qs o x none
        | .barWait =>
          if !b.tagged off then field6
          else if word.gen != n % 2 ^ 16 then s'.barGo w.uid qs o x none
          else s'.barGo w.uid qs o x (some { word := off, gen := BitVec.ofNat 16 n })
        | .barDebt =>
          let d := signed 28 word.debt + (n : Int)
          if !b.tagged off || d ≥ 2 ^ 27 then field6
          else
            match s'.updateBar b off (fun v => { v with debt := (v.debt + n) % 2 ^ 28 }) with
            | (s, .error i) => bankFault s i
            | (s, .ok _) => s.barGo w.uid qs o x none
        | _ =>
          if !b.tagged off || word.arrived == word.quota then field6
          else
            match s'.barArrive b off with
            | (s, .error i) => bankFault s i
            | (s, .ok (gen, done)) =>
              match o with
              | .barArrive =>
                ((s.barGo w.uid qs o x none).putUnis w qs x.d.toNat gen 1).onShadow w.uid (fun v => v.setUnis x.d.toNat gen 1)
              | .barSync => s.barGo w.uid qs o x (if done then none else some { word := off, gen := BitVec.ofNat 16 gen })
              | _ =>
                let s := s.barGo w.uid qs o x none
                if done then s
                else
                  let (k, s) := s.newUid
                  let start (w : Warp) : Warp :=
                    { w with
                      spec := some
                        { word := off, gen := BitVec.ofNat 16 gen, paths := w.quads.map (fun (q : Quad) => q.path), buffer := [], reads := [],
                          wstat := w.wstat, since := k } }
                  (s.onWarp w.uid start).onShadow w.uid start
  | _, _ => s.barGo w.uid qs o x none

/-- The operation and fields of an instruction; `nop` for an event. -/
def instrParts (i : Instr) : Op × Fields :=
  match i.opFields with
  | some p => p
  | none => (.nop, { len := 0, f := 0, d := 0, guard := ⟨false, 7⟩, stall := 0, rm := 0, t := 0, a := ⟨false, 0, 0⟩, b := ⟨false, 0, 0⟩,
                     c := ⟨false, 0, 0⟩, e := 0, i := 0 })

/-- The instruction of a quad parked at a `bar`. -/
def Quad.barOf (q : Quad) : Option Instr := match q.park with | .bar i => some i | _ => none

/-- The access that a `bar` makes to its word, in the order of its warp: an arrival is a release at `.blk` (07 R155). -/
def Warp.barAccess (w : Warp) (b : Block) (qs : List Nat) (o : Op) (x : Fields) (seq : Nat) : Access :=
  let q := qs.headD 0
  let lane := (lowestLane (w.activeOf qs &&& guardMask w x.guard &&& ~~~w.helper)).getD 0
  let off := (barOperands x w.regs lane).1
  { seq, pc := (w.quad q).path.pc, quad := q, lane, blame := 0, depth := 0, joined := none, ended := none, acq := none,
    rel := if o == .barArrive || o == .barSync || o == .barSyncSpec then some .blk else none, space := .blk, kind := .store,
    parts := [{ addr := b.key off, bytes := 8, data := 0, name := off, laid := 0 }], remote := none, tile := none, held := false, holds := false,
    helper := false }

/-- What is compared of a `bar` that the counted quads of a warp are parked at (11 R245): where each stands and at which form, and of one that they all
stand at its lanes and operands; `bar.wait` is not compared. -/
def Warp.barDigest (w : Warp) (qs : List Nat) : List Nat :=
  qs.flatMap (fun q =>
    match (w.quad q).barOf with
    | none => []
    | some i =>
      let (o, x) := instrParts i
      let lanes := w.activeOf qs &&& guardMask w x.guard &&& ~~~w.helper
      let operands := match lowestLane lanes with
        | some l => if o == .barWait then [] else let r := barOperands x w.regs l; [lanes.toNat, r.1, r.2]
        | none => []
      (w.quad q).path.pc.toNat :: o.opc :: x.f.toNat :: operands)

/-- The entry of a `bar` in the trail of a leading warp. -/
def Warp.barEntry (w : Warp) (qs : List Nat) : Trail :=
  { quads := quadSet qs, others := false, seq := 0, compared := some (w.barDigest qs), released := false, value := none, exits := false, bar := true,
    trap := none, banks := 0 }

/-- A warp whose counted quads are all parked at a `bar` performs it once what is ordered before it has been performed (19 R411, 07 R151, R155); quads
parked at different addresses raise cause 0x02. In paired mode the two warps reach it together and it is compared first (11 R245, 19 R413). -/
def State.settleBar (s : State) (uid : Nat) : State :=
  match s.warpOf uid with
  | none => s
  | some w =>
    let qs := w.counted
    if qs == [] || !qs.all (fun p => (w.quad p).barOf.isSome) then s
    else if w.hidden then s.onWarp uid (fun v => { v with offer := some (v.barDigest qs) })
    else if w.paired && !w.agreed.contains (quadSet qs) then
      if w.trail.any (fun h => h.bar) || w.bufferFull then s else s.pushTrail uid (w.barEntry qs)
    else
      let q := qs.headD 0
      match (w.quad q).barOf with
      | none => s
      | some i =>
        if qs.all (fun p => (w.quad p).path.pc == (w.quad q).path.pc) then
          let (o, x) := instrParts i
          if s.mayPerform w (w.barAccess (s.blockAt w.block) qs o x s.uids) then s.performBar w qs o x else s
        else
          let lanes := quadMask (w.quad q).path.active q &&& ~~~w.helper
          s.barTrap w qs (Trap.of 0x02 lanes (w.quad q).path.pc.toNat none (encInfo 9 0))

/-! ### Settling -/

/-- Everything that the parking or death of a quad, or the completion of an access, may complete for a warp; a shadow offers what it has reached. -/
def State.settle (s : State) (uid : Nat) : State :=
  let (k, s) := s.newUid
  let s := (s.onWarp uid (fun w => w.settleRgang k)).settleBar uid
  if (s.warpOf uid).any Warp.hidden then s
  else
    let s := s.settleTrap uid
    let s := match s.warpOf uid with
      | some w => (if w.aliveQuads == [] then s.endWarp uid else s).settleWindows w.core
      | none => s
    match s.warpOf uid with
    | some w => if w.ended then s.settleBlock w.block else s
    | none => s

end Sys2Proof.Machine
end

