-- ==== Sys2Proof/Machine/Barriers.lean ====
section
/-!
DEFINITION. Block barriers: opcode 0x88 (19 R409 to R413). The quads of the gang park at the instruction; the warp performs it once, when
every counted quad has parked at it (R411).
-/
namespace Sys2Proof.Machine

/-- The quads of the gang park at their `bar`. -/
def barEffect (s : State) (c : Ctx) : Done :=
  .ok ((s.onWarp c.warp.uid (fun w => w.onQuads c.quads (fun q => { q with park := .bar (c.op.instr c.x) }))).settle c.warp.uid)

/-- BAR_INIT. -/
def execBarInit (x : Fields) (s : State) : Out := issue barEffect .barInit x s

/-- BAR_ARRIVE. -/
def execBarArrive (x : Fields) (s : State) : Out := issue barEffect .barArrive x s

/-- BAR_WAIT. -/
def execBarWait (x : Fields) (s : State) : Out := issue barEffect .barWait x s

/-- BAR_SYNC. -/
def execBarSync (x : Fields) (s : State) : Out := issue barEffect .barSync x s

/-- BAR_SYNC_SPEC (07 R162). -/
def execBarSyncSpec (x : Fields) (s : State) : Out := issue barEffect .barSyncSpec x s

/-- BAR_DEBT. -/
def execBarDebt (x : Fields) (s : State) : Out := issue barEffect .barDebt x s

end Sys2Proof.Machine
end

