-- ==== Sys2Proof/Machine/Clock.lean ====
section
/-!
DEFINITION. One clock of a sequencer: which gang issues (05 R108 to R111), or which shadow (11 R243), what it fetches (12 R273 to R275) and what it decodes
(12 R268 rows 1 to 5).
-/
namespace Sys2Proof.Machine

/-! ### Fetching -/

/-- A word in the instruction cache of a core. -/
def Core.cached (c : Core) (ctx pc : Nat) : Option Word := (c.icache.find? (fun l => l.1 == ctx && l.2.1 == pc)).map (fun l => l.2.2)

/-- The word that the instruction cache gives: a word cached and written since is fetched as old or new (12 R275). -/
def State.cachedWord (s : State) (core ctx pc : Nat) (now : Word) : State × Word :=
  match (s.coreOf core).cached ctx pc with
  | some old =>
    if old == now then (s, now)
    else
      let (k, s) := s.chooseNat
      if natBit k 0 then (s, old)
      else (s.onCore core (fun c => { c with icache := c.icache.map (fun l => if l.1 == ctx && l.2.1 == pc then (ctx, pc, now) else l) }), now)
  | none => (s.onCore core (fun c => { c with icache := (ctx, pc, now) :: c.icache }), now)

/-- What a fetch gives: a word, a cause with its TINFO, or nothing yet, the word being of another package at a key (01 R19). -/
inductive Fetched where
  | word (w : Word)
  | bad (cause info : Nat)
  | later (pc key : Nat)
deriving DecidableEq, Repr

/-- The response to a fetch. -/
def State.answerTo (s : State) (who : Asker) : Option Answer := s.answers.find? (fun a => a.who == who)

/-- A word fetched (12 R274). A line that stays uncorrectable is never executed: it raises cause 0x0E with UNIT 5 and REASON 2 (11 R250). A word of another
package is asked for, and raises cause 0x1C where that fails. -/
def State.fetchWord (s : State) (core ctx pc : Nat) : State × Fetched :=
  if pc ≥ 2 ^ 55 then (s, .bad 0x06 (walkInfo 0 1))
  else match s.translate core ctx pc .x with
  | (s, .error e) => (s, .bad e.1 e.2)
  | (s, .ok key) =>
    match keyRemote key with
    | some _ =>
      match (s.coreOf core).cached ctx pc, s.answerTo (.fetch core ctx pc) with
      | some w, _ => (s, .word w)
      | none, some a => (s, .bad a.cause a.info)
      | none, none => (s, .later pc key)
    | none =>
      if s.lineBad key then (s, .bad 0x0E (5 * 2 ^ 28 + 2 * 2 ^ 24))
      else
        let (s, w) := s.cachedWord core ctx pc (BitVec.ofNat 32 (s.dev.read key 4))
        (s, .word w)

/-- The words after the head, as many as its LEN names; else the word that could not be fetched, with the address of it. -/
def State.fetchRest (s : State) (core ctx pc : Nat) : Nat → State × Except (Nat × Fetched) (List Word)
  | 0 => (s, .ok [])
  | n + 1 =>
    match s.fetchWord core ctx pc with
    | (s, .word w) =>
      match State.fetchRest s core ctx (pc + 4) n with
      | (s, .ok ws) => (s, .ok (w :: ws))
      | r => r
    | (s, e) => (s, .error (pc, e))

/-- Why rows 1 to 5 of Table 12-3 stop an instruction: cause, TADDR and TINFO, with the length known so far. -/
structure BadFetch where
  cause : Nat
  addr  : Option Nat
  info  : Option Nat
  len   : Nat
deriving DecidableEq, Repr

/-- An encoding refused by rows 4 and 5, for one warp: CHECK and the lowest FIELD that fails (13 R282). -/
def badCodeInfo (w : Warp) (o : Op) (x : Fields) (check field : Nat) : Nat :=
  match formCheck (w.checkEnv x) o x with
  | some (.field c f) => encInfo c f
  | _ => encInfo check field

/-- What rows 1 to 5 give: an instruction, a failed check, or a word still to come. -/
inductive Decoded where
  | ok (o : Op) (x : Fields)
  | bad (e : BadFetch)
  | later (pc key : Nat)
deriving DecidableEq, Repr

/-- An instruction fetched and decoded for a warp (12 R268 rows 1 to 5). -/
def State.fetchInstr (s : State) (core : Nat) (w : Warp) (pc : Nat) : State × Decoded :=
  match s.fetchWord core w.ctx pc with
  | (s, .bad cause info) => (s, .bad { cause, addr := pc, info, len := 4 })
  | (s, .later pc key) => (s, .later pc key)
  | (s, .word head) =>
    let len := 4 * (bitField head 0 2 + 1)
    match findOp (headOpc head) (bitField head 26 6) with
    | none => (s, .bad { cause := 0x01, addr := none, info := encInfo 2 0, len })
    | some o =>
      match s.fetchRest core w.ctx (pc + 4) (bitField head 0 2) with
      | (s, .error (addr, .bad cause info)) => (s, .bad { cause, addr, info, len })
      | (s, .error (_, .later pc key)) => (s, .later pc key)
      | (s, .error (_, .word _)) => (s, .bad { cause := 0x01, addr := none, info := encInfo 2 0, len })
      | (s, .ok rest) =>
        match decode staticEnv head rest with
        | .ok ox => (s, .ok ox.1 ox.2)
        | .error .unassigned => (s, .bad { cause := 0x01, addr := none, info := encInfo 2 0, len })
        | .error (.field check field) =>
          let ws := wordsOf head rest
          (s, .bad { cause := 0x02, addr := none, info := badCodeInfo w o (fieldsOf head ws.1 ws.2.1 ws.2.2) check field, len })

/-- The placeholder of an operation that is in no pending list (07 R149). -/
def Access.asked (who : Asker) (write : Bool) (parts : List Part) : Access :=
  { seq := 0, pc := 0, quad := 0, lane := 0, blame := 0, depth := 0, joined := none, ended := none, acq := none, rel := none, space := .dev,
    kind := .ask who write, parts, remote := none, tile := none, held := false, holds := false, helper := false }

/-- An operation that enters the channel to a package (07 R149). -/
def State.send (s : State) (uid warp : Nat) (a : Access) (pkg : BitVec 10) : State :=
  { s with channels := s.channels ++ [{ uid, warp, access := a, pkg, cls := 0, since := s.hb, inChannel := true, failed := none, reached := false }] }

/-! ### Shares of a port (03 R65) -/

/-- A request that waits for a port: the virtual device it belongs to, and its place in order of issue, in which requests arrive (DEDUCED: log 65). -/
structure PortRequest where
  vd  : Nat
  seq : Nat
deriving DecidableEq, Repr

/-- The partition of a device, and the weight that a partition has at a port (03 Table 3-1). -/
def PortRequest.pid (r : PortRequest) : Nat := r.vd / 16
def State.portWeight (s : State) (port pid : Nat) : Nat := match s.partOf pid with | some p => p.desc.ports.getD port 0 | none => 0

/-- A request of a context. -/
def State.request (s : State) (ctx seq : Nat) : PortRequest := { vd := match s.ctxOf ctx with | some c => c.vd | none => 0, seq }

/-- An element or a run of a command's access that has still to leave for a package. -/
def CmdAccess.leaves (a : CmdAccess) : Option (BitVec 10) :=
  if a.sent.isSome || a.space != .dev then none
  else keyRemote (match a.reads, a.write with | e :: _, _ => e.2.key | _, c :: _ => c.1 | _, _ => 0)

/-- The requests that wait for a port: accesses of warps that may be performed, and those of the commands that have begun. -/
def State.portRequests (s : State) (port : Nat) : List PortRequest :=
  let bound (pkg : Option (BitVec 10)) : Bool := match pkg with | some k => (match s.routeTo k 0 with | .ok p => p == port | .error _ => false) | none => false
  s.warps.flatMap (fun w => (w.pending.filter (fun a => bound a.remote && s.mayPerform w a)).map (fun a => s.request w.ctx a.seq))
  ++ s.cores.flatMap (fun c => c.sprues.flatMap (fun q => match q with
      | x :: _ => (x.works.filter (fun y => y.accs.any (fun a => bound a.leaves))).map (fun _ => s.request x.ctx x.uid)
      | [] => []))

/-- Every partition that waits with a weight has had its share of the round. -/
def State.roundOver (s : State) (port : Nat) (rs : List PortRequest) : Bool :=
  rs.all (fun r => decide (s.portWeight port r.pid ≤ Cells.get 0 (s.portOf port).served r.pid))

/-- A request may take a port now: within its partition it is the first of its device's turn, and its partition waits alone or has some of its share left in a round that
gives each partition as many requests as its weight. -/
def State.mayTake (s : State) (port : Nat) (r : PortRequest) : Bool :=
  let rs := s.portRequests port
  !rs.any (fun x => x.pid == r.pid && x.vd != r.vd && decide (x.seq < r.seq))
    && (rs.all (fun x => x.pid == r.pid)
      || (s.portWeight port r.pid != 0 && (decide (Cells.get 0 (s.portOf port).served r.pid < s.portWeight port r.pid) || s.roundOver port (r :: rs))))

/-- A port taken: what counts toward the share of the partition. -/
def State.take (s : State) (port : Nat) (r : PortRequest) : State :=
  let rs := s.portRequests port
  let p := s.portOf port
  if rs.all (fun x => x.pid == r.pid) then (if p.served == [] then s else s.putPort { p with served := [] })
  else
    let old := if s.roundOver port (r :: rs) then [] else p.served
    s.putPort { p with served := Cells.put 0 old r.pid (Cells.get 0 old r.pid + 1) }

/-! ### Asking another package (01 R19, R20) -/

/-- Who has asked and has no response yet. -/
def State.asking (s : State) (who : Asker) : Bool :=
  s.channels.any (fun o => match o.access.kind with | .ask w _ => w == who | _ => false)

/-- The context for which one asks: that of a warp, a ladle job, a JRF command, a sprue's command or a task. -/
def State.askerCtx (s : State) : Asker → Nat
  | .fetch _ ctx _ => ctx
  | .wait warp _ _ => match s.warpOf warp with | some w => w.ctx | none => 0
  | .engine k =>
    ((s.warpOf k).map (fun w => w.ctx)
      <|> (s.jobs.find? (fun j => j.uid == k)).map (fun j => j.ctx)
      <|> (s.commands.find? (fun c => c.uid == k)).map (fun c => c.ctx)
      <|> (s.cores.findSome? (fun c => c.sprues.flatten.find? (fun x => x.uid == k))).map (fun x => x.ctx)
      <|> (s.tasks.find? (fun t => t.order == k)).map (fun t => t.ctx)).getD 0

/-- What one asks as a request that waits for a port. -/
def State.askerRequest (s : State) (who : Asker) : PortRequest :=
  s.request (s.askerCtx who) (match who with | .fetch _ _ _ => s.uids | .wait _ seq _ => seq | .engine k => k)

/-- An operation asked for: it enters its channel once it may take its port, or its response is at once that no route leads there or that its port is down (01 R20). -/
def State.ask (s : State) (who : Asker) (write : Bool) (parts : List Part) : State :=
  let key := (parts.head?.map (fun p => p.addr)).getD 0
  match keyRemote key with
  | none => s
  | some pkg =>
    match s.routeTo pkg 0 with
    | .error info => { s with answers := s.answers ++ [{ who, addr := key, write, bytes := none, cause := 0x1C, info }] }
    | .ok port =>
      let r := s.askerRequest who
      if !s.mayTake port r then s
      else let (k, s) := (s.take port r).newUid; s.send k 0 (Access.asked who write parts) pkg

/-- `n` bytes at a key as parts of at most eight. -/
def partsOf (key n : Nat) : List Part :=
  (List.range (ceilDiv n 8)).map (fun i => { addr := key + 8 * i, bytes := min 8 (n - 8 * i), data := 0, name := key + 8 * i, laid := 0 })

/-! ### Readiness -/

/-- Instructions at which a speculating warp stalls until the phase completes (07 R163, 15 R334, 17 R359). -/
def specStalls (o : Op) : Bool :=
  o.opc ≥ 0xA0 || match o with
    | .atom | .red | .fenceBlk | .fenceClu | .fenceDev | .fenceSys | .fenceTick | .rfence | .mbind | .barInit | .barArrive | .barWait
    | .barSync | .barSyncSpec | .barDebt | .region | .ldd | .std | .mon | .wait | .tflag | .exit | .csrw | .malloc | .mfree
    | .munbind | .mbmap | .mload | .mstore | .mfill | .msave | .mrest => true
    | _ => false

/-- A pending result stands on a register that an instruction reads or writes, for a quad of the gang (12 R272). -/
def Warp.scoredOn (w : Warp) (qs : List Nat) (rs : List (RegKind × Nat)) : Bool :=
  w.scored.any (fun e => qs.any (fun q => e.quads.getLsbD q) && e.regs.any (fun r => rs.contains r))

/-- A mold access that the warp has issued is not complete: a pour waits for it (10 R222). -/
def Warp.filling (w : Warp) : Bool := w.pending.any (fun a => match a.kind with | .mold _ _ _ _ => true | _ => false)

/-- A sparse pour of some quads is between steps (10 R235). -/
def Warp.pouring (w : Warp) (qs : List Nat) : Bool := w.finishes && qs.all w.pourer.contains

/-- An instruction that the pour of another gang between steps holds back: another sparse pour, and a `csrr` of WSTAT, whose flags it is still to set (09 R205). -/
def Warp.behindPour (w : Warp) (qs : List Nat) (o : Op) (x : Fields) : Bool :=
  w.finishes && !qs.all w.pourer.contains && (poursSparse w x || (o == .csrr && bitField x.e 0 12 == 1))

/-- One home warp lets its gang issue an instruction (05 R108, 12 R272, 19 R468, 07 R163, 17 R361, 22 R447). A trap that waits lets a sparse pour finish its steps (10
R235), and a warp has one pour between steps at a time. -/
def Warp.lets (w : Warp) (gang clk : Nat) (next : Option (Op × Fields)) : Bool :=
  let qs := w.members gang
  (w.trapWait.isNone || w.pouring qs) && qs.all (fun q => (w.quad q).park == .running && decide ((w.quad q).readyAt ≤ clk))
    && !w.pending.any (fun a => a.holds && qs.contains a.quad) && !w.quads.any (fun q => q.park == .malloc || q.park == .mnopen)
    && match next with
      | none => true
      | some (o, x) =>
        let f := o.form x
        !w.scoredOn qs (readRegs w o x f ++ writeRegs o x f) && (!variableLatency w o x || w.scored.length < 32)
          && !(w.spec.isSome && specStalls o) && !(pouredOperands x != [] && w.filling) && !w.behindPour qs o x

/-- The lead of a gang: its first home warp, and the address of its first member there. -/
def State.leadOf (s : State) (core gang : Nat) : Option (Warp × BitVec 55) :=
  match s.gangWarps core gang with
  | [] => none
  | w :: _ => some (w, (w.quad ((w.members gang).headD 0)).path.pc)

/-- The context of a warp issues: it is not being killed, and no thermal trip has stopped issue (02 R37, 11 R257). -/
def State.issues (s : State) (w : Warp) : Bool :=
  !s.tripped && match s.ctxOf w.ctx with | some c => !c.killing && !c.killed | none => false

/-- Issue has stopped for the eviction of its block (04 R92 step 1), but for the pour that a trap waits for (10 R235). -/
def State.halted (s : State) (w : Warp) : Bool := (match s.blockOf w.block with | some b => b.leaving | none => false) && w.trapWait.isNone

/-- A gang is ready (05 R108): it has its instruction, or a check of its fetch fails. -/
def State.ready (s : State) (core gang : Nat) : Bool :=
  match s.leadOf core gang with
  | none => false
  | some (w, pc) =>
    let lets (next : Option (Op × Fields)) : Bool :=
      s.issues w && !s.halted w && (s.gangWarps core gang).all (fun v => v.lets gang (s.coreOf core).clk next)
    match (s.fetchInstr core w pc.toNat).2 with
    | .ok o x => lets (some (o, x))
    | .bad _ => lets none
    | .later _ _ => false

/-- The gangs of a core that a sequencer owns (05 R108, R111): those whose first home warp stands in one of its 16 slots. -/
def State.seqGangs (s : State) (core seq : Nat) : List Nat :=
  ((((s.residents core).flatMap (fun w => w.aliveQuads.map (fun q => (w.quad q).gang))).eraseDups).filter (fun g =>
    match s.leadOf core g with | some (w, _) => w.slot / 16 == seq | none => false))

/-! ### The turn of a shadow (11 R243) -/

/-- The quads of a shadow that issue next: those of the entry it has reached that stand at the address of the lowest of them, at a `bar` those that have not
parked there. -/
def Warp.entryQuads (v : Warp) (h : Trail) : List Nat :=
  let qs := if h.bar then v.counted.filter (fun q => (v.quad q).barOf.isNone) else (quadList h.quads).filter (fun q => (v.quad q).alive)
  qs.filter (fun q => (v.quad q).path.pc == (v.quad (qs.headD 0)).path.pc)

/-- A shadow takes a turn: its leading warp has issued what it has not, and it has offered nothing that waits for its comparison. -/
def State.shadowReady (s : State) (v : Warp) : Bool :=
  match s.warpOf v.uid with
  | none => false
  | some w =>
    match w.trail with
    | [] => false
    | h :: _ =>
      let qs := v.entryQuads h
      s.issues w && v.offer.isNone && v.trapWait.isNone
        && (qs == [] || (qs.all (fun q => (v.quad q).park == .running && decide ((v.quad q).readyAt ≤ (s.coreOf v.core).clk))
          && match (s.fetchInstr v.core v (v.quad (qs.headD 0)).path.pc.toNat).2 with | .later _ _ => false | _ => true))

/-- The words of other packages that the gangs and the shadows of a sequencer wait for are asked for, each once. -/
def State.askFetches (s : State) (core seq : Nat) : State :=
  let shadows := s.shadows.filter (fun v => v.core == core && (v.slot - hiddenSlot) / 16 == seq)
  ((s.seqGangs core seq).filterMap (s.leadOf core) ++ shadows.filterMap (fun v =>
    ((s.warpOf v.uid).bind (fun w => w.trail.head?)).map (fun h => (v, (v.quad ((v.entryQuads h).headD 0)).path.pc)))).foldl
    (fun s x =>
      match (s.fetchInstr core x.1 x.2.toNat).2 with
      | .later a key =>
        if s.asking (.fetch core x.1.ctx a) || !s.issues x.1 then s
        else s.ask (.fetch core x.1.ctx a) false [{ addr := key, bytes := 4, data := 0, name := a, laid := 0 }]
      | _ => s)
    s

/-! ### The clock -/

/-- The clock of a core moves when a sequencer is clocked that is not after the one clocked last. -/
def Core.tick (c : Core) (seq : Nat) : Core := { c with clk := if seq ≤ c.turn then c.clk + 1 else c.clk, turn := seq }

/-- Gangs that yielded (18 R388) see an issue from a slot, or with none a clock in which nothing was ready. -/
def Quad.seeIssue (slot : Option Nat) (q : Quad) : Quad :=
  match q.park with
  | .yield slots issues =>
    match slot with
    | none => { q with park := .running }
    | some k =>
      let rest := slots.filter (fun j => j != k)
      if rest == [] || issues ≤ 1 then { q with park := .running } else { q with park := .yield rest (issues - 1) }
  | _ => q

/-- Every quad of the warps in a sequencer's slots sees an issue. -/
def State.seeIssue (s : State) (core seq : Nat) (slot : Option Nat) : State :=
  { s with
    warps := s.warps.map (fun w =>
      if w.core == core && w.slot / 16 == seq && !w.ended then { w with quads := w.quads.map (Quad.seeIssue slot) } else w) }

/-- What may issue in a clock: a gang of a slot with its lowest quad, or a shadow in its hidden slot. -/
structure Pick where
  slot : Nat
  quad : Nat
  gang : Nat
deriving DecidableEq, Repr

/-- What is ready in a sequencer. -/
def State.picks (s : State) (core seq : Nat) : List Pick :=
  ((s.seqGangs core seq).filter (fun g => s.ready core g)).filterMap (fun g =>
    (s.leadOf core g).map (fun l => ⟨l.1.slot, (l.1.members g).headD 0, g⟩))
  ++ (s.shadows.filter (fun v => v.core == core && (v.slot - hiddenSlot) / 16 == seq && s.shadowReady v)).map (fun v => ⟨v.slot, 0, 0⟩)

/-- The place of a slot in the rotation of its sequencer: 16 slots, then the 16 hidden ones. -/
def slotPlace (slot : Nat) : Nat := slot % 16 + (if hiddenSlot ≤ slot then 16 else 0)

/-- How far a pick is from the one served last: slots in rotation, then quads in rotation (05 R108). -/
def turnKey (c : Core) (seq : Nat) (p : Pick) : Nat :=
  8 * ((slotPlace p.slot + 63 - c.lastSlot.getD seq 15) % 32) + (p.quad + 15 - Cells.get 7 c.lastGang p.slot) % 8

/-- The first with the smallest key. -/
def leastBy {α : Type} (key : α → Nat) : List α → Option α
  | [] => none
  | g :: gs => match leastBy key gs with | none => some g | some h => if key h < key g then some h else some g

/-- What a clock of a sequencer brings. -/
inductive Turn where
  | idle (s : State)
  | issue (s : State) (o : Op) (x : Fields)
  | absent
deriving DecidableEq, Repr

/-- Rows 1 to 5 of Table 12-3 as a trap in every active lane that is not a helper lane; with none the instruction has no effect
(12 R268). -/
def State.badIssue (s : State) (core gang : Nat) (pc : BitVec 55) (e : BadFetch) : State :=
  let ws := s.gangWarps core gang
  let clk := (s.coreOf core).clk
  let real (w : Warp) : LaneMask := w.activeOf (w.members gang) &&& ~~~w.helper
  match ws.find? (fun w => real w != 0) with
  | some w => (s.dissolve core gang).takeTrap w.uid (Trap.of e.cause (real w) pc.toNat e.addr e.info)
  | none =>
    let pass (w : Warp) : Warp := chargeQuads (advanceQuads w (w.members gang) e.len) (w.members gang) clk 0 0 [] w.regs
    let plain (w : Warp) : Trail :=
      { quads := quadSet (w.members gang), others := false, seq := 0, compared := none, released := false, value := none, exits := false, bar := false, trap := none,
        banks := 0 }
    ws.foldl (fun s w => s.onWarp w.uid (fun w => pass (if w.paired then { w with trail := w.trail ++ [plain w] } else w))) s

/-- A fetch that failed for want of a response was told of it. -/
def State.tookFetch (s : State) (core ctx : Nat) (e : BadFetch) : State :=
  if e.cause == 0x1C || e.cause == 0x0E then { s with answers := s.answers.filter (fun a => a.who != .fetch core ctx (e.addr.getD 0)) } else s

/-- The turn of a gang: its fetch and its decode. -/
def State.gangTurn (s : State) (core : Nat) (p : Pick) : Turn :=
  match s.leadOf core p.gang with
  | none => .idle s
  | some (w, pc) =>
    match s.fetchInstr core w pc.toNat with
    | (s, .ok o x) => .issue { s with cur := some { core, slot := p.slot, gang := p.gang } } o x
    | (s, .later _ _) => .idle s
    | (s, .bad e) => if e.cause == 0 then .absent else .idle ((s.tookFetch core w.ctx e).badIssue core p.gang pc e)

/-- The turn of a shadow. Where none of its quads can issue the entry that its leading warp did, an entry that it had to reach in order is a mismatch, and another is
nothing to it. -/
def State.shadowTurn (s : State) (core : Nat) (p : Pick) : Turn :=
  match s.shadows.find? (fun v => v.core == core && v.slot == p.slot) with
  | none => .idle s
  | some v =>
    match (s.warpOf v.uid).bind (fun w => w.trail.head?) with
    | none => .idle s
    | some h =>
      match v.entryQuads h with
      | [] => .idle (if h.keyed then s.mismatch v.uid h.quads else s.onWarp v.uid (fun w => { w with trail := w.trail.drop 1 }))
      | q :: qs =>
        let pc := (v.quad q).path.pc
        match s.fetchInstr core v pc.toNat with
        | (s, .ok o x) =>
          let (k, s) := s.newUid
          let gang := gangId k q
          .issue { s.onShadow v.uid (fun v => v.onQuads (q :: qs) (fun x => { x with gang })) with cur := some { core, slot := p.slot, gang } } o x
        | (s, .later _ _) => .idle s
        | (s, .bad e) =>
          if e.cause == 0 then .absent
          else
            let real := v.activeOf (q :: qs) &&& ~~~v.helper
            if real == 0 then
              .idle ((s.onShadow v.uid (fun v => chargeQuads (advanceQuads v (q :: qs) e.len) (q :: qs) (s.coreOf core).clk 0 0 [] v.regs)).onWarp v.uid (fun w =>
                if h.plain then { w with trail := w.trail.drop 1 } else w))
            else .idle (s.shadowTraps v.uid (Trap.of e.cause real pc.toNat e.addr e.info))

/-- A trap or an end that waited for the shadow of a paired warp of a sequencer, whose shadow has come up. -/
def State.settlePairs (s : State) (core seq : Nat) : State :=
  ((s.residents core).filter (fun w => w.paired && w.slot / 16 == seq && w.trail == [] && (w.trapWait.isSome || w.aliveQuads == []))).foldl
    (fun s w => s.settle w.uid) s

/-- A warp of a sequencer that is parked in `mnopen` executes it again once the ladle of its cluster has room, whatever freed it (20 R428). -/
def State.wakeOpens (s : State) (core seq : Nat) : State :=
  if (s.jobs.filter (fun j => j.cluster == coreCluster core)).length ≥ 16 then s
  else
    { s with
      warps := s.warps.map (fun w =>
        if w.core == core && w.slot / 16 == seq && w.quads.any (fun q => q.park == .mnopen) then
          { w with quads := w.quads.map (fun q => if q.park == .mnopen then { q with park := .running, readyAt := (s.coreOf core).clk } else q) }
        else w) }

/-- What has come about that the warps of a sequencer waited for. -/
def State.settleWaits (s : State) (core seq : Nat) : State := (s.settlePairs core seq).wakeOpens core seq

/-- What issues in this clock. -/
def State.turn (s : State) (core seq : Nat) : Turn :=
  let s := ((s.onCore core (fun c => c.tick seq)).settleWaits core seq).askFetches core seq
  match leastBy (turnKey (s.coreOf core) seq) (s.picks core seq) with
  | none => .idle (s.seeIssue core seq none)
  | some p =>
    let s := s.onCore core (fun c =>
      { c with lastSlot := modifyAt (fun _ => slotPlace p.slot) seq c.lastSlot, lastGang := Cells.put 7 c.lastGang p.slot p.quad })
    let s := s.seeIssue core seq (some p.slot)
    if hiddenSlot ≤ p.slot then s.shadowTurn core p else s.gangTurn core p

/-! ### The agenda -/

/-- What the next step does: the head of the agenda, or with an empty agenda a clock of `here`. -/
inductive Todo where
  | exec (s : State) (i : Instr)
  | done (s : State)
  | absent
deriving DecidableEq, Repr

/-- A clock of a sequencer as what the step has to do. -/
def State.clockTodo (s : State) (core seq : Nat) : Todo :=
  match s.turn core seq with
  | .idle s => .done s
  | .issue s o x => .exec s (o.instr x)
  | .absent => .absent

def State.todo (s : State) : Todo :=
  match s.agenda with
  | [] => s.clockTodo s.here.1 s.here.2
  | .event focus i :: rest => .exec { s with agenda := rest, focus, cur := none } i
  | .clock core seq :: rest => State.clockTodo { s with agenda := rest } core seq
  | .elapse ns :: rest => .done { s with agenda := rest, ns := s.ns + BitVec.ofNat 64 ns }
  | .arrive image :: rest => .done { s with agenda := rest, arrived := s.arrived ++ [image] }
  | .deliver job run :: rest =>
    .done { s with agenda := rest, jobs := s.jobs.map (fun j => if j.uid == job && j.span && j.final && j.status < 2 then { j with away := j.away ++ [run] } else j) }
  | .selfTest core result :: rest => .done { s with agenda := rest, tests := s.tests ++ [(core, result)] }

end Sys2Proof.Machine
end

