-- ==== Sys2Proof/Machine/Integer.lean ====
section
/-!
DEFINITION. Integer, logic, move and address instructions and control registers: opcodes 0x20 to 0x4B (15 R312 to R335).
-/
namespace Sys2Proof.Machine

/-! ### Arithmetic (15 R317 to R320) -/

/-- An element-by-element integer operation in a lane; `.sat` is F 1. -/
def Ctx.intElems (c : Ctx) (sat : Bool) (f : Int → Int → Int → Int) (l : Nat) : LaneOut :=
  let t := c.ty
  let a := c.a l
  let b := c.b l
  let z := c.c l
  let r := mapElems t (fun i =>
    intResult t sat (f (elemInt t (elemOf t a i)) (elemInt t (elemOf t b i)) (elemInt t (elemOf t z i))))
  c.toD r.1 r.2

/-- ADD. -/
def execAdd (x : Fields) (s : State) : Out := perLane .add (fun c l => c.intElems (c.x.f == 1) (fun a b _ => a + b) l) x s

/-- SUB. -/
def execSub (x : Fields) (s : State) : Out := perLane .sub (fun c l => c.intElems (c.x.f == 1) (fun a b _ => a - b) l) x s

/-- ADD3. -/
def execAdd3 (x : Fields) (s : State) : Out := perLane .add3 (fun c l => c.intElems false (fun a b z => a + b + z) l) x s

/-- MUL. -/
def execMul (x : Fields) (s : State) : Out := perLane .mul (fun c l => c.intElems (c.x.f == 1) (fun a b _ => a * b) l) x s

/-- MULHI: the quotient by 2^W rounded down. -/
def execMulhi (x : Fields) (s : State) : Out :=
  perLane .mulhi (fun c l => c.intElems false (fun a b _ => a * b / (2 ^ tyWidth c.ty : Nat)) l) x s

/-- MAD. -/
def execMad (x : Fields) (s : State) : Out := perLane .mad (fun c l => c.intElems false (fun a b z => a * b + z) l) x s

/-- MADW: the pair C is read as i64 for T i32 and as n64 for T n32. -/
def execMadw (x : Fields) (s : State) : Out :=
  perLane .madw
    (fun c l =>
      let z : Int := if tySigned c.ty then signed 64 (c.c l) else (c.c l : Int)
      c.toD (wrap 64 (elemInt c.ty (c.a l) * elemInt c.ty (c.b l) + z)))
    x s

/-- The quotient and remainder of 15 R318, with the flag of a division by zero. -/
def divRem (a b : Int) : Int × Int × Nat := if b = 0 then (-1, a, flDZ) else (a.tdiv b, a - b * a.tdiv b, 0)

/-- DIV. -/
def execDiv (x : Fields) (s : State) : Out :=
  perLane .div
    (fun c l =>
      let (q, _, f) := divRem (elemInt c.ty (c.a l)) (elemInt c.ty (c.b l))
      c.toD (wrap (tyWidth c.ty) q) f)
    x s

/-- REM. -/
def execRem (x : Fields) (s : State) : Out :=
  perLane .rem
    (fun c l =>
      let (_, m, f) := divRem (elemInt c.ty (c.a l)) (elemInt c.ty (c.b l))
      c.toD (wrap (tyWidth c.ty) m) f)
    x s

/-- MIN. -/
def execMin (x : Fields) (s : State) : Out := perLane .min (fun c l => c.intElems false (fun a b _ => if b < a then b else a) l) x s

/-- MAX. -/
def execMax (x : Fields) (s : State) : Out := perLane .max (fun c l => c.intElems false (fun a b _ => if a < b then b else a) l) x s

/-- ABS. -/
def execAbs (x : Fields) (s : State) : Out := perLane .abs (fun c l => c.intElems (c.x.f == 1) (fun a _ _ => (a.natAbs : Int)) l) x s

/-- NEG. -/
def execNeg (x : Fields) (s : State) : Out := perLane .neg (fun c l => c.intElems (c.x.f == 1) (fun a _ _ => -a) l) x s

/-- SAD (15 R319). -/
def execSad (x : Fields) (s : State) : Out :=
  perLane .sad
    (fun c l =>
      let t := c.ty
      let d := (List.range (tyCount t)).foldl
        (fun (n : Nat) i => n + (elemInt t (elemOf t (c.a l) i) - elemInt t (elemOf t (c.b l) i)).natAbs) 0
      c.toD ((c.c l + d) % 2 ^ 32))
    x s

/-- The carry-in of a lane (15 R320), and the result with its carry-out. -/
def Ctx.carryIn (c : Ctx) (l : Nat) : Int := (boolNat (c.regs.pred (bitField c.x.e 0 3) l != bitAt c.x.e 3) : Int)
def Ctx.carryOut (c : Ctx) (v : Int) (out : Bool) : LaneOut :=
  { c.toD (wrap 32 v) with preds := [(bitField c.x.e 4 3, out)] }

/-- ADDC. -/
def execAddc (x : Fields) (s : State) : Out :=
  perLane .addc
    (fun c l =>
      let v := (natField (c.a l) 0 32 : Int) + (natField (c.b l) 0 32 : Int) + c.carryIn l
      c.carryOut v (decide (v ≥ (2 ^ 32 : Nat))))
    x s

/-- SUBB. -/
def execSubb (x : Fields) (s : State) : Out :=
  perLane .subb
    (fun c l =>
      let v := (natField (c.a l) 0 32 : Int) - (natField (c.b l) 0 32 : Int) - c.carryIn l
      c.carryOut v (decide (v < 0)))
    x s

/-! ### Logic, shifts and bit fields (15 R321 to R324) -/

/-- A bitwise result of the width of T. -/
def Ctx.bits (c : Ctx) (v : Nat) : LaneOut := c.toD (v % 2 ^ tyWidth c.ty)

/-- The complement within T. -/
def Ctx.flip (c : Ctx) (v : Nat) : Nat := 2 ^ tyWidth c.ty - 1 - v % 2 ^ tyWidth c.ty

/-- AND. -/
def execAnd (x : Fields) (s : State) : Out := perLane .and (fun c l => c.bits (c.a l &&& c.b l)) x s

/-- OR. -/
def execOr (x : Fields) (s : State) : Out := perLane .or (fun c l => c.bits (c.a l ||| c.b l)) x s

/-- XOR. -/
def execXor (x : Fields) (s : State) : Out := perLane .xor (fun c l => c.bits (c.a l ^^^ c.b l)) x s

/-- ANDN. -/
def execAndn (x : Fields) (s : State) : Out := perLane .andn (fun c l => c.bits (c.a l &&& c.flip (c.b l))) x s

/-- NOT. -/
def execNot (x : Fields) (s : State) : Out := perLane .not (fun c l => c.bits (c.flip (c.a l))) x s

/-- The count of a shift, modulo the width with `.wrap`. -/
def Ctx.shift (c : Ctx) (l : Nat) : Nat := if c.x.f == 1 then c.b l % tyWidth c.ty else c.b l

/-- SHL. -/
def execShl (x : Fields) (s : State) : Out :=
  perLane .shl (fun c l => let n := c.shift l; c.bits (if n ≥ tyWidth c.ty then 0 else c.a l * 2 ^ n)) x s

/-- SHR. -/
def execShr (x : Fields) (s : State) : Out :=
  perLane .shr (fun c l => let n := c.shift l; c.bits (if n ≥ tyWidth c.ty then 0 else c.a l % 2 ^ tyWidth c.ty / 2 ^ n)) x s

/-- SRA. -/
def execSra (x : Fields) (s : State) : Out :=
  perLane .sra
    (fun c l =>
      let n := min (c.shift l) (tyWidth c.ty - 1)
      c.toD (wrap (tyWidth c.ty) (signed (tyWidth c.ty) (c.a l) / (2 ^ n : Nat))))
    x s

/-- ROT. -/
def execRot (x : Fields) (s : State) : Out :=
  perLane .rot
    (fun c l =>
      let w := tyWidth c.ty
      let n := c.b l % w
      let a := c.a l % 2 ^ w
      c.bits (a * 2 ^ n + a / 2 ^ (w - n)))
    x s

/-- FSH. -/
def execFsh (x : Fields) (s : State) : Out :=
  perLane .fsh
    (fun c l =>
      let v := natField (c.a l) 0 32 * 2 ^ 32 + natField (c.b l) 0 32
      let n := if bitAt c.x.e 19 then bitField c.x.e 0 5 else c.c l % 32
      c.toD (if c.x.f == 0 then natField (v * 2 ^ n) 32 32 else natField (v / 2 ^ n) 0 32))
    x s

/-- The field that `bfe` and `bfi` act on: its place and length within W. -/
def Ctx.field (c : Ctx) (l : Nat) : Nat × Nat :=
  let w := tyWidth c.ty
  let (pos, len) := if bitAt c.x.e 19 then (bitField c.x.e 0 6, bitField c.x.e 6 7) else (natField (c.c l) 0 8, natField (c.c l) 8 8)
  let p := min pos w
  (p, min len (w - p))

/-- BFE. -/
def execBfe (x : Fields) (s : State) : Out :=
  perLane .bfe
    (fun c l =>
      let (p, n) := c.field l
      let v := natField (c.a l) p n
      c.toD (if n == 0 then 0 else if tySigned c.ty then wrap 32 (signed n v) else v))
    x s

/-- BFI. -/
def execBfi (x : Fields) (s : State) : Out :=
  perLane .bfi
    (fun c l =>
      let (p, n) := c.field l
      let b := c.b l % 2 ^ tyWidth c.ty
      c.bits (b - natField b p n * 2 ^ p + natField (c.a l) 0 n * 2 ^ p))
    x s

/-- POPC. -/
def execPopc (x : Fields) (s : State) : Out :=
  perLane .popc (fun c l => c.toD ((List.range (tyWidth c.ty)).filter (natBit (c.a l))).length) x s

/-- CLZ. -/
def execClz (x : Fields) (s : State) : Out :=
  perLane .clz
    (fun c l => c.toD (((List.range (tyWidth c.ty)).reverse.takeWhile (fun i => !natBit (c.a l) i)).length)) x s

/-- CTZ. -/
def execCtz (x : Fields) (s : State) : Out :=
  perLane .ctz (fun c l => c.toD (((List.range (tyWidth c.ty)).takeWhile (fun i => !natBit (c.a l) i)).length)) x s

/-- BREV. -/
def execBrev (x : Fields) (s : State) : Out :=
  perLane .brev
    (fun c l => c.bits ((List.range (tyWidth c.ty)).foldl (fun v i => 2 * v + boolNat (natBit (c.a l) i)) 0)) x s

/-! ### Moves, compares and addresses (15 R325 to R331) -/

/-- BPERM: lane s supplies its value when it is active for this instruction and, in a packed quad, among its own lanes. -/
def execBperm (x : Fields) (s : State) : Out :=
  perLane .bperm
    (fun c l =>
      let j := c.b l % 32
      let seen := if (c.warp.quad (l / 4)).packed then c.lanes &&& quadMask 0xF (l / 4) else c.lanes
      c.bits (if seen.getLsbD j then c.a j else 0))
    x s

/-- SETP: with a packed type the comparison must hold in every element. -/
def execSetp (x : Fields) (s : State) : Out :=
  perLane .setp
    (fun c l =>
      c.toP ((List.range (tyCount c.ty)).all (fun i =>
        intCompare c.x.f.toNat (elemInt c.ty (elemOf c.ty (c.a l) i)) (elemInt c.ty (elemOf c.ty (c.b l) i)))))
    x s

/-- LEA. -/
def execLea (x : Fields) (s : State) : Out :=
  perLane .lea
    (fun c l =>
      let b : Int := if bitAt c.x.e 3 then signed 32 (c.b l) else (natField (c.b l) 0 32 : Int)
      c.toD (wrap (tyWidth c.ty) ((c.a l : Int) + b * (2 ^ bitField c.x.e 0 3 : Nat))))
    x s

/-- MOV. -/
def execMov (x : Fields) (s : State) : Out := perLane .mov (fun c l => c.bits (c.a l)) x s

/-- MOVI. -/
def execMovi (x : Fields) (s : State) : Out :=
  perLane .movi (fun c _ => c.bits (if c.ty == 19 then c.x.e.toNat * 2 ^ 35 + c.x.i.toNat * 2 ^ 3 else c.x.i.toNat)) x s

/-- MOVU (15 R329): F 0 from the lowest lane to a uniform register, F 1 from a uniform register to every active lane. -/
def execMovu (x : Fields) (s : State) : Out :=
  issue
    (fun s c =>
      if c.x.f == 0 then warpEffect (uniformEffect (tyRegs c.ty) (fun c l => c.a l)) s c
      else laneEffect (fun c l => c.bits (c.a l)) s c)
    .movu x s

/-- ICVT (15 R330). -/
def execIcvt (x : Fields) (s : State) : Out :=
  perLane .icvt
    (fun c l =>
      let t := c.ty
      let st := styp c.x
      let sel := bitField c.x.e 5 3
      let sat := c.x.f == 1
      let conv (i : Nat) : Res := intResult t sat (elemInt st (elemOf st (c.a l) i))
      if tyCount t == tyCount st then let r := mapElems t conv; c.toD r.1 r.2
      else if tyCount t == 1 then let r := conv sel; c.toD r.1 r.2
      else let r := conv 0; c.toD (putElem t (c.d 1 l) sel r.1) r.2)
    x s

/-- SAT (15 R331). -/
def execSat (x : Fields) (s : State) : Out :=
  perLane .sat
    (fun c l =>
      let t := c.ty
      let n := min (max (c.b l) 1) (tyWidth t)
      let lo : Int := if tySigned t then -((2 ^ (n - 1) : Nat) : Int) else 0
      let hi : Int := if tySigned t then ((2 ^ (n - 1) : Nat) : Int) - 1 else ((2 ^ n : Nat) : Int) - 1
      let r := mapElems t (fun i =>
        let v := elemInt t (elemOf t (c.a l) i)
        (wrap (tyWidth t) (clampInt lo hi v), if v < lo || hi < v then flSAT else 0))
      c.toD r.1 r.2)
    x s

/-! ### Control registers (15 R332 to R335) -/

/-- QSTAT (08 R173). -/
def Core.qstat (c : Core) : Nat :=
  (List.range 8).foldl
    (fun v q =>
      let l := c.sprues.getD q []
      v + boolNat (l.any (fun x => x.fault.isSome)) * 2 ^ (24 + q) + boolNat (l.length ≥ 16) * 2 ^ (16 + q)
        + boolNat (l != []) * 2 ^ (8 + q))
    0

/-- MSTEP (10 Table 10-3). -/
def StepState.word (m : StepState) : Nat :=
  if m.active then 2 ^ 31 + m.slot % 8 * 2 ^ 24 + m.opnd % 4 * 2 ^ 22 + m.total % 256 * 2 ^ 8 + m.done % 256 else 0

/-- TIME of a context (02 R42). -/
def State.timeOf (s : State) (ctx : Nat) : BitVec 64 :=
  match s.ctxOf ctx with
  | some c => match s.vdOf c.vd with | some v => s.guestTime v | none => s.ns
  | none => s.ns

/-- The identity registers (05 Table 5-3). -/
def State.identityOf (s : State) (w : Warp) (n lane : Nat) : Nat :=
  let b := s.blockAt w.block
  let (gx, gy, gz) := match s.stageOf b with | some d => (d.gx, d.gy, d.gz) | none => (1, 1, 1)
  match n with
  | 0x10 => lane
  | 0x11 => lane / 4
  | 0x12 => w.wid
  | 0x13 => b.index
  | 0x14 => b.index % gx
  | 0x15 => b.index / gx % gy
  | 0x16 => b.index / (gx * gy)
  | 0x17 => gx * gy * gz
  | 0x18 => if w.cast then b.lcore else s.coreNumber w.core
  | 0x19 => coreDie w.core
  | 0x1A => boolNat (w.helper.getLsbD lane)
  | _ => (~~~(w.helper ||| w.absent)).toNat

/-- A control register as `csrr` reads it in a lane. -/
def State.csr (s : State) (w : Warp) (n lane : Nat) : Nat :=
  match n with
  | 0x00 => w.wctl.toNat
  | 0x01 => w.wstat.toNat
  | 0x20 => (s.timeOf w.ctx).toNat
  | 0x21 => s.hb.toNat
  | 0x30 => w.trap.tbase.toNat
  | 0x31 => w.trap.tcause.toNat
  | 0x32 => w.trap.tmask.toNat
  | 0x33 => w.trap.taddr.toNat
  | 0x34 => w.trap.tfirst.toNat
  | 0x3D => w.trap.tinfo.toNat
  | 0x40 => w.region.toNat
  | 0x41 => w.rcount.toNat
  | 0x50 => w.mstep.word
  | 0x60 => (s.coreOf w.core).qstat
  | _ => if 0x35 ≤ n && n ≤ 0x3C then (w.trap.tqpc.getD (n - 0x35) 0).toNat else s.identityOf w n lane

/-- CSRR: TIME, HB, MSTEP and QSTAT reach the shadow through the load-value queue (11 R244). -/
def execCsrr (x : Fields) (s : State) : Out :=
  issue
    (fun s c =>
      let n := bitField c.x.e 0 12
      let read (s : State) (c : Ctx) : Done := laneEffect (fun c l => c.toD (s.csr c.warp n l)) s c
      if [0x20, 0x21, 0x50, 0x60].contains n then valueEffect read s c else read s c)
    .csrr x s

/-- A value that a control register does not take (15 Table 15-8, 09 R204, 11 Tables 11-1 and 11-2). -/
def csrRefuses (n v : Nat) : Bool :=
  if n == 0x00 then v / 2 ^ 7 != 0 || v % 8 ≥ 6
  else if n == 0x01 then v / 2 ^ 6 != 0
  else if n == 0x31 then v / 2 ^ 8 != 0
  else if n == 0x30 || n == 0x34 || (0x35 ≤ n && n ≤ 0x3C) then v % 4 != 0 || v / 2 ^ 55 != 0
  else if n == 0x40 then v / 2 ^ 55 != 0 || natBit v 1
  else if n == 0x41 then v / 2 ^ 2 != 0
  else false

/-- A control register written; the read-only bits of WCTL keep their values. -/
def Warp.setCsr (w : Warp) (n v : Nat) : Warp :=
  match n with
  | 0x00 => { w with wctl := BitVec.ofNat 32 (natField w.wctl.toNat 5 2 * 2 ^ 5 + v % 2 ^ 5) }
  | 0x01 => { w with wstat := BitVec.ofNat 32 v }
  | 0x30 => { w with trap := { w.trap with tbase := BitVec.ofNat 64 v } }
  | 0x31 => { w with trap := { w.trap with tcause := BitVec.ofNat 32 v } }
  | 0x32 => { w with trap := { w.trap with tmask := BitVec.ofNat 32 v } }
  | 0x33 => { w with trap := { w.trap with taddr := BitVec.ofNat 64 v } }
  | 0x34 => { w with trap := { w.trap with tfirst := BitVec.ofNat 64 v } }
  | 0x3D => { w with trap := { w.trap with tinfo := BitVec.ofNat 64 v } }
  | 0x40 => { w with region := BitVec.ofNat 64 v }
  | 0x41 => { w with rcount := BitVec.ofNat 32 v }
  | _ => { w with trap := { w.trap with tqpc := modifyAt (fun _ => BitVec.ofNat 64 v) (n - 0x35) w.trap.tqpc } }

/-- CSRW (15 R333). -/
def execCsrw (x : Fields) (s : State) : Out :=
  issue
    (warpEffect (fun s c =>
      match c.leader with
      | none => .ok (finishWarp s c true)
      | some l =>
        let n := bitField c.x.e 0 12
        let v := c.a l
        if csrRefuses n v then
          laneTrap s c (if c.x.a.uni then c.active else BitVec.ofNat 32 (2 ^ l)) 0x02 none (encInfo 9 6)
        else .ok ((finishWarp s c true).onWarp c.warp.uid (fun w => w.setCsr n v))))
    .csrw x s

/-- CLK (15 R335). -/
def execClk (x : Fields) (s : State) : Out :=
  issue (valueEffect (fun s c => laneEffect (fun c _ => c.toD (s.coreOf c.core).clk) s c)) .clk x s

/-- HB (15 R335). -/
def execHb (x : Fields) (s : State) : Out := issue (valueEffect (fun s c => laneEffect (fun c _ => c.toD s.hb.toNat) s c)) .hb x s

end Sys2Proof.Machine
end

