-- ==== Sys2Proof/Machine/Access.lean ====
section
/-!
DEFINITION. Accesses of warps: the checks of a lane (19 Table 19-3 rows 1 to 5), how they enter the pending list (07 R150), what they
do when they are performed, and how an instruction's accesses complete (12 R272, 19 R401, R468).
-/
namespace Sys2Proof.Machine

/-! ### Checks of a lane -/

/-- A failed check: cause, and TADDR and TINFO where the manual states them. -/
structure Bad where
  cause : Nat
  addr  : Option Nat
  info  : Option Nat
deriving DecidableEq, Repr

/-- Where a lane's access lies: its space, what the spec calls its name (an offset or a virtual address), its key, and the package of
a `.sys` access. -/
structure Spot where
  space  : Space
  name   : Nat
  key    : Nat
  remote : Option (BitVec 10)
deriving DecidableEq, Repr

/-- Block memory: rows 2, 3 and 5 for `n` bytes at an offset that must be a multiple of `align`; `write` checks tags under a layout. -/
def Block.check (b : Block) (o n align lay : Nat) (write : Bool) : Option Bad :=
  if !b.holds o n then some ⟨0x05, if o ≥ 2 ^ 21 then o else max o b.bmem, none⟩
  else if o % align != 0 then some ⟨0x04, o, none⟩
  else if write then
    ((List.range (ceilDiv n 4)).findSome? (fun w => b.tagIn (layoutOf (o + 4 * w) lay) (min n 4))).map (fun t => ⟨0x08, t, some 0⟩)
  else none

/-- A scratchpad offset: rows 1 to 3 for the window of a die. -/
def checkSpad (len o n align : Nat) : Option Bad :=
  if len == 0 then some ⟨0x05, o, none⟩
  else if o + n > len then some ⟨0x05, max o len, none⟩
  else if o % align != 0 then some ⟨0x04, o, none⟩
  else none

/-- A device address: rows 2 to 4. -/
def State.checkDev (s : State) (core ctx va align : Nat) (need : Right) : State × Except Bad (Nat × Option (BitVec 10)) :=
  if va ≥ 2 ^ 55 then (s, .error ⟨0x05, va, none⟩)
  else if va % align != 0 then (s, .error ⟨0x04, va, none⟩)
  else
    match s.translate core ctx va need with
    | (s, .error (cause, info)) => (s, .error ⟨cause, va, info⟩)
    | (s, .ok key) => (s, .ok (key, keyRemote key))

/-- A word of a scope's space (19 R400): `n` bytes, aligned to `n`. -/
def State.spot (s : State) (w : Warp) (b : Block) (sc : Scope) (a n : Nat) (need : Right) : State × Except Bad Spot :=
  match sc with
  | .blk =>
    match b.check a n n 0 (need != .r) with
    | some e => (s, .error e)
    | none => (s, .ok ⟨.blk, a, b.key a, none⟩)
  | .clu =>
    let (base, len) := s.window w.ctx (coreDie w.core)
    match checkSpad len a n n with
    | some e => (s, .error e)
    | none => (s, .ok ⟨.spad, a, spadKey (coreDie w.core) base a, none⟩)
  | _ =>
    match s.checkDev w.core w.ctx a n need with
    | (s, .error e) => (s, .error e)
    | (s, .ok (key, remote)) => (s, .ok ⟨.dev, a, key, remote⟩)

/-- Every lane of a list checked in turn: what each lane found. -/
def checkLanes {α : Type} (f : State → Nat → State × Except Bad α) : State → List Nat → State × List (Nat × Except Bad α)
  | s, [] => (s, [])
  | s, l :: ls =>
    let (s, r) := f s l
    let (s, rs) := checkLanes f s ls
    (s, (l, r) :: rs)

/-- The trap of the lanes that failed, with the cause of the lowest (19 R401); helper lanes raise none. -/
def lanesTrap {α : Type} (helper : LaneMask) (pc : Nat) (rs : List (Nat × Except Bad α)) : Option Trap :=
  let bad := rs.filterMap (fun r => match r.2 with | .error e => if helper.getLsbD r.1 then none else some (r.1, e) | .ok _ => none)
  match bad with
  | [] => none
  | (_, e) :: _ =>
    some { cause := e.cause, mask := bad.foldl (fun m x => maskSet m x.1 true) 0, addr := e.addr, first := pc, info := e.info }

/-- The lanes that passed. -/
def lanesOk {α : Type} (rs : List (Nat × Except Bad α)) : List (Nat × α) :=
  rs.filterMap (fun r => match r.2 with | .ok v => some (r.1, v) | .error _ => none)

/-! ### Entering the pending list -/

/-- An access of a lane, before its place in issue order is known. -/
def Ctx.accessOf (c : Ctx) (lane : Nat) (space : Space) (remote : Option (BitVec 10)) (kind : AccessKind) (parts : List Part) : Access :=
  { seq := 0, pc := c.pc, quad := lane / 4, lane, blame := BitVec.ofNat 32 (2 ^ lane), depth := (c.warp.quad (lane / 4)).path.stack.length, joined := none, ended := none,
    acq := none, rel := none, space, kind, parts, remote, tile := none, held := false, holds := false,
    helper := c.warp.helper.getLsbD lane }

/-- An access that can still fail under rows 6 and 7 of Table 19-3 (19 R468): a whole word stored in a sound group cannot (R404), nor
can a load that the overrun buffer supplies. -/
def State.risky (s : State) (a : Access) : Bool :=
  a.remote.isSome ||
  match a.kind with
  | .store => a.parts.any (fun p =>
      match a.space with
      | .blk => decide (p.bytes < 4) || s.bankRisk .block p.addr
      | .spad => decide (p.bytes < 4) || s.bankRisk .spad p.addr
      | .dev => true
      | .stack => false)
  | .load _ _ => a.parts.any (fun p => p.laid != BitVec.ofNat 8 (2 ^ p.bytes - 1))
  | .fence _ => false
  | _ => true

/-- The accesses of one instruction enter the pending list together (07 R150). Those that can still fail hold their gang (19 R468); in
paired mode a compared operation waits for its comparison (11 R245), and `entry` is what its shadow is told. `dst` are the registers it will
write (12 R272), `now` what is known of them already. -/
def State.enqueue (s : State) (c : Ctx) (accs : List Access) (dst : List (RegKind × Nat)) (now : List (Nat × Nat × Word))
    (entry : Option Trail) : State :=
  let (k, s) := s.newUid
  let holds := accs.any (fun a => s.risky a)
  let held := match entry with | some h => h.compared.isSome | none => false
  s.onWarp c.warp.uid (fun w =>
    Warp.tidy { w with
      pending := w.pending ++ accs.map (fun a => { a with seq := k, held, holds := a.holds || holds }),
      scored := if dst == [] then w.scored else
        w.scored ++ [{ seq := k, quads := quadSet c.quads, regs := dst, vals := now, early := earlyLanes c.warp c.quads dst }],
      trail := match entry with | some h => w.trail ++ [{ h with seq := k }] | none => w.trail })

/-! ### Performing -/

/-- TINFO of cause 0x0E for a device-memory line (11 R250, Table 11-3). -/
def badLineInfo : Nat := 5 * 2 ^ 28 + 2 * 2 ^ 24

/-- Bytes of a space read: their value, or a cause with TINFO. -/
def State.readAt (s : State) (space : Space) (key n : Nat) : State × Except (Nat × Nat) Nat :=
  match space with
  | .blk => match s.readSpace .block key (n + 1) n with | (s, .ok v) => (s, .ok v) | (s, .error i) => (s, .error (0x0D, i))
  | .spad => match s.readSpace .spad key (n + 1) n with | (s, .ok v) => (s, .ok v) | (s, .error i) => (s, .error (0x0D, i))
  | .dev => if s.rangeBad key n then (s, .error (0x0E, badLineInfo)) else (s, .ok (s.dev.read key n))
  | .stack => (s, .ok 0)

/-- Bytes of a space written by a warp or an engine, or a cause with TINFO. -/
def State.writeAt (s : State) (space : Space) (key n v : Nat) (writer : Option Nat) : State × Option (Nat × Nat) :=
  match space with
  | .blk => match s.storeBank .block key n v writer with | (s, none) => (s, none) | (s, some i) => (s, some (0x0D, i))
  | .spad => match s.storeBank .spad key n v writer with | (s, none) => (s, none) | (s, some i) => (s, some (0x0D, i))
  | .dev => if s.rangeBad key n then (s, some (0x0E, badLineInfo)) else (s.storeDev key n v writer, none)
  | .stack => (s, none)

/-- The new value of an atomic (19 R405). -/
def atomResult (op : AtomOp) (t old b c : Nat) : Nat :=
  let w := tyWidth t
  match op with
  | .add => if t == 3 || t == 15 then (faddElem t { mode := 0, rb := 0, sat := .no, ftz := false } false old b).1 else (old + b) % 2 ^ w
  | .min => if elemInt t b < elemInt t old then b % 2 ^ w else old
  | .max => if elemInt t old < elemInt t b then b % 2 ^ w else old
  | .and => old &&& b
  | .or => old ||| b
  | .xor => old ^^^ b
  | .exch => b % 2 ^ w
  | .cas => if old == c % 2 ^ w then b % 2 ^ w else old

/-- The bytes of a speculative load that the buffer supplied, laid over what was read (07 R162). -/
def Part.lay (p : Part) (v : Nat) : Nat :=
  (List.range p.bytes).foldl (fun v i => if p.laid.getLsbD i then v - natField v (8 * i) 8 * 2 ^ (8 * i) + bitField p.data (8 * i) 8 * 2 ^ (8 * i) else v) v

/-- A loaded value in its register: an element narrower than a word is extended (19 R402). -/
def loadValue (signedElem : Bool) (bytes v : Nat) : Nat := if signedElem then wrap 32 (signed (8 * bytes) v) else v

/-- What an access that has been performed gives: values for registers, or a late fault with its TADDR. -/
inductive Acted where
  | done (vals : List (Nat × Word))
  | fault (cause : Nat) (addr info : Option Nat)
deriving DecidableEq, Repr

/-- The parts of a load read in turn. -/
def State.loadParts (s : State) (a : Access) (sg : Bool) : List Part → List Nat → State × Acted
  | p :: ps, d :: ds =>
    let (s, r) := if p.laid == BitVec.ofNat 8 (2 ^ p.bytes - 1) then (s, .ok 0) else s.readAt a.space p.addr p.bytes
    match r with
    | .error (cause, info) => (s, .fault cause p.name info)
    | .ok v =>
      match State.loadParts s a sg ps ds with
      | (s, .done vals) => (s, .done ((d, BitVec.ofNat 32 (loadValue sg p.bytes (p.lay v))) :: vals))
      | r => r
  | _, _ => (s, .done [])

/-- The parts of a store written in turn. -/
def State.storeParts (s : State) (uid : Nat) (a : Access) : List Part → State × Acted
  | [] => (s, .done [])
  | p :: ps =>
    match s.writeAt a.space p.addr p.bytes p.data.toNat (some uid) with
    | (s, some (cause, info)) => (s, .fault cause p.name info)
    | (s, none) => State.storeParts s uid a ps

/-- The scheduler observes a tile flag in the flag array of a tile queue of the context (04 R83 step 2). -/
def State.observeFlag (s : State) (ctx va : Nat) : State :=
  s.tasks.foldl
    (fun s t =>
      if t.ctx != ctx then s
      else (t.rec'.stages.drop 1).foldl
        (fun s d =>
          let (base, _) := s.window ctx t.die
          let q := spadKey t.die base d.queue
          match (s.readAt .spad (q + 4) 4).2, (s.readAt .spad (q + 16) 8).2, (s.readAt .spad (q + 24) 8).2 with
          | .ok depth, .ok flags, .ok n =>
            if flags ≤ va && va < flags + 8 * depth then (s.writeAt .spad (q + 24) 8 (n + 1) none).1 else s
          | _, _, _ => s)
        s)
    s

/-- An access acts on memory (07 R150). Mold accesses act elsewhere. -/
def State.act (s : State) (w : Warp) (a : Access) : State × Acted :=
  match a.kind with
  | .load dst sg => s.loadParts a sg a.parts dst
  | .store => s.storeParts w.uid a a.parts
  | .tileFlag =>
    match s.storeParts w.uid a a.parts with
    | (s, .done vals) =>
      (a.parts.foldl (fun s p => if bitAt p.data 63 then s.observeFlag w.ctx p.name else s) s, .done vals)
    | r => r
  | .mon dst =>
    match a.parts with
    | p :: _ =>
      match s.readAt a.space p.addr p.bytes with
      | (s, .error (cause, info)) => (s, .fault cause p.name info)
      | (s, .ok v) => (s, .done (wordsTo dst v (p.bytes / 4)))
    | [] => (s, .done [])
  | .atom op ty b c dst =>
    match a.parts with
    | p :: _ =>
      match s.readAt a.space p.addr p.bytes with
      | (s, .error (cause, info)) => (s, .fault cause p.name info)
      | (s, .ok old) =>
        match s.writeAt a.space p.addr p.bytes (atomResult op ty.toNat old b.toNat c.toNat) (some w.uid) with
        | (s, some (cause, info)) => (s, .fault cause p.name info)
        | (s, none) => (s, .done (match dst with | some d => wordsTo d old (p.bytes / 4) | none => []))
    | [] => (s, .done [])
  | .mold _ _ _ _ => (s, .done [])
  | .fence _ => (s, .done [])
  | .ask _ _ => (s, .done [])

/-! ### Completion -/

/-- Accesses of an instruction are still to come. -/
def State.outstanding (s : State) (w : Warp) (seq : Nat) : Bool :=
  w.pending.any (fun a => a.seq == seq) || s.channels.any (fun o => o.warp == w.uid && o.access.seq == seq)

/-- A late fault noted for an instruction: the lanes join, the lowest lane names it (19 R401). -/
def noteLate (l : List (Nat × Trap)) (seq : Nat) (t : Trap) : List (Nat × Trap) :=
  match l.find? (fun x => x.1 == seq) with
  | none => l ++ [(seq, t)]
  | some (_, u) =>
    let low := if (lowestLane t.mask).getD 32 < (lowestLane u.mask).getD 32 then t else u
    l.map (fun x => if x.1 == seq then (seq, { low with mask := t.mask ||| u.mask }) else x)

/-- Values written to vector registers. -/
def Warp.landValues (w : Warp) (vals : List (Nat × Nat × Word)) : Warp :=
  { w with
    regs := vals.foldl (fun r v => r.setVec v.1 v.2.1 v.2.2) w.regs,
    errors := w.errors.filter (fun e => !(e.kind == .vec && vals.any (fun v => v.1 == e.reg && v.2.1 == e.lane))) }

/-- Values as words of the registers that an instruction writes, counted from the first, for the load-value queue (11 R244). -/
def valueWords (regs : List (RegKind × Nat)) (vals : List (Nat × Nat × Word)) : List (Nat × Nat × Word) :=
  let first := (regs.head?.map (fun r => r.2)).getD 0
  vals.map (fun v => (v.1 - first, v.2.1, v.2.2))

/-- The results of an instruction whose accesses are complete land in its registers, and reach the shadow (12 R271, R272; 11 R244). -/
def State.landScored (s : State) (uid : Nat) (e : Scored) : State :=
  let (s, vals) := s.landing e.early e.vals
  s.onWarp uid (fun w => Warp.fillValue e.seq (valueWords e.regs e.vals) ({ w with scored := w.scored.filter (fun x => x.seq != e.seq) }.landValues vals))

/-- An instruction whose last access has completed: its results land, or its late fault traps, the quads of its gang, which it holds, back at it (05 R121). The
shadow has issued it and no instruction of it raises that fault. A line or register that cannot be restarted from is a trap; other uncorrectable data is too
(19 Table 19-3 row 7). -/
def State.finishAccess (s : State) (uid seq : Nat) (pc : BitVec 55) : State :=
  match s.warpOf uid with
  | none => s
  | some w =>
    if s.outstanding w seq then s
    else
      match w.late.find? (fun x => x.1 == seq) with
      | some (_, t) =>
        let gang := (w.quad ((lowestLane t.mask).getD 0 / 4)).gang
        let quads := w.aliveQuads.filter (fun q => (w.quad q).gang == gang || quadBits t.mask q != 0)
        let w := { w with
          late := w.late.filter (fun x => x.1 != seq), scored := w.scored.filter (fun e => e.seq != seq),
          trail := w.trail.filter (fun h => h.seq != seq) }
        let w := w.onQuads quads (fun q => { q with path := { q.path with pc } })
        let unit := natField (t.info.getD 0) 28 4
        if t.cause == 0x0E && unit != 5 then (s.putWarp w).restartOrTrap uid false 0x0E unit (natField (t.info.getD 0) 16 8) t.mask pc
        else (s.putWarp w).takeTrapOf true uid t
      | none =>
        match w.scored.find? (fun e => e.seq == seq) with
        | some e => s.landScored uid e
        | none => s

/-- Executing an `atom`, `red` or `tflag` clears REGION.VALID once its effect begins: with the first of its accesses performed (11 R241). A shadow clears
its own. -/
def Access.clears (a : Access) : Bool :=
  match a.kind with | .atom _ _ _ _ _ => true | .tileFlag => true | _ => false

/-- What `mbind`, `mbmap` and `mrest` give the shadow: the slots and the step state that they set (11 R244, 17 R359). -/
def Access.moldValue (a : Access) (w : Warp) : Option LoadValue :=
  let slots (l : List Nat) : List (Nat × Option Binding) := l.map (fun n => (n, w.slotOf n))
  match a.kind with
  | .mold .mbind x _ _ => some { ready := true, words := [], slots := slots [x.d.toNat % 8], step := none }
  | .mold .mbmap x _ _ => some { ready := true, words := [], slots := slots [x.d.toNat % 8], step := none }
  | .mold .mrest x _ _ =>
    some { ready := true, words := [], slots := if bitAt x.e 0 then slots [1, 2, 3, 4, 5, 6, 7] else [],
           step := if bitAt x.e 1 then some w.mstep else none }
  | _ => none

/-- The outcome of an access noted: a helper lane's failure is ignored and gives zero (05 R116). -/
def State.noteActed (s : State) (uid : Nat) (a : Access) (r : Acted) : State :=
  let zeros : List (Nat × Word) := match a.kind with
    | .load dst _ => dst.map (fun d => (d, 0))
    | .mon d => (match a.parts with | p :: _ => wordsTo d 0 (p.bytes / 4) | [] => [])
    | _ => []
  let s := s.onWarp uid (fun w =>
    match r with
    | .done vals =>
      { (if a.clears then w.clearRegion else w) with
        trail := match a.moldValue w with
          | some v => w.trail.map (fun h => if h.seq == a.seq then { h with value := some v } else h)
          | none => w.trail,
        scored := w.scored.map (fun e => if e.seq == a.seq then { e with vals := e.vals ++ vals.map (fun v => (v.1, a.lane, v.2)) } else e) }
    | .fault cause addr info =>
      if a.helper then
        { w with
          scored := w.scored.map (fun e => if e.seq == a.seq then { e with vals := e.vals ++ zeros.map (fun v => (v.1, a.lane, v.2)) } else e) }
      else
        { w with
          late := noteLate w.late a.seq { cause, mask := a.blame, addr, first := a.pc.toNat, info } })
  (s.finishAccess uid a.seq a.pc).settle uid

end Sys2Proof.Machine
end

