-- ==== Sys2Proof/Machine/Memory.lean ====
section
/-!
DEFINITION. Loads and stores, atomics, fences, monitors, waits and tile flags: opcodes 0x80 to 0x8D (19 R398 to R417).
-/
namespace Sys2Proof.Machine

/-! ### Issuing accesses -/

/-- What the lanes of an instruction ask of memory: the trap of a failed check, or the accesses and what is known of the results. -/
inductive Found where
  | trap (t : Trap)
  | accs (accs : List Access) (now : List (Nat × Nat × Word))
deriving DecidableEq, Repr

/-- What is compared of an access: lane, addresses or offsets, data and bytes (11 R245). -/
def Access.digest (a : Access) : List Nat :=
  a.lane :: a.parts.flatMap (fun p => [p.name, p.bytes, p.data.toNat])
    ++ match a.kind with | .atom _ _ b c _ => [b.toNat, c.toNat] | .mold _ _ off bank => [off, bank] | _ => []

/-- An instruction whose accesses are compared has one, where it has any (11 R241): a shadow's effect begins where it is released. -/
def Ctx.begins (c : Ctx) : Bool := c.any && match c.op with | .atom | .red | .tflag => true | _ => false

/-- An instruction that asks memory for something: its checks first, then its accesses enter the pending list. In paired mode the leading warp keeps what its shadow
compares and takes, and is not ready while it has no room for it (11 R244, R245). -/
def accessEffect (compared : Bool) (f : State → Ctx → State × Found) (s : State) (c : Ctx) : Done :=
  let rs := writeRegs c.op c.x c.form
  let valued := rs != [] || match c.op with | .mbind | .mbmap | .mrest => true | _ => false
  match f s c with
  | (s', .trap t) => if t.cause == 0 then .absent else .trap s' c.warp.uid t
  | (s', .accs accs now) =>
    let digest := c.digest (accs.flatMap Access.digest)
    match c.trail with
    | some _ =>
      if !compared then takeValue s' c
      else match offerOp valued digest s' c with
        | .ok s => .ok (s.onWarp c.warp.uid (fun v => if c.begins && v.wentOn c.warp then v.clearRegion else v))
        | d => d
    | none =>
      let entry : Option Trail :=
        if !c.warp.paired then none
        else some { c.entry with
          compared := if compared then some digest else none,
          value := if !valued then none else some { LoadValue.pending with ready := accs == [], words := valueWords rs now } }
      if c.warp.paired && ((compared && c.warp.bufferFull) || (valued && c.warp.queueFull)) then stall s c
      else if accs == [] then
        let (s', vals) := s'.landing (earlyLanes c.warp c.quads rs) now
        .ok (finishWarp (s'.onWarp c.warp.uid (fun w => { w.landValues vals with trail := w.trail ++ entry.toList })) c true)
      else .ok (finishWarp (s'.enqueue c accs rs now entry) c true)

/-- A store that is performed at its issue: its checks, then its comparison (11 R245), then `perform`. -/
def storeEffect (f : State → Ctx → State × Found) (perform : State → Ctx → List Access → Done) (s : State) (c : Ctx) : Done :=
  match f s c with
  | (s', .trap t) => if t.cause == 0 then .absent else .trap s' c.warp.uid t
  | (s', .accs accs _) =>
    comparedEffect false false (fun _ _ => accs.flatMap Access.digest) (fun s c => perform s c accs) s' c

/-- A list in an order that the device does not say. -/
def State.anyOrder {α : Type} (s : State) : List α → State × List α
  | [] => (s, [])
  | a :: l =>
    let (s, l) := State.anyOrder s l
    let (k, s) := s.chooseNat
    let k := k % (l.length + 1)
    (s, l.take k ++ a :: l.drop k)

/-- The lanes of one store in the order in which they act: where two write one byte, either value remains, in cast mode that of the highest lane (07 R152,
R170). -/
def State.laneOrder (s : State) (cast : Bool) (accs : List Access) : State × List Access :=
  if !cast && accs.any (fun a => accs.any (fun b => a.lane != b.lane && a.meets b)) then s.anyOrder accs else (s, accs)

/-! ### The words of a lane (19 R402) -/

/-- Fields of E of a load or store. -/
def Ctx.sub (c : Ctx) : Bool := bitAt c.x.e 3
def Ctx.layout (c : Ctx) : Nat := bitField c.x.e 8 2
def Ctx.order (c : Ctx) : Option Scope := if bitField c.x.e 4 2 == 0 then none else some (scopeOf (bitField c.x.e 6 2))

/-- The offset of a lane, the access width, and the number of registers. -/
def Ctx.offset (c : Ctx) (l : Nat) : Nat := (c.a l + c.b l) % 2 ^ 32
def Ctx.width (c : Ctx) : Nat := if c.sub then tyWidth c.ty / 8 else 4 * memWords c.x
def Ctx.words (c : Ctx) : Nat := if c.sub then 1 else memWords c.x

/-- The parts of a lane's access at an offset: one for each word, or one for a narrow element. -/
def Ctx.partsAt (c : Ctx) (key : Nat → Nat) (o : Nat) (data : Nat) : List Part :=
  (List.range c.words).map (fun w =>
    let p := layoutOf (o + 4 * w) c.layout
    { addr := key p, bytes := min c.width 4, data := BitVec.ofNat 64 (natField data (32 * w) 32), name := p, laid := 0 })

/-- The registers of a load and whether its element is extended with its sign. -/
def Ctx.loadKind (c : Ctx) : AccessKind :=
  .load ((List.range c.words).map (fun w => if c.x.d == 255 then 255 else c.x.d.toNat + w)) (c.sub && tySigned c.ty)

/-- The zeros that helper lanes get where a check fails (05 R116). -/
def helperZeros {α : Type} (c : Ctx) (dst : List Nat) (rs : List (Nat × Except Bad α)) : List (Nat × Nat × Word) :=
  rs.flatMap (fun r =>
    match r.2 with
    | .error _ => if c.warp.helper.getLsbD r.1 then dst.map (fun d => (d, r.1, 0)) else []
    | .ok _ => [])

/-- Registers of a load. -/
def AccessKind.dsts (k : AccessKind) : List Nat := match k with | .load dst _ => dst | _ => []

/-- What the checked lanes of a load ask for. -/
def Ctx.loads (c : Ctx) (space : Space) (rs : List (Nat × Except Bad (List Part))) : Found :=
  match lanesTrap c.warp.helper c.pc.toNat rs with
  | some t => .trap t
  | none =>
    .accs ((lanesOk rs).map (fun r => { c.accessOf r.1 space none c.loadKind r.2 with acq := c.order }))
      (helperZeros c c.loadKind.dsts rs)

/-- What the checked lanes of a store ask for. -/
def Ctx.stores (c : Ctx) (space : Space) (rs : List (Nat × Except Bad (List Part))) : Found :=
  match lanesTrap c.warp.helper c.pc.toNat rs with
  | some t => .trap t
  | none => .accs ((lanesOk rs).map (fun r => { c.accessOf r.1 space none .store r.2 with rel := c.order })) []

/-! ### Block memory -/

/-- A lane's block-memory access. -/
def Ctx.blkLane (c : Ctx) (b : Block) (write : Bool) (l : Nat) : Except Bad (List Part) :=
  let o := c.offset l
  match b.check o c.width c.width c.layout write with
  | some e => .error e
  | none => .ok (c.partsAt b.key o (if write then c.c l else 0))

def findLdb (s : State) (c : Ctx) : State × Found :=
  let b := s.blockAt c.warp.block
  (s, c.loads .blk ((laneList c.lanes).map (fun l => (l, c.blkLane b false l))))

def findStb (s : State) (c : Ctx) : State × Found :=
  let b := s.blockAt c.warp.block
  (s, c.stores .blk ((laneList c.real).map (fun l => (l, c.blkLane b true l))))

/-! ### Overrun speculation (07 R162, R163) -/

/-- The granule of a space that holds a byte. -/
def Speculation.granule (x : Speculation) (space : Space) (key : Nat) : Option Granule :=
  x.buffer.find? (fun g => g.space == space && g.base == key / 32 * 32)

/-- Which of the bytes of a part are buffered, and their values. -/
def Speculation.lay (x : Speculation) (space : Space) (p : Part) : Part :=
  match x.granule space p.addr with
  | none => p
  | some g =>
    { p with
      laid := BitVec.ofNat 8 (natField g.valid.toNat (p.addr % 32) p.bytes),
      data := BitVec.ofNat 64 (g.bytes.read (p.addr % 32) p.bytes) }

/-- A part merged into the buffer, or none when that needs a 129th entry. -/
def Speculation.buffer1 (x : Speculation) (space : Space) (p : Part) : Option Speculation :=
  let merge (g : Granule) : Granule :=
    { g with
      bytes := g.bytes.write (p.addr % 32) p.bytes p.data.toNat,
      valid := g.valid ||| BitVec.ofNat 32 ((2 ^ p.bytes - 1) * 2 ^ (p.addr % 32)) }
  match x.granule space p.addr with
  | some g => some { x with buffer := x.buffer.map (fun h => if h.space == g.space && h.base == g.base then merge h else h) }
  | none =>
    if x.buffer.length ≥ 128 then none
    else some { x with buffer := x.buffer ++ [merge { space, base := p.addr / 32 * 32, bytes := [], valid := 0 }] }

/-- Every part of some stores merged in lane order. -/
def Speculation.bufferAll (x : Speculation) (space : Space) (ps : List Part) : Option Speculation :=
  ps.foldl (fun x p => x.bind (fun x => x.buffer1 space p)) (some x)

/-- A part that the buffer supplies whole. -/
def Part.buffered (p : Part) : Bool := p.laid == BitVec.ofNat 8 (2 ^ p.bytes - 1)

/-- The granules of the loads that are performed join the read set, or none when that needs a 257th entry. A load that the buffer supplies whole is not. -/
def Speculation.record (x : Speculation) (accs : List Access) : Option Speculation :=
  let ps := (accs.filter (fun a => !a.parts.all Part.buffered)).flatMap (fun a => a.parts)
  let reads := ps.foldl (fun l p => if l.contains (p.addr / 32) then l else l ++ [p.addr / 32]) x.reads
  if reads.length > 256 then none else some { x with reads }

/-- A store while speculating: into the buffer; in paired mode it is compared first (11 R246). A shadow's is compared and dropped. -/
def specStore (space : Space) (f : State → Ctx → State × Found) : State → Ctx → Done :=
  storeEffect f (fun s c accs =>
    let (s', accs) := s.laneOrder c.warp.cast accs
    match c.warp.spec.bind (fun x => x.bufferAll space (accs.flatMap (fun a => a.parts))) with
    | none => stall s c
    | some x => .ok (finishWarp (s'.onWarp c.warp.uid (fun w => { w with spec := some x })) c true))

/-- What a block-memory load asks for while speculating, and the speculation with its read set, or none where that has no room. -/
def Found.laid (x : Speculation) : Found → Found × Option Speculation
  | .trap t => (.trap t, some x)
  | .accs l now =>
    let l := l.map (fun a => { a with parts := a.parts.map (fun p => x.lay .blk p) })
    (.accs l now, x.record l)

/-- A block-memory load while speculating. -/
def specLoad (x : Speculation) (s : State) (c : Ctx) : Done :=
  let (found, x) := (findLdb s c).2.laid x
  match x with
  | none => stall s c
  | some x =>
    accessEffect false (fun s _ => (match found with | .trap _ => s | _ => s.onWarp c.warp.uid (fun w => { w with spec := some x }), found)) s c

/-- The speculation in which an instruction takes part: a shadow, which buffers and reads nothing itself, in none. -/
def Ctx.speculation (c : Ctx) : Option Speculation := if c.trail.isSome then none else c.warp.spec

/-- LDB. -/
def execLdb (x : Fields) (s : State) : Out :=
  issue (fun s c => match c.speculation with | some v => specLoad v s c | none => accessEffect false findLdb s c) .ldb x s

/-- STB. -/
def execStb (x : Fields) (s : State) : Out :=
  issue (fun s c => match c.warp.spec with | some _ => specStore .blk findStb s c | none => accessEffect true findStb s c) .stb x s

/-! ### The die scratchpad -/

/-- A lane's scratchpad access, in the window of a die. -/
def Ctx.spadLane (c : Ctx) (base len : Nat) (write : Bool) (l : Nat) : Except Bad (List Part) :=
  let o := c.offset l
  match checkSpad len o c.width c.width with
  | some e => .error e
  | none => .ok (c.partsAt (spadKey (coreDie c.core) base) o (if write then c.c l else 0))

def findLdd (s : State) (c : Ctx) : State × Found :=
  let w := s.window c.warp.ctx (coreDie c.core)
  (s, c.loads .spad ((laneList c.lanes).map (fun l => (l, c.spadLane w.1 w.2 false l))))

def findStd (s : State) (c : Ctx) : State × Found :=
  let w := s.window c.warp.ctx (coreDie c.core)
  (s, c.stores .spad ((laneList c.real).map (fun l => (l, c.spadLane w.1 w.2 true l))))

/-- LDD. -/
def execLdd (x : Fields) (s : State) : Out := issue (accessEffect false findLdd) .ldd x s

/-- STD. -/
def execStd (x : Fields) (s : State) : Out := issue (accessEffect true findStd) .std x s

/-! ### The warp stack (06 R127, R128) -/

/-- A line of the stack cache, filled when it is missed, beside the lines of the same instruction; `o` is the offset that missed it. A shadow has the lines of its
leading warp and reads and writes none. -/
def State.stackLine (s : State) (uid line o : Nat) (keep : List Nat) : State × Option Bad :=
  match s.warpOf uid with
  | none => (s, none)
  | some w =>
    if w.lines.contains line || (w.hidden && (s.shadowOf uid).any (fun v => v.lines.contains line)) then (s, none)
    else
      match s.translate w.core w.ctx ((s.stackOf w).1 + lineBytes * line) .rw with
      | (s, .error (cause, info)) => (s, some ⟨cause, o, info⟩)
      | (s, .ok key) =>
        if s.rangeBad key lineBytes then (s, some ⟨0x0E, o, badLineInfo⟩)
        else if w.hidden then (s, none)
        else
          let s := s.roomForLine uid w.core keep
          (s.onWarp uid (fun w =>
            { w with lines := w.lines ++ [line], cache := w.cache.setBytes (lineBytes * line) (s.dev.bytes key lineBytes) }), none)

/-- A lane's stack access: rows 2 to 4. -/
def stackLane (c : Ctx) (len : Nat) (write : Bool) (s : State) (l : Nat) : State × Except Bad (List Part) :=
  let o := c.offset l
  let n := c.width
  if o + n > len then (s, .error ⟨0x1B, max o len, some 0⟩)
  else if o % n != 0 then (s, .error ⟨0x04, o, none⟩)
  else
    match s.stackLine c.warp.uid (o / lineBytes) o ((laneList c.lanes).map (fun l => c.offset l / lineBytes)) with
    | (s, some e) => (s, .error e)
    | (s, none) => (s, .ok (c.partsAt (fun p => p) o (if write then c.c l else 0)))

def findLdk (s : State) (c : Ctx) : State × Found :=
  let (s', rs) := checkLanes (stackLane c (s.stackOf c.warp).2 false) s (laneList c.lanes)
  (s', c.loads .stack rs)

def findStk (s : State) (c : Ctx) : State × Found :=
  let (s', rs) := checkLanes (stackLane c (s.stackOf c.warp).2 true) s (laneList c.real)
  (s', c.stores .stack rs)

/-- A word of the stack as a load reads it: a clean line whose memory another agent wrote gives the old or the new word (06 R128). -/
def State.stackWord (s : State) (w : Warp) (p : Part) : State × Nat :=
  let v := w.cache.read p.addr p.bytes
  if w.dirty.contains (p.addr / lineBytes) then (s, v)
  else
    match (s.translate w.core w.ctx ((s.stackOf w).1 + p.addr) .r).2 with
    | .error _ => (s, v)
    | .ok key =>
      let now := s.dev.read key p.bytes
      if now == v then (s, v)
      else
        let (k, s) := s.chooseNat
        (s, if natBit k 0 then now else v)

/-- The words of one lane's load. -/
def State.stackWords (s : State) (w : Warp) (lane : Nat) (sg : Bool) : List Part → List Nat → State × List (Nat × Nat × Word)
  | p :: ps, d :: ds =>
    let (s, v) := s.stackWord w p
    let (s, vs) := State.stackWords s w lane sg ps ds
    (s, (d, lane, BitVec.ofNat 32 (loadValue sg p.bytes (p.lay v))) :: vs)
  | _, _ => (s, [])

/-- The words of every lane. -/
def State.stackLoads (s : State) (w : Warp) (sg : Bool) (dst : List Nat) : List Access → State × List (Nat × Nat × Word)
  | [] => (s, [])
  | a :: as =>
    let (s, vs) := s.stackWords w a.lane sg a.parts dst
    let (s, us) := State.stackLoads s w sg dst as
    (s, vs ++ us)

/-- The lanes that read a line with an uncorrectable error (11 R248). -/
def badStackLanes (w : Warp) (accs : List Access) : LaneMask :=
  accs.foldl (fun m a => if a.parts.any (fun p => w.badLines.contains (p.addr / lineBytes)) then maskSet m a.lane true else m) 0

/-- A stack load: performed at issue. A helper lane that consumes an error receives zero (05 R116). -/
def ldkPerform (accs : List Access) (now : List (Nat × Nat × Word)) (s : State) (c : Ctx) : Done :=
  match s.warpOf c.warp.uid with
  | none => .ok s
  | some w =>
    let lay (p : Part) : Part := match w.spec with | some x => x.lay .stack p | none => p
    let accs := accs.map (fun a => { a with parts := a.parts.map lay })
    let bad := badStackLanes w accs
    if bad &&& ~~~w.helper != 0 then .consumed s 4 0 (bad &&& ~~~w.helper)
    else
      let void := (laneList bad).flatMap (fun l => c.loadKind.dsts.map (fun d => (d, l, (0 : Word))))
      let (s, vals) := s.stackLoads w (c.sub && tySigned c.ty) c.loadKind.dsts (accs.filter (fun a => !bad.getLsbD a.lane))
      let (s, vals) := s.landing (earlyLanes c.warp c.quads (writeRegs c.op c.x c.form)) (now ++ void ++ vals)
      .ok (finishWarp (s.onWarp w.uid (fun w => w.landValues vals)) c true)

def ldkEffect (s : State) (c : Ctx) : Done :=
  match findLdk s c with
  | (s', .trap t) => if t.cause == 0 then .absent else .trap s' c.warp.uid t
  | (s', .accs accs now) => valueEffect (ldkPerform accs now) s' c

/-- A stack store: performed at issue, or put into the overrun buffer. -/
def stkEffect (s : State) (c : Ctx) : Done :=
  match c.warp.spec with
  | some _ => specStore .stack findStk s c
  | none =>
    storeEffect findStk
      (fun s c accs =>
        let (s, accs) := s.laneOrder c.warp.cast accs
        let put (w : Warp) (p : Part) : Warp :=
          { w with
            cache := w.cache.write p.addr p.bytes p.data.toNat,
            dirty := if w.dirty.contains (p.addr / lineBytes) then w.dirty else w.dirty ++ [p.addr / lineBytes] }
        .ok (finishWarp (s.onWarp c.warp.uid (fun w => (accs.flatMap (fun a => a.parts)).foldl put w)) c true))
      s c

/-- LDK. -/
def execLdk (x : Fields) (s : State) : Out := issue ldkEffect .ldk x s

/-- STK. -/
def execStk (x : Fields) (s : State) : Out := issue stkEffect .stk x s

/-! ### Atomics, reductions and monitors -/

/-- SCOPE of `atom`, `red`, `mon` and `wait` (19 Table 19-2). -/
def Ctx.scope (c : Ctx) : Scope := scopeOf (bitField c.x.e 0 2)

/-- The operation of F (19 R405). -/
def atomOpOf (f : Nat) : AtomOp :=
  match f with | 0 => .add | 1 => .min | 2 => .max | 3 => .and | 4 => .or | 5 => .xor | 6 => .exch | _ => .cas

/-- A spot as the one part of an access. -/
def Spot.part (p : Spot) (n : Nat) : Part := { addr := p.key, bytes := n, data := 0, name := p.name, laid := 0 }

/-- The words that lanes of an instruction with a SCOPE name. -/
def Ctx.spots (c : Ctx) (s : State) (n : Nat) (need : Right) (lanes : LaneMask) : State × List (Nat × Except Bad Spot) :=
  checkLanes (fun s l => s.spot c.warp (s.blockAt c.warp.block) c.scope (c.a l) n need) s (laneList lanes)

/-- What an `atom` or `red` asks for. -/
def findAtom (ret : Bool) (s : State) (c : Ctx) : State × Found :=
  let n := tyWidth c.ty / 8
  let ord := bitField c.x.e 2 2
  let (s, rs) := c.spots s n .rw c.real
  match lanesTrap c.warp.helper c.pc.toNat rs with
  | some t => (s, .trap t)
  | none =>
    (s, .accs
      ((lanesOk rs).map (fun r =>
        { c.accessOf r.1 r.2.space r.2.remote
            (.atom (atomOpOf c.x.f.toNat) c.x.t (BitVec.ofNat 64 (c.b r.1)) (BitVec.ofNat 64 (if c.x.f == 7 then c.c r.1 else 0))
              (if ret then some c.x.d.toNat else none)) [r.2.part n] with
          acq := if ord == 1 || ord == 3 then some c.scope else none,
          rel := if ord == 2 || ord == 3 then some c.scope else none }))
      [])

/-- Cast mode refuses an atomic beyond the block or on floating values (19 R406). -/
def atomEffect (ret : Bool) (s : State) (c : Ctx) : Done :=
  if c.warp.cast && c.real != 0 && (c.scope != .blk || c.ty == 3 || c.ty == 15) then laneTrap s c c.real 0x0C none none
  else accessEffect true (findAtom ret) s c

/-- ATOM. -/
def execAtom (x : Fields) (s : State) : Out := issue (atomEffect true) .atom x s

/-- RED. -/
def execRed (x : Fields) (s : State) : Out := issue (atomEffect false) .red x s

/-- What a `mon` asks for (19 R414): a helper lane gets zero where its check fails. -/
def findMon (s : State) (c : Ctx) : State × Found :=
  let n := tyWidth c.ty / 8
  let (s, rs) := c.spots s n .r c.lanes
  match lanesTrap c.warp.helper c.pc.toNat rs with
  | some t => (s, .trap t)
  | none =>
    (s, .accs
      ((lanesOk rs).map (fun r =>
        { c.accessOf r.1 r.2.space r.2.remote (.mon c.x.d.toNat) [r.2.part n] with
          acq := if bitAt c.x.f 0 then some c.scope else none }))
      (helperZeros c ((List.range (tyRegs c.ty)).map (fun i => c.x.d.toNat + i)) rs))

/-- MON. -/
def execMon (x : Fields) (s : State) : Out := issue (accessEffect false findMon) .mon x s

/-! ### Waits (19 R415) -/

/-- A lane of a wait, armed: its read is still to come. -/
def Spot.waitLane (p : Spot) (l : Nat) (operand : Nat) : WaitLane :=
  { lane := l, space := p.space, name := p.name, addr := p.key, remote := p.remote, operand := BitVec.ofNat 64 operand, result := none,
    stirred := true }

/-- A `wait` whose lanes have passed their checks: the gang parks at it until every participating lane's word has satisfied its comparison. -/
def waitPark (ls : List (Nat × Spot)) (s : State) (c : Ctx) : Done :=
  let n := tyWidth c.ty / 8
  let entry : Trail := { c.entry with value := some { LoadValue.pending with ready := ls == [] } }
  if c.warp.paired && c.warp.queueFull then stall s c
  else
    let (k, s) := s.newUid
    let s := if c.warp.paired then s.pushTrail c.warp.uid { entry with seq := k } else s
    if ls == [] then .ok (finishWarp s c true)
    else
      let x : Waiting :=
        { seq := k, early := earlyLanes c.warp c.quads (writeRegs c.op c.x c.form), pc := c.pc, len := c.len, quads := quadSet c.quads, wide := n == 8,
          ne := bitAt c.x.e 2, acq := if bitAt c.x.f 0 then some c.scope else none, ext := bitAt c.x.f 1, dst := c.x.d.toNat,
          timeout := bitField c.x.e 3 12, since := s.hb, lanes := ls.map (fun r => r.2.waitLane r.1 (c.b r.1)) }
      .ok ((finishWarp s c false).onWarp c.warp.uid (fun w =>
        { w.onQuads c.quads (fun q => { q with park := .waiting }) with waits := w.waits ++ [x] }))

/-- A `wait`; the shadow takes its result (11 R244). -/
def waitEffect (s : State) (c : Ctx) : Done :=
  let (s', rs) := c.spots s (tyWidth c.ty / 8) .r c.real
  match lanesTrap c.warp.helper c.pc.toNat rs with
  | some t => if t.cause == 0 then .absent else .trap s' c.warp.uid t
  | none => if c.trail.isSome then takeValue s' c else waitPark (lanesOk rs) s' c

/-- WAIT. -/
def execWait (x : Fields) (s : State) : Out := issue waitEffect .wait x s

/-! ### Tile flags (19 R416) -/

/-- The tile of a lane: its space, base and length, none on another die's scratchpad, which no access of the warp reaches; or the check
that fails. -/
def State.tileAt (s : State) (c : Ctx) (l : Nat) : Except Bad (Option (Space × Nat × Nat)) :=
  let tloc := bitField c.x.e 0 4
  let len := 64 * bitField c.x.e 4 16
  let base := c.c l
  if tloc == 0 then
    if base + len > 2 ^ 55 then .error ⟨0x05, some (max base (2 ^ 55)), none⟩ else .ok (some (.dev, base, len))
  else if tloc == 1 then
    let b := s.blockAt c.warp.block
    if !b.holds base len then .error ⟨0x05, if base ≥ 2 ^ 21 then base else max base b.bmem, none⟩ else .ok (some (.blk, base, len))
  else
    let (_, window) := s.window c.warp.ctx (tloc - 4)
    if window == 0 then .error ⟨0x05, base, none⟩
    else if base + len > window then .error ⟨0x05, max base window, none⟩
    else .ok (if tloc - 4 == coreDie c.core then some (.spad, base, len) else none)

/-- A lane of a `tflag`: the tile's range, the flag's range, both alignments, then the flag's page. -/
def tflagLane (c : Ctx) (s : State) (l : Nat) : State × Except Bad (Nat × Option (BitVec 10) × Option (Space × Nat × Nat)) :=
  match s.tileAt c l with
  | .error e => (s, .error e)
  | .ok tile =>
    if c.a l ≥ 2 ^ 55 then (s, .error ⟨0x05, c.a l, none⟩)
    else if c.a l % 8 != 0 then (s, .error ⟨0x04, c.a l, none⟩)
    else if c.c l % 64 != 0 then (s, .error ⟨0x04, c.c l, none⟩)
    else
      match s.checkDev c.core c.warp.ctx (c.a l) 8 .w with
      | (s, .error e) => (s, .error e)
      | (s, .ok (key, remote)) => (s, .ok (key, remote, tile))

def findTflag (s : State) (c : Ctx) : State × Found :=
  let (s, rs) := checkLanes (tflagLane c) s (laneList c.real)
  match lanesTrap c.warp.helper c.pc.toNat rs with
  | some t => (s, .trap t)
  | none =>
    (s, .accs
      ((lanesOk rs).map (fun r =>
        { c.accessOf r.1 .dev r.2.2.1 .tileFlag
            [{ addr := r.2.1, bytes := 8, data := BitVec.ofNat 64 (c.b r.1), name := c.a r.1, laid := 0 }] with
          tile := r.2.2.2 }))
      [])

/-- TFLAG. -/
def execTflag (x : Fields) (s : State) : Out := issue (accessEffect true findTflag) .tflag x s

/-! ### Fences (19 R407, R408; 07 R151, R156) -/

/-- A fence enters the pending list; a shadow has no accesses that it could order. -/
def fenceEffect (sc : Scope) : State → Ctx → Done :=
  warpEffect (fun s c =>
    let (k, s) := s.newUid
    if c.trail.isSome then .ok (finishWarp s c true)
    else .ok ((finishWarp s c true).onWarp c.warp.uid (fun w =>
      Warp.tidy { w with pending := w.pending ++ [{ c.accessOf (4 * c.quads.headD 0) .blk none (.fence sc) [] with seq := k }] })))

/-- FENCE_BLK. -/
def execFenceBlk (x : Fields) (s : State) : Out := issue (fenceEffect .blk) .fenceBlk x s

/-- FENCE_CLU. -/
def execFenceClu (x : Fields) (s : State) : Out := issue (fenceEffect .clu) .fenceClu x s

/-- FENCE_DEV. -/
def execFenceDev (x : Fields) (s : State) : Out := issue (fenceEffect .dev) .fenceDev x s

/-- FENCE_SYS. -/
def execFenceSys (x : Fields) (s : State) : Out := issue (fenceEffect .sys) .fenceSys x s

/-- FENCE_TICK: the gang is not ready until the fence completes; a second one of the warp waits for the first. -/
def execFenceTick (x : Fields) (s : State) : Out :=
  issue
    (warpEffect (fun s c =>
      if c.trail.isSome then .ok (finishWarp s c true)
      else if c.warp.tick.isSome then stall s c
      else
        let (k, s) := s.newUid
        .ok ((finishWarp s c true).onWarp c.warp.uid (fun w =>
          { w.onQuads c.quads (fun q => { q with park := .fenceTick }) with
            tick := some { quads := quadSet c.quads, seq := k, edge := none } }))))
    .fenceTick x s

/-- A store or atomic, which `rfence` waits for. -/
def AccessKind.writes (k : AccessKind) : Bool :=
  match k with
  | .store | .tileFlag => true
  | .atom _ _ _ _ _ => true
  | .mold o _ _ _ => o == Op.mstore || o == Op.msave
  | _ => false

/-- RFENCE: the 32 shape records of the core are dropped once the warp's stores and atomics are complete. A shadow drops none (19 R408). -/
def execRfence (x : Fields) (s : State) : Out :=
  issue
    (warpEffect (fun s c =>
      if c.trail.isSome then .ok (finishWarp s c true)
      else if c.warp.pending.any (fun a => a.kind.writes) || s.channels.any (fun o => o.warp == c.warp.uid && o.access.kind.writes) then
        stall s c
      else .ok (finishWarp (s.onCore c.core (fun k => { k with shapes := [] })) c true)))
    .rfence x s

end Sys2Proof.Machine
end

