-- ==== Sys2Proof/Machine/Molds.lean ====
section
/-!
DEFINITION. Mold instructions: opcodes 0x70 to 0x7C (17 R356 to R375; 10 R221 to R226, R234, R236).
-/
namespace Sys2Proof.Machine

/-! ### Banks of blocks -/

/-- The banks that a block holds on a core. -/
def Block.banksOn (b : Block) (core : Nat) : BitVec 64 :=
  match b.cores.findIdx? (fun c => c == core) with
  | some i => b.banks.getD i 0
  | none => 0

/-- A block with other banks on a core. -/
def Block.setBanks (b : Block) (core : Nat) (m : BitVec 64) : Block :=
  match b.cores.findIdx? (fun c => c == core) with
  | some i => { b with banks := modifyAt (fun _ => m) i b.banks }
  | none => b

/-- The free banks of a core (10 R221). -/
def State.freeBanks (s : State) (core : Nat) : BitVec 64 := ~~~(s.blocks.foldl (fun m b => m ||| b.banksOn core) 0)

/-- The banks of a mask. -/
def bankNumbers (m : BitVec 64) : List Nat := (List.range 64).filter (fun k => m.getLsbD k)

/-- Where a bank's bytes begin. -/
def bankBase (core k : Nat) : Nat := (core * 64 + k) * 4096

/-- Bytes of a bank written, with fresh check bits in the words that they cover (10 R222). -/
def State.fillBank (s : State) (core k off : Nat) (bs : List Byte) : State :=
  let base := bankBase core k
  { s with
    banks := s.banks.setBytes (base + off) bs,
    badBankWords := s.badBankWords.filter (fun e => !(base + off ≤ 4 * e.1 && 4 * e.1 + 4 ≤ base + off + bs.length)) }

/-- A bank zeroed. -/
def State.zeroBank (s : State) (core k : Nat) : State :=
  { s with
    banks := s.banks.zero (bankBase core k) 4096,
    badBankWords := s.badBankWords.filter (fun e => !(bankBase core k ≤ 4 * e.1 && 4 * e.1 < bankBase core k + 4096)) }

/-! ### Binding records (10 Tables 10-1 and 10-2) -/

/-- A record read from 32 bytes, and written. -/
def BindRec.ofBytes (l : List Byte) : BindRec :=
  let f (off n w : Nat) : BitVec w := BitVec.ofNat w (leAt l off n)
  { bank := f 0 1 8, sfmt := f 1 1 8, mfmt := f 2 1 8, res := f 3 1 8, mode := f 4 1 8, preds := f 5 1 8, flags := f 6 1 8, sureg := f 7 1 8,
    bmreg := f 8 1 8, sel := f 9 1 8, rsv10 := f 10 2 16, scale := f 12 4 32, zp := f 16 4 32, rowmap := f 20 4 32, rsv24 := f 24 7 56,
    bound := f 31 1 8 }
def BindRec.toBytes (b : BindRec) : List Byte :=
  [b.bank, b.sfmt, b.mfmt, b.res, b.mode, b.preds, b.flags, b.sureg, b.bmreg, b.sel] ++ leBytes 2 b.rsv10.toNat ++ leBytes 4 b.scale.toNat
    ++ leBytes 4 b.zp.toNat ++ leBytes 4 b.rowmap.toNat ++ leBytes 7 b.rsv24.toNat ++ [b.bound]

/-- The matrix is quantised; it has a scale tile. -/
def BindRec.quantised (b : BindRec) : Bool := b.mf == 11 || b.mf == 12
def BindRec.scaled (b : BindRec) : Bool := b.quantised || b.mscl

/-- The classes of the rows of Table 10-2, by their formats: plain, f64, with groups, and scaled. -/
inductive RowKind where
  | plain | pair | grouped | scaled
deriving DecidableEq, Repr

/-- The row of Table 10-2 that the formats of a record form. -/
def BindRec.rowKind (b : BindRec) : Option RowKind :=
  let half (t : Nat) : Bool := t == 4 || t == 5
  let tiny (t : Nat) : Bool := t == 6 || t == 7
  let byte (t : Nat) : Bool := t == 9 || t == 10
  if b.sf == 15 && b.mf == 15 && b.rf == 15 then some .pair
  else if b.rf == 3 && b.quantised && (half b.sf || byte b.sf) then some .grouped
  else if b.rf == 3 && ((tiny b.sf && tiny b.mf) || (b.sf == 8 && b.mf == 8)) then some .scaled
  else if (b.rf == 3 && ((b.sf == 3 && b.mf == 3) || (half b.sf && half b.mf))) || (b.rf == 1 && (byte b.sf || b.sf ≤ 2) && byte b.mf) then some .plain
  else none

/-- A field that Table 10-2 does not use for the formats of the record is not zero (10 R224); for formats that form no row it uses none. -/
def BindRec.unusedSet (b : BindRec) : Bool :=
  let k := b.rowKind
  (k != some .scaled && b.sureg != 0) || (k != some .scaled && k != some .grouped && b.scale != 0) || (k != some .grouped && b.zp != 0)
    || ((k == none || k == some .pair) && (b.bmreg != 0 || b.sel != 0 || b.rowmap != 0))

/-- A reserved bit, an unused field, a rounding code or BOUND is out of order (10 R226, first row). -/
def BindRec.reservedBad (b : BindRec) : Bool :=
  bitField b.sfmt 5 3 != 0 || bitField b.mfmt 5 3 != 0 || bitField b.res 5 3 != 0 || bitField b.mode 4 4 != 0 || bitField b.preds 6 2 != 0
    || bitField b.flags 5 3 != 0 || bitField b.sureg 6 2 != 0 || b.rsv10 != 0 || b.rsv24 != 0 || bitField b.mode 0 3 == 7 || b.bound != 0
    || b.unusedSet

/-- The formats and FLAGS form a row of Table 10-2. -/
def BindRec.rowOk (b : BindRec) : Bool :=
  match b.rowKind with
  | none => false
  | some .plain => b.grp == 0 && !b.sscl && !b.mscl
  | some .pair => b.grp == 0 && !b.sscl && !b.mscl && !b.sparse
  | some .grouped => b.grp != 0 && !b.sscl && !b.mscl && (b.grp != 3 || b.sf == 9 || b.sf == 10)
  | some .scaled => b.grp == 0

/-- The groups of a quantised binding (10 R231), and the lengths of its tiles and row bitmap. -/
def BindRec.groupCount (b : BindRec) : Nat := b.rows / (32 * 2 ^ (b.grp - 1))
def BindRec.scaleLen (b : BindRec) : Nat := if b.quantised then 64 * b.groupCount else if b.mscl then b.rows else 0
def BindRec.zeroLen (b : BindRec) : Nat := if b.mf == 11 then 32 * b.groupCount else if b.mf == 12 then 16 * b.groupCount else 0
def BindRec.mapLen (b : BindRec) : Nat := if b.sparse && b.rowmap != 1 then b.rows / 8 else 0

/-- The tiles that a record names: where each begins, its length and its alignment. -/
def BindRec.tiles (b : BindRec) : List (Nat × Nat × Nat) :=
  [(b.scale.toNat, b.scaleLen, 64), (b.zp.toNat, b.zeroLen, 32), (b.rowmap.toNat, b.mapLen, 32)].filter (fun t => t.2.1 != 0)

/-- The offset of the first byte that lies beyond a block's memory. -/
def Block.firstBeyond (b : Block) (o : Nat) : Nat := if o ≥ 2 ^ 21 then o else max o b.bmem

/-- The checks of R226 on a record whose bank is `k`. -/
def checkRecord (b : Block) (core slot k : Nat) (r : BindRec) : Option Bad :=
  let bad0a (reason : Nat) : Option Bad := some ⟨0x0A, none, moldInfo reason (if reason == 1 then k % 256 else 255) 3 slot⟩
  if r.reservedBad then some ⟨0x02, none, encInfo 9 0⟩
  else if !r.rowOk then bad0a 0
  else if r.mf == 15 && k % 2 == 1 then bad0a 1
  else if r.sf == 8 && r.sscl && bitAt r.sureg 0 then bad0a 2
  else
    match r.tiles.find? (fun t => t.1 % t.2.2 != 0) with
    | some t => some ⟨0x04, t.1, none⟩
    | none =>
      match r.tiles.find? (fun t => !b.holds t.1 t.2.1) with
      | some t => some ⟨0x05, b.firstBeyond t.1, none⟩
      | none =>
        if k > 63 then some ⟨0x0B, none, moldInfo 4 (k % 256) 3 slot⟩
        else
          match (if r.mf == 15 then [k, k + 1] else [k]).find? (fun n => !(b.banksOn core).getLsbD n) with
          | some n => some ⟨0x0B, none, moldInfo 0 n 3 slot⟩
          | none => none

/-- Bytes of block memory read word by word in a layout; a fault names the word's offset. -/
def State.readWords (s : State) (b : Block) (lay : Nat) : Nat → Nat → State × Except Bad (List Byte)
  | _, 0 => (s, .ok [])
  | o, n + 1 =>
    let p := layoutOf o lay
    match s.readAt .blk (b.key p) 4 with
    | (s, .error (cause, info)) => (s, .error ⟨cause, p, info⟩)
    | (s, .ok v) =>
      match State.readWords s b lay (o + 4) n with
      | (s, .ok bs) => (s, .ok (leBytes 4 v ++ bs))
      | r => r

/-- The binding that a record gives, with its tiles captured (10 R224) and SEL checked (R233). -/
def State.capture (s : State) (b : Block) (slot k : Nat) (r : BindRec) : State × Except Bad Binding :=
  let r := { r with bank := BitVec.ofNat 8 k, bound := 0 }
  match s.readWords b 0 r.scale.toNat (r.scaleLen / 4) with
  | (s, .error e) => (s, .error e)
  | (s, .ok scales) =>
    match s.readWords b 0 r.zp.toNat (r.zeroLen / 4) with
    | (s, .error e) => (s, .error e)
    | (s, .ok zeros) =>
      match s.readWords b 0 r.rowmap.toNat (r.mapLen / 4) with
      | (s, .error e) => (s, .error e)
      | (s, .ok rows) =>
        if r.sparse && (r.sel.toNat % (r.rows / 32) != 0 || r.sel.toNat ≥ 32) then (s, .error ⟨0x0A, none, moldInfo 5 255 3 slot⟩)
        else
          (s, .ok
            { record := r, scales, zeros, rows := if r.rowmap == 1 then ~~~0 else BitVec.ofNat 256 (leAt rows 0 rows.length), freed := false })

/-! ### Mold images (17 R372, R373; 10 R234, R236) -/

/-- The saved form of a slot. -/
def savedBinding : Option Binding → List Byte
  | some b => { b.record with bound := 1 }.toBytes
  | none => leBytes 32 0

/-- The bindings part of an image: 256 bytes. -/
def Warp.bindImage (w : Warp) : List Byte := w.slots.flatMap savedBinding ++ leBytes 32 0

/-- The step state part of an image: 2,568 bytes. -/
def StepState.image (m : StepState) : List Byte :=
  leBytes 8 m.word ++ (if m.active then m.acc.bytes 0 2560 else leBytes 2560 0)

/-- A step state read back, or none where a reserved bit is set. -/
def StepState.ofImage (bs : List Byte) : Option StepState :=
  let v := leAt bs 0 4
  if natField v 27 4 != 0 || natField v 16 6 != 0 || leAt bs 4 4 != 0 then none
  else if !natBit v 31 then some { active := false, slot := 0, opnd := 0, total := 0, done := 0, acc := [] }
  else
    some { active := true, slot := natField v 24 3, opnd := natField v 22 2, total := natField v 8 8, done := natField v 0 8,
           acc := Memory.setBytes [] 0 ((bs.drop 8).take 2560) }

/-- The checks of an image's bindings, in slot order: each entry's record, or none for an unbound slot. -/
def checkEntries (b : Block) (core : Nat) (bs : List Byte) : Nat → Except Bad (List (Option BindRec))
  | 0 => .ok []
  | n + 1 =>
    let slot := 7 - n
    let e := (bs.drop (32 * (slot - 1))).take 32
    if allZero e then
      match checkEntries b core bs n with | .ok rs => .ok (none :: rs) | .error x => .error x
    else
      let r := BindRec.ofBytes e
      if r.bound != 1 then .error ⟨0x02, none, encInfo 9 0⟩
      else
        match checkRecord b core slot r.bank.toNat { r with bound := 0 } with
        | some x => .error x
        | none => match checkEntries b core bs n with | .ok rs => .ok (some r :: rs) | .error x => .error x

/-- The bindings of an image captured. -/
def State.captureAll (s : State) (b : Block) : Nat → List (Option BindRec) → State × Except Bad (List (Option Binding))
  | _, [] => (s, .ok [])
  | slot, none :: rs =>
    match State.captureAll s b (slot + 1) rs with | (s, .ok l) => (s, .ok (none :: l)) | r => r
  | slot, some r :: rs =>
    match s.capture b slot r.bank.toNat r with
    | (s, .error e) => (s, .error e)
    | (s, .ok x) => match State.captureAll s b (slot + 1) rs with | (s, .ok l) => (s, .ok (some x :: l)) | r => r

/-- Every slot of a warp set. -/
def Warp.setSlots (w : Warp) (l : List (Option Binding)) : Warp :=
  (List.range 7).foldl (fun w i => if w.slotOf (i + 1) == none && (l.getD i none) == none then w else w.setSlot (i + 1) (l.getD i none)) w

/-- The bytes of a mold image by its PARTS: from where, and how many. -/
def imageRange (parts : Nat) : Nat × Nat :=
  let lo := if natBit parts 0 then 0 else 256
  (lo, (if natBit parts 1 then 2880 else 256) - lo)

/-- An image applied: the checks of R373, the captures, the slots and the step state. `bs` is the image from its start. -/
def State.applyImage (s : State) (uid : Nat) (b : Block) (core parts : Nat) (bs : List Byte) : State × Option Bad :=
  match (if natBit parts 0 then checkEntries b core bs 7 else .ok []) with
  | .error e => (s, some e)
  | .ok recs =>
    match (if natBit parts 1 then StepState.ofImage (bs.drop 256) else some ⟨false, 0, 0, 0, 0, []⟩) with
    | none => (s, some ⟨0x02, none, encInfo 9 0⟩)
    | some step =>
      match s.captureAll b 1 recs with
      | (s, .error e) => (s, some e)
      | (s, .ok slots) =>
        (s.onWarp uid (fun w =>
          let w := if natBit parts 0 then w.setSlots slots else w
          if natBit parts 1 then { w with mstep := step } else w), none)

/-- The step state that a program has put back: the first sparse pour through its slot on its operand resumes it (17 R374). -/
def State.unclaim (s : State) (uid : Nat) : State := s.onWarp uid (fun w => { w with mstep := w.mstep.ownedBy [] })

/-! ### Performing a mold access -/

/-- Bytes written to block memory in 16-byte units. -/
def State.writeUnits (s : State) (uid : Nat) (b : Block) (lay : Nat) (bs : List Byte) : Nat → Nat → State × Option Bad
  | _, 0 => (s, none)
  | i, n + 1 =>
    let p := layoutOf i lay
    match s.writeAt .blk (b.key p) 16 (leAt bs 0 16) (some uid) with
    | (s, some (cause, info)) => (s, some ⟨cause, p, info⟩)
    | (s, none) => State.writeUnits s uid b lay (bs.drop 16) (i + 16) n

/-- The outcome of a mold access as that of an access. -/
def badActed (s : State) (e : Bad) : State × Acted := (s, .fault e.cause e.addr e.info)

/-- A mold-bank word that an `mstore` reads holds an error (11 R248). -/
def State.badBankIn (s : State) (core k n : Nat) : Bool :=
  s.badBankWords.any (fun e => bankBase core k ≤ 4 * e.1 && 4 * e.1 < bankBase core k + n)

/-- What a mold access does when it is performed. A failure leaves every bank, slot, step state and byte as it was (17 R357). -/
def State.performMold (s0 : State) (w : Warp) (o : Op) (x : Fields) (off k : Nat) : State × Acted :=
  let b := s0.blockAt w.block
  let slot := x.d.toNat % 8
  let lines := bitField x.e 11 5 + 1
  let lay := bitField x.e 9 2
  match o with
  | .mload =>
    match s0.readWords b lay off (32 * lines) with
    | (s, .error e) => badActed s e
    | (s, .ok bs) => (s.fillBank w.core k 0 bs, .done [])
  | .mstore =>
    if s0.badBankIn w.core k (128 * lines) then (s0, .fault 0x0E none (some <| 3 * 2 ^ 28 + k * 2 ^ 16))
    else
      match s0.writeUnits w.uid b lay (s0.banks.bytes (bankBase w.core k) (128 * lines)) off (8 * lines) with
      | (_, some e) => badActed s0 e
      | (s, none) => (s, .done [])
  | .mbind =>
    match s0.readWords b 0 off 8 with
    | (s, .error e) => badActed s e
    | (s, .ok bs) =>
      let r := BindRec.ofBytes bs
      let k := if bitAt x.e 8 then k else r.bank.toNat
      match checkRecord b w.core slot k r with
      | some e => badActed s e
      | none =>
        match s.capture b slot k r with
        | (s, .error e) => badActed s e
        | (s, .ok bd) => (s.onWarp w.uid (fun w => w.setSlot slot (some bd)), .done [])
  | .mbmap =>
    match w.slotOf slot with
    | none => (s0, .fault 0x09 none (some <| moldInfo 0 255 3 slot))
    | some bd =>
      match s0.readWords b 0 off (bd.record.rows / 32) with
      | (s, .error e) => badActed s e
      | (s, .ok bs) =>
        let bd := { bd with record := { bd.record with rowmap := BitVec.ofNat 32 off }, rows := BitVec.ofNat 256 (leAt bs 0 bs.length) }
        (s.onWarp w.uid (fun w => w.setSlot slot (some bd)), .done [])
  | .msave =>
    let (lo, n) := imageRange (bitField x.e 0 2)
    let image := w.bindImage ++ w.mstep.image ++ leBytes 56 0
    match s0.writeUnits w.uid b 0 ((image.drop lo).take n) (off + lo) (n / 16) with
    | (_, some e) => badActed s0 e
    | (s, none) => (s, .done [])
  | .mrest =>
    let (lo, n) := imageRange (bitField x.e 0 2)
    match s0.readWords b 0 (off + lo) (n / 4) with
    | (s, .error e) => badActed s e
    | (s, .ok bs) =>
      match s.applyImage w.uid b w.core (bitField x.e 0 2) (leBytes lo 0 ++ bs) with
      | (_, some e) => badActed s0 e
      | (s, none) => (if bitAt x.e 1 then s.unclaim w.uid else s, .done [])
  | _ => (s0, .done [])

/-- Bytes that a mold access reads beside its parts: the tiles that a record names as it stands in memory. -/
def State.moldReads (s : State) (w : Warp) (a : Access) : List Part :=
  let b := s.blockAt w.block
  let tilesOf (off : Nat) : List Part :=
    let r := BindRec.ofBytes (s.bmem.bytes (b.key off) 32)
    (r.tiles.filter (fun t => b.holds t.1 t.2.1)).map (fun t => { addr := b.key t.1, bytes := t.2.1, data := 0, name := t.1, laid := 0 })
  match a.kind with
  | .mold .mbind _ off _ => tilesOf off
  | .mold .mrest _ off _ => (List.range 7).flatMap (fun i => tilesOf (off + 32 * i))
  | _ => []

/-! ### Issuing -/

/-- The offset operand and the bank operand (17 R356). -/
def Ctx.moldOffset (c : Ctx) : Nat := (c.a 0 + c.b 0) % 2 ^ 32
def Ctx.bankOperand (c : Ctx) : Nat := if bitAt c.x.e 7 then bitField c.x.e 0 6 else c.c 0

/-- A trap in the lanes of the warp that take part. -/
def Ctx.badTrap (c : Ctx) (e : Bad) : Trap := Trap.of e.cause c.real c.pc.toNat e.addr e.info

/-- 16-byte units of block memory as parts. -/
def unitParts (b : Block) (o n lay : Nat) : List Part :=
  (List.range (n / 16)).map (fun i =>
    let p := layoutOf (o + 16 * i) lay
    { addr := b.key p, bytes := 16, data := 0, name := p, laid := 0 })

/-- The range, alignment and, for a write, tag checks of `n` bytes at an offset. -/
def checkUnits (b : Block) (o lo n align lay : Nat) (write : Bool) : Option Bad :=
  if !b.holds (o + lo) n then some ⟨0x05, b.firstBeyond (o + lo), none⟩
  else if o % align != 0 then some ⟨0x04, o, none⟩
  else if write then
    ((unitParts b (o + lo) n lay).findSome? (fun p => b.tagIn p.name 16)).map (fun t => ⟨0x08, t, some 0⟩)
  else none

/-- The bank operand names a bank that the block holds. -/
def checkBank (b : Block) (core k slot : Nat) : Option Bad :=
  if k > 63 then some ⟨0x0B, none, moldInfo 4 (k % 256) 3 slot⟩
  else if !(b.banksOn core).getLsbD k then some ⟨0x0B, none, moldInfo 0 k 3 slot⟩
  else none

/-- The one access of a mold instruction. -/
def Ctx.moldAccess (c : Ctx) (k : Nat) (parts : List Part) : Found :=
  .accs [{ c.accessOf ((lowestLane c.real).getD (4 * c.quads.headD 0)) .blk none (.mold c.op c.x c.moldOffset k) parts with helper := false, blame := c.real }] []

/-- What an instruction asks for after a check. -/
def Ctx.orTrap (c : Ctx) (e : Option Bad) (r : Found) : Found := match e with | some e => .trap (c.badTrap e) | none => r

/-- What `mload` and `mstore` ask for (17 R367). -/
def findMload (store : Bool) (s : State) (c : Ctx) : State × Found :=
  let b := s.blockAt c.warp.block
  let o := c.moldOffset
  let n := 128 * (bitField c.x.e 11 5 + 1)
  let lay := bitField c.x.e 9 2
  let k := c.bankOperand
  (s, c.orTrap ((checkUnits b o 0 n 128 lay store).orElse (fun _ => checkBank b c.core k 0)) (c.moldAccess k (unitParts b o n lay)))

/-- MLOAD. -/
def execMload (x : Fields) (s : State) : Out := issue (warpEffect (accessEffect true (findMload false))) .mload x s

/-- MSTORE. -/
def execMstore (x : Fields) (s : State) : Out := issue (warpEffect (accessEffect true (findMload true))) .mstore x s

/-- What `mbind` asks for (17 R363). -/
def findMbind (s : State) (c : Ctx) : State × Found :=
  let b := s.blockAt c.warp.block
  let o := c.moldOffset
  let k := if bitAt c.x.e 8 then c.bankOperand else 0
  (s, c.orTrap (checkUnits b o 0 32 32 0 false) (c.moldAccess k (unitParts b o 32 0)))

/-- MBIND. -/
def execMbind (x : Fields) (s : State) : Out := issue (warpEffect (accessEffect false findMbind)) .mbind x s

/-- MUNBIND (17 R364). -/
def execMunbind (x : Fields) (s : State) : Out :=
  issue
    (warpEffect (fun s c => .ok ((finishWarp s c true).onWarp c.warp.uid (fun w => w.setSlot (c.x.d.toNat % 8) none)))) .munbind x s

/-- `mbmap` and `mbmap.all` (17 R365). -/
def mbmapEffect (s : State) (c : Ctx) : Done :=
  let slot := c.x.d.toNat % 8
  match c.warp.slotOf slot with
  | none => laneTrap s c c.real 0x09 none (moldInfo 0 255 3 slot)
  | some bd =>
    if !bd.record.sparse then laneTrap s c c.real 0x0A none (moldInfo 6 255 3 slot)
    else if bitAt c.x.e 0 then
      let bd := { bd with record := { bd.record with rowmap := 1 }, rows := ~~~0 }
      .ok ((finishWarp s c true).onWarp c.warp.uid (fun w => w.setSlot slot (some bd)))
    else
      accessEffect false
        (fun s c =>
          let b := s.blockAt c.warp.block
          let o := c.moldOffset
          let n := bd.record.rows / 8
          (s, c.orTrap (checkUnits b o 0 n 32 0 false)
            (c.moldAccess 0 [{ addr := b.key o, bytes := n, data := 0, name := o, laid := 0 }])))
        s c

/-- MBMAP. -/
def execMbmap (x : Fields) (s : State) : Out := issue (warpEffect mbmapEffect) .mbmap x s

/-- What `msave` and `mrest` ask for (17 R372, R373). -/
def findImage (store : Bool) (s : State) (c : Ctx) : State × Found :=
  let b := s.blockAt c.warp.block
  let o := c.moldOffset
  let (lo, n) := imageRange (bitField c.x.e 0 2)
  (s, c.orTrap (checkUnits b o lo n 64 0 store) (c.moldAccess 0 (unitParts b (o + lo) n 0)))

/-- MSAVE. -/
def execMsave (x : Fields) (s : State) : Out := issue (warpEffect (accessEffect true (findImage true))) .msave x s

/-- MREST. -/
def execMrest (x : Fields) (s : State) : Out := issue (warpEffect (accessEffect false (findImage false))) .mrest x s

/-! ### Allocation (17 R361, R362) -/

/-- `malloc`: the request joins the core's queue, and the warp parks until its grant. -/
def mallocEffect (s : State) (c : Ctx) : Done :=
  let n := c.b 0
  let pair := bitAt c.x.e 0
  if n > 64 then laneTrap s c c.real 0x0B none (moldInfo 2 255 3 0)
  else if pair && n % 2 == 1 then laneTrap s c c.real 0x0B none (moldInfo 3 255 3 0)
  else if n == 0 then
    .ok ((finishWarp (s.putResult c 0 2) c true).onWarp c.warp.uid (fun w => w.fillCompared c.op.opc [(0, 0, 0), (1, 0, 0)]))
  else
    .ok (((finishWarp s c true).onWarp c.warp.uid (fun w => w.onQuads c.quads (fun q => { q with park := .malloc }))).onCore c.core (fun k =>
      { k with mallocs := k.mallocs ++ [{ warp := c.warp.uid, n, pair, dst := c.x.d.toNat, pc := c.pc }] }))

/-- MALLOC. -/
def execMalloc (x : Fields) (s : State) : Out := issue (warpEffect (comparedEffect true true (fun _ c => [c.b 0]) mallocEffect)) .malloc x s

/-- A warp, or the shadow that follows it, has issued something on the banks of a mask that has not read or written them yet (17 R362). -/
def Warp.usesBanks (w : Warp) (m : BitVec 64) : Bool :=
  w.pending.any (fun a =>
    match a.kind with
    | .mold o _ _ k => (o == Op.mload || o == Op.mstore) && m.getLsbD k
    | _ => false)
    || w.trail.any (fun h => h.banks &&& m != 0)
    || (w.pourer != [] && match w.slotOf w.mstep.slot with | some b => b.record.bankList.any (fun k => m.getLsbD k) | none => false)

/-- The slots bound to freed banks remember it. -/
def Warp.noteFreed (m : BitVec 64) (w : Warp) : Warp :=
  { w with
    slots := w.slots.map (fun b => b.map (fun b => if b.record.bankList.any (fun k => m.getLsbD k) then { b with freed := true } else b)) }

/-- `mfree`. -/
def mfreeEffect (s : State) (c : Ctx) : Done :=
  let m := BitVec.ofNat 64 (c.a 0)
  let held := (s.blockAt c.warp.block).banksOn c.core
  let mates (w : Warp) : Bool := w.block == c.warp.block && w.core == c.core && !w.ended
  match bankNumbers (m &&& ~~~held) with
  | k :: _ => laneTrap s c c.real 0x0B none (moldInfo 0 k 3 0)
  | [] =>
    if (s.warps ++ s.shadows).any (fun w => mates w && w.usesBanks m) then stall s c
    else
      let note (w : Warp) : Warp := if mates w then w.noteFreed m else w
      let s := { s with warps := s.warps.map note, shadows := s.shadows.map note }
      .ok (finishWarp (s.onBlock c.warp.block (fun b => b.setBanks c.core (held &&& ~~~m))) c true)

/-- MFREE. -/
def execMfree (x : Fields) (s : State) : Out := issue (warpEffect (comparedEffect false false (fun _ c => [c.a 0]) mfreeEffect)) .mfree x s

/-! ### Per-lane instructions -/

/-- The words that `mfill` writes: a lane and its word. -/
def Ctx.fillWords (c : Ctx) : List (Nat × Nat) := (laneList c.real).map (fun l => (l, c.a l))

/-- `mfill` (17 R368). -/
def mfillEffect (s : State) (c : Ctx) : Done :=
  let k := c.bankOperand
  if c.real == 0 then .ok (finishWarp s c true)
  else
    match checkBank (s.blockAt c.warp.block) c.core k 0 with
    | some e => laneTrap s c c.real e.cause e.addr e.info
    | none =>
      let s := c.fillWords.foldl (fun s p => s.fillBank c.core k (128 * bitField c.x.e 8 5 + 4 * p.1) (leBytes 4 p.2)) s
      .ok (finishWarp s c true)

/-- MFILL. -/
def execMfill (x : Fields) (s : State) : Out := issue (comparedEffect false false (fun _ c => c.bankOperand :: c.fillWords.flatMap (fun p => [p.1, p.2])) mfillEffect) .mfill x s

/-- `macc` in a lane (17 R369): d plus the column of the pour, rounded once. A column without a term leaves d as it is. -/
def maccLane (s : State) (c : Ctx) (n : Nat) : LaneOut :=
  match c.warp.slotOf c.x.a.mold.toNat with
  | none => {}
  | some b =>
    let rounded (mode : Nat) : Rnd := { mode, rb := c.random n 0, sat := .no, ftz := c.warp.ftz }
    let d (t : Nat) : Num := decodeNum t (flushIn t c.warp.ftz (c.d (tyRegs t) n))
    if b.record.rf == 15 then
      let (v, f) := sumF64 s c.pourEnv b (rounded (b.record.rmode c.warp.rnd)) (some (d 15)) c.x.a.reg.toNat n
      c.toD v f
    else
      match (c.columns.head?.map (fun p => p.2)).bind (fun l => l[n]?) with
      | none => {}
      | some (col, mode) =>
        if col.count == 0 then {}
        else
          let (v, f) := if b.record.rf == 1 then col.roundI32 b.record.satb (signed 32 (c.d 1 n)) else col.roundF32 b.record (rounded mode) (some (d 3))
          c.toD v f

/-- MACC: its own sum takes the place of the plain pour. -/
def execMacc (x : Fields) (s : State) : Out := issue (fun s c => laneEffect (maccLane s) s { c with poured := [] }) .macc x s

/-- The value of a query item (17 R370). -/
def State.moldQuery (s : State) (c : Ctx) (item : Nat) : Nat :=
  match item with
  | 0 => (bankNumbers (s.freeBanks c.core)).length
  | 1 => ((s.blockAt c.warp.block).banksOn c.core).toNat
  | 2 => (s.freeBanks c.core).toNat
  | _ => [1, 2, 3, 4, 5, 6, 7].foldl (fun v n => if (c.warp.slotOf n).isSome then v + 2 ^ n else v) 0

/-- MQUERY. -/
def execMquery (x : Fields) (s : State) : Out :=
  issue
    (fun s c =>
      let item := bitField c.x.e 0 3
      let v := s.moldQuery c item
      valueEffect (laneEffect (fun c _ => c.toD v)) s c)
    .mquery x s

/-- MSTEP (17 R371). -/
def execMstep (x : Fields) (s : State) : Out :=
  issue
    (warpEffect (fun s c =>
      let slot := bitField c.x.e 0 3
      match c.warp.slotOf slot with
      | none => laneTrap s c c.real 0x09 none (moldInfo 0 255 3 slot)
      | some b => uniformEffect 1 (fun c _ => pourSteps c.pourEnv b) s c))
    .mstep x s

end Sys2Proof.Machine
end

