-- ==== Sys2Proof/Machine/Engine.lean ====
section
/-!
DEFINITION. What the copy engine shares (08 R172 to R187; 06 R140 to R145; 20 R422, R423): records read at issue, shape records, the
sprues, where elements lie, and the performing of a copy command row by row.
-/
namespace Sys2Proof.Machine

/-! ### What a read at issue gives -/

/-- What a read at issue gives: a value, a failed check, or nothing until earlier writes of the warp are performed. -/
inductive Got (α : Type) where
  | ok (v : α)
  | bad (e : Bad)
  | busy
deriving DecidableEq, Repr

/-- An earlier write of the warp that is still pending touches some bytes. -/
def State.unsettled (s : State) (w : Warp) (space : Space) (key n : Nat) : Bool :=
  let hit (a : Access) : Bool := a.kind.writes && a.space == space && a.parts.any (fun p => overlap p.addr p.bytes key n)
  w.pending.any hit || s.channels.any (fun o => o.warp == w.uid && hit o.access)

/-! ### Bytes of another package (01 R19, R20) -/

/-- What stands for a failed check where bytes of another package have to be asked for first: to be read, or to be written. -/
def Bad.toRead (key n : Nat) : Bad := ⟨256, key, n⟩
def Bad.toWrite (key : Nat) (data : List Byte) : Bad := ⟨257, key, leAt (data ++ [1]) 0 (data.length + 1)⟩
def Bad.later (e : Bad) : Bool := decide (e.cause ≥ 256)

/-- Those bytes asked for, unless one who asks waits for a response already. -/
def State.askFor (s : State) (who : Asker) (e : Bad) : State :=
  let key := e.addr.getD 0
  let v := e.info.getD 0
  if s.asking who then s
  else if e.cause == 256 then s.ask who false (partsOf key v)
  else s.ask who true ((partsOf key (Nat.log2 v / 8)).map (fun p => { p with data := BitVec.ofNat 64 (natField v (8 * (p.addr - key)) (8 * p.bytes)) }))

/-- The responses that one who asked has acted on are gone. -/
def State.taken (s : State) (who : Asker) : State := { s with answers := s.answers.filter (fun a => a.who != who) }

/-- `n` bytes at a key, which lie in one page: those of this package, or the response to one who asks. -/
def State.bytesFor (s : State) (who : Asker) (va key n : Nat) : Except Bad (List Byte) :=
  match keyRemote key with
  | none => if s.rangeBad key n then .error ⟨0x0E, va, badLineInfo⟩ else .ok (s.dev.bytes key n)
  | some _ =>
    match s.answers.find? (fun a => a.who == who && a.addr == key && !a.write && match a.bytes with | some b => b.length == n | none => true) with
    | none => .error (Bad.toRead key n)
    | some a => match a.bytes with | some b => .ok b | none => .error ⟨a.cause, va, a.info⟩

/-- Bytes written at a key, by an engine or once the response says so; part of an uncorrectable line is not written (11 R469). -/
def State.putFor (s : State) (who : Asker) (va key : Nat) (data : List Byte) : State × Option Bad :=
  match keyRemote key with
  | none => if s.tornLine key data.length then (s, some ⟨0x0E, va, badLineInfo⟩) else (s.writeDev key data none, none)
  | some _ =>
    match s.answers.find? (fun a => a.who == who && a.addr == key && a.write && (a.bytes == some data || a.bytes.isNone)) with
    | none => (s, some (Bad.toWrite key data))
    | some a => if a.bytes.isSome then (s, none) else (s, some ⟨a.cause, va, a.info⟩)

/-- An event of an engine that reads or writes in several places: it is tried again with the next response while some bytes of it lie in another package. -/
def State.tried (s : State) (who : Asker) (bad : Option Bad) (s' : State) : State :=
  match bad with
  | some e => if e.later then s.askFor who e else s'.taken who
  | none => s'.taken who

/-! ### Records read at issue (20 R422) -/

/-- One 64-byte line, or a few bytes, of a record in device memory. -/
def State.recordPiece (s : State) (c : Ctx) (va n align : Nat) : State × Got (List Byte) :=
  match s.checkDev c.core c.warp.ctx va align .r with
  | (s, .error e) => (s, .bad e)
  | (s, .ok (key, _)) =>
    if s.unsettled c.warp .dev key n then (s, .busy)
    else
      match s.bytesFor (.engine c.warp.uid) va key n with
      | .error e => if e.later then (s.askFor (.engine c.warp.uid) e, .busy) else (s, .bad e)
      | .ok bs => (s, .ok bs)

/-- `k` times 64 bytes of a record in device memory. -/
def State.recordDev (s : State) (c : Ctx) (va : Nat) : Nat → State × Got (List Byte)
  | 0 => (s, .ok [])
  | k + 1 =>
    match s.recordPiece c va 64 64 with
    | (s, .ok l) =>
      match State.recordDev s c (va + 64) k with
      | (s, .ok bs) => (s, .ok (l ++ bs))
      | r => r
    | r => r

/-- A record of `n` bytes in block memory, 64-byte aligned. -/
def State.recordBlk (s : State) (c : Ctx) (o n : Nat) : State × Got (List Byte) :=
  let b := s.blockAt c.warp.block
  match b.check o n 64 0 false with
  | some e => (s, .bad e)
  | none =>
    if s.unsettled c.warp .blk (b.key o) n then (s, .busy)
    else
      match s.readWords b 0 o (n / 4) with
      | (s, .ok bs) => (s, .ok bs)
      | (s, .error e) => (s, .bad e)

/-- What a read at issue leads to. -/
def Got.then {α : Type} (s0 : State) (c : Ctx) (r : State × Got α) (f : State → α → Done) : Done :=
  match r with
  | (s, .busy) => stall { s0 with channels := s.channels, answers := s.answers, uids := s.uids } c
  | (s, .bad e) => laneTrap s c c.real e.cause e.addr e.info
  | (s, .ok v) => f s v

/-- An instruction that has gone on, or traps, has acted on what it asked for. -/
def Done.taken (c : Ctx) : Done → Done
  | .ok s => .ok (match s.warpOf c.warp.uid with | some w => if w.wentOn c.warp then s.taken (.engine c.warp.uid) else s | none => s)
  | .trap s uid t => .trap (s.taken (.engine c.warp.uid)) uid t
  | d => d

/-- A per-warp instruction of this group (20 R419, R442): in paired mode what it reads is compared, and it is performed once, by the leading warp; with `valued` its
result reaches the shadow through the load-value queue, `later` than at its issue where it waits for it. -/
def engineRead (valued later : Bool) (read : State → Ctx → List Nat) (f : State → Ctx → Done) : State → Ctx → Done :=
  warpEffect (comparedEffect valued later read (fun s c => (f s c).taken c))
def engineEffect (read : Ctx → List Nat) (f : State → Ctx → Done) : State → Ctx → Done := engineRead false false (fun _ c => read c) f
def engineValue (read : Ctx → List Nat) (f : State → Ctx → Done) : State → Ctx → Done := engineRead true false (fun _ c => read c) f

/-- The gang parks in an instruction, which it executes again or which ends without it. -/
def parkAt (s : State) (c : Ctx) (p : Park) : Done :=
  let clk := (s.coreOf c.core).clk
  .ok (s.onWarp c.warp.uid (fun w =>
    let w := (chargeQuads w c.quads clk c.x.stall.toNat 0 [] w.regs).clearRegion
    { w with offered := false }.onQuads c.quads (fun q => { q with park := p })))

/-- The operands A, B and C, and A and B as pairs. -/
def Ctx.operands (c : Ctx) : List Nat := [c.a 0, c.b 0, c.c 0]

/-! ### Shape records (06 Table 6-7, R142) -/

/-- A record as data. -/
def Shape.ofBytes (l : List Byte) : Shape :=
  let flags := leAt l 12 4
  { base := BitVec.ofNat 64 (leAt l 0 8), ty := BitVec.ofNat 5 (leAt l 8 1), rank := leAt l 9 1, layout := leAt l 10 1, bounds := leAt l 11 1,
    space := natField flags 0 2, die := natField flags 2 2, owned := natBit flags 4, quant := natBit flags 5,
    dims := (List.range 6).map (fun i => leAt l (16 + 8 * i) 8), strides := (List.range 6).map (fun i => signed 64 (leAt l (64 + 8 * i) 8)),
    box := (List.range 6).map (fun i => leAt l (112 + 4 * i) 4), owners := BitVec.ofNat 64 (leAt l 136 8),
    oblk := (List.range 6).map (fun i => leAt l (144 + 2 * i) 2), fill := BitVec.ofNat 32 (leAt l 156 4), qgroup := leAt l 160 2,
    scaleOff := leAt l 162 3, zpOff := leAt l 165 3 }

/-- The conditions of R142 under which a record raises cause 0x16; `dest` for a destination. -/
def shapeBad (l : List Byte) (dest : Bool) : Bool :=
  let r := Shape.ofBytes l
  let flags := leAt l 12 4
  let entry (i : Nat) : Bool :=
    if i < r.rank then
      r.dims.getD i 0 == 0 || r.box.getD i 0 == 0 || (dest && r.strides.getD i 0 == 0) || r.oblk.getD i 0 == 0
        || (!r.owned && r.oblk.getD i 0 != 1)
    else r.dims.getD i 0 != 1 || r.strides.getD i 0 != 0 || r.box.getD i 0 != 1 || r.oblk.getD i 0 != 1
  leAt l 8 1 ≥ 20 || r.rank == 0 || r.rank > 6 || (r.space != 0 && r.layout > 3) || r.bounds ≥ 3 || r.space == 3 || natField flags 6 26 != 0
    || (r.space != 0 && natField r.base.toNat 32 32 != 0) || !allZero (l.drop 168) || [0, 1, 2, 3, 4, 5].any entry
    || (!r.owned && r.owners != 0) || (if r.quant then !([32, 64, 128].contains r.qgroup) else r.qgroup != 0)
    || (tyWidth r.ty.toNat == 4 && (r.dims.getD 0 0 % 2 == 1 || r.box.getD 0 0 % 2 == 1))

/-- The record that a pair names, from the core's 32 cached records or read whole (06 R141, R144). -/
def State.shapeAt (s : State) (c : Ctx) (pair : Nat) : State × Got (List Byte) :=
  let inBlock := natBit pair 63
  let addr := if inBlock then natField pair 0 32 else pair
  let block := if inBlock then some c.warp.block else none
  let mine (r : CachedShape) : Bool := r.addr == addr && r.block == block && (inBlock || r.ctx == c.warp.ctx)
  let keep (s : State) (r : CachedShape) : State :=
    s.onCore c.core (fun k => { k with shapes := (r :: k.shapes.filter (fun x => !mine x)).take 32 })
  if inBlock && natField pair 32 31 != 0 then (s, .bad ⟨0x05, addr, none⟩)
  else if !inBlock && pair ≥ 2 ^ 55 then (s, .bad ⟨0x05, addr, none⟩)
  else if inBlock && !(s.blockAt c.warp.block).holds addr 192 then
    (s, .bad ⟨0x05, (s.blockAt c.warp.block).firstBeyond addr, none⟩)
  else if addr % 64 != 0 then (s, .bad ⟨0x04, addr, none⟩)
  else
    match (s.coreOf c.core).shapes.find? mine with
    | some r => (keep s r, .ok r.bytes)
    | none =>
      match (if inBlock then s.recordBlk c addr 192 else s.recordDev c addr 3) with
      | (s, .ok bytes) => (keep s { block, ctx := c.warp.ctx, addr, bytes }, .ok bytes)
      | r => r

/-- Bytes of one element, at least one (06 R142). -/
def Shape.esz (sh : Shape) : Nat := max 1 (tyWidth sh.ty.toNat / 8)
def Shape.nibble (sh : Shape) : Bool := tyWidth sh.ty.toNat == 4

/-- The elements and the bytes of a box. -/
def boxElems (box : List Nat) : Nat := box.foldl (fun n k => n * k) 1
def Shape.bytesOf (sh : Shape) (elems : Nat) : Nat := if sh.nibble then elems / 2 else elems * sh.esz

/-- The value that fill delivers (06 Table 6-7 FILL). -/
def Shape.fillValue (sh : Shape) : Nat :=
  let t := sh.ty.toNat
  if t == 16 then wrap 64 (signed 32 sh.fill.toNat)
  else if t == 15 then (convertElem 15 3 0 0 .no false sh.fill.toNat).1
  else sh.fill.toNat % 2 ^ tyWidth t

/-- The byte of an element (06 R142); two elements of half a byte share the byte of their pair. -/
def Shape.addrOf (sh : Shape) (x : List Int) : Int :=
  let x0 := if sh.nibble then x.getD 0 0 / 2 else x.getD 0 0
  (sh.base.toNat : Int) + x0 * sh.strides.getD 0 0
    + [1, 2, 3, 4, 5].foldl (fun v i => v + x.getD i 0 * sh.strides.getD i 0) 0

/-! ### The sprues (08 R172) -/

def State.sprue (s : State) (core q : Nat) : List Command := (s.coreOf core).sprues.getD q []
def State.onSprue (s : State) (core q : Nat) (f : List Command → List Command) : State :=
  s.onCore core (fun c => { c with sprues := modifyAt f q c.sprues })

/-- The head of a sprue changed. -/
def State.onHead (s : State) (core q : Nat) (f : Command → Command) : State :=
  s.onSprue core q (fun l => match l with | [] => [] | x :: xs => f x :: xs)

/-- Every command with an identifier changed. -/
def State.onCommand (s : State) (uid : Nat) (f : Command → Command) : State :=
  { s with cores := s.cores.map (fun c =>
      { c with sprues := c.sprues.map (fun q => q.map (fun x => if x.uid == uid then f x else x)) }) }

/-- Where a command is. -/
def State.commandAt (s : State) (uid : Nat) : Option (Nat × Nat × Command) :=
  s.cores.findSome? (fun c =>
    [0, 1, 2, 3, 4, 5, 6, 7].findSome? (fun q => ((c.sprues.getD q []).find? (fun x => x.uid == uid)).map (fun x => (c.id, q, x))))

/-- A sprue that holds 16 commands. -/
def State.spruefull (s : State) (core q : Nat) : Bool := decide ((s.sprue core q).length ≥ 16)

/-- No route at all. -/
def Routes.none : Routes := { barrier := false, task := false, record := false, rows := false, die := 0, index := 0, word := 0, tag := 0 }

/-- A command of a warp, with its place in the warp's order (07 R159). -/
def Command.make (uid : Nat) (w : Warp) (b : Block) (routes : Routes) (work : CmdWork) : Command :=
  { uid, warp := w.uid, block := w.block, task := (b.die, b.task), ctx := w.ctx, routes, work, rows := [], lost := [], bytes := 0, begun := false,
    works := [], done := false, after := [(w.uid, uid)], heldWrites := 0, met := none, fault := none }

/-- A command enters a sprue. -/
def State.enter (s : State) (core q : Nat) (cmd : Command) : State := s.onSprue core q (fun l => l ++ [cmd])

/-- A command of a warp made and entered. -/
def State.issueCommand (s : State) (c : Ctx) (q : Nat) (routes : Routes) (work : CmdWork) : State :=
  let (k, s) := s.newUid
  s.enter c.core q (Command.make k c.warp (s.blockAt c.warp.block) routes work)

/-- What the fault of a command delivers (08 R185). -/
def Warp.commandTrap (w : Warp) (first : Nat) (f : CmdFault) : Trap :=
  { cause := f.cause.toNat, mask := w.realLanes, addr := some f.addr.toNat, first, info := some f.info.toNat }

/-- A fault recorded with a command (08 R184, R187): TINFO[15:12] is the sprue. -/
def State.cmdFault (s : State) (q : Nat) (e : Bad) : CmdFault × State :=
  let (free, s) := s.chooseNat
  let info := (e.info.getD (free / 2 ^ 64)) % 2 ^ 64
  ({ cause := BitVec.ofNat 8 e.cause, addr := BitVec.ofNat 64 (e.addr.getD free),
     info := BitVec.ofNat 64 (info - natField info 12 4 * 2 ^ 12 + q * 2 ^ 12), since := s.hb, told := false }, s)

/-! ### Where an element lies -/

/-- The owner entry of an element (06 R145): its package and die. -/
def State.ownerOf (s : State) (who : Asker) (core ctx : Nat) (sh : Shape) (x : List Int) : State × Except Bad (BitVec 10 × Nat) :=
  let (idx, _) := [0, 1, 2, 3, 4, 5].foldl
    (fun (a : Nat × Nat) i =>
      let k := max 1 (sh.oblk.getD i 1)
      (a.1 + (x.getD i 0).toNat / k * a.2, a.2 * ceilDiv (sh.dims.getD i 1) k))
    (0, 1)
  let va := sh.owners.toNat + 4 * idx
  match s.checkDev core ctx va 1 .r with
  | (s, .error e) => (s, .error e)
  | (s, .ok (key, _)) =>
    match s.bytesFor who va key 4 with
    | .error e => (s, .error e)
    | .ok l =>
      let v := leAt l 0 4
      if v ≥ 2 ^ 12 then (s, .error ⟨0x16, va, none⟩) else (s, .ok (BitVec.ofNat 10 (v / 4), v % 4))

/-- An element of a command's record: where it lies, none for a read that fill answers or a write that is dropped, or what its row
records (06 R142, R143, R145; 08 R176, R184). -/
def State.elemAt (s : State) (who : Asker) (core ctx : Nat) (b : Option Block) (sh : Shape) (x : List Int) (write : Bool) (row : Nat) :
    State × Except Bad (Option Elem) :=
  let out := [0, 1, 2, 3, 4, 5].filter (fun i => x.getD i 0 < 0 || x.getD i 0 ≥ (sh.dims.getD i 1 : Int))
  if out != [] && sh.bounds == 2 then
    (s, .error ⟨0x12, wrap 64 (sh.addrOf x), some (row * 2 ^ 32 + 3 * 2 ^ 24 + out.foldl (fun m i => m + 2 ^ i) 0 * 2 ^ 16)⟩)
  else if out != [] && (write || sh.bounds == 0) then (s, .ok none)
  else
    let x := (List.range 6).map (fun i => clampInt 0 ((sh.dims.getD i 1 : Int) - 1) (x.getD i 0))
    let a := sh.addrOf x
    let limit : Nat := if sh.space == 0 then 2 ^ 55 else 2 ^ 32
    if a < 0 || a ≥ limit then (s, .error ⟨0x05, wrap 64 a, none⟩)
    else
      let o := a.toNat
      let half := if sh.nibble then 1 + (x.getD 0 0 % 2).toNat else 0
      match (if sh.owned && sh.space != 1 then s.ownerOf who core ctx sh x else (s, .ok (0x3FF, sh.die))) with
      | (s, .error e) => (s, .error e)
      | (s, .ok (pkg, die)) =>
        match sh.space with
        | 0 =>
          match s.translate core ctx o (if write then .w else .r) with
          | (s, .error (cause, info)) => (s, .error ⟨cause, o, info⟩)
          | (s, .ok key) =>
            (s, .ok (some ⟨.dev, if sh.owned then devKey s.pkg pkg (key % 2 ^ 40) else key, o, half⟩))
        | 1 =>
          match b with
          | none => (s, .error ⟨0x05, o, none⟩)
          | some b =>
            if !b.holds o sh.esz then (s, .error ⟨0x05, b.firstBeyond o, none⟩)
            else let p := layoutOf o sh.layout; (s, .ok (some ⟨.blk, b.key p, p, half⟩))
        | _ =>
          let (base, len) := s.window ctx die
          match checkSpad len o sh.esz 1 with
          | some e => (s, .error e)
          | none => let p := layoutOf o sh.layout; (s, .ok (some ⟨.spad, spadKey die base p, p, half⟩))

/-- An element lies in this package. -/
def Elem.near (e : Elem) : Bool := e.space != .dev || (keyRemote e.key).isNone

/-- The value of an element. -/
def State.readElem (s : State) (e : Elem) (esz : Nat) : State × Except Bad Nat :=
  match s.readAt e.space e.key esz with
  | (s, .error (cause, info)) => (s, .error ⟨cause, e.name, info⟩)
  | (s, .ok v) => (s, .ok (if e.half == 0 then v else natField v (4 * (e.half - 1)) 4))

/-! ### The bytes that a row writes -/

/-- A byte laid over what a row has gathered. -/
def putByte (m : Cells OutByte) (key : Nat) (v : OutByte) : Cells OutByte :=
  match m.find? (fun c => c.1 == key) with
  | none => Cells.insert m key v
  | some (_, w) => Cells.insert m key { value := (w.value &&& ~~~v.mask) ||| (v.value &&& v.mask), mask := w.mask ||| v.mask, name := w.name }

/-- An element laid over what a row has gathered. -/
def putElemAt (m : Cells OutByte) (e : Elem) (esz v : Nat) : Cells OutByte :=
  if e.half == 0 then
    (List.range esz).foldl (fun m i => putByte m (e.key + i) { value := BitVec.ofNat 8 (v / 2 ^ (8 * i)), mask := 0xFF, name := e.name }) m
  else
    putByte m e.key
      { value := BitVec.ofNat 8 (v * 2 ^ (4 * (e.half - 1))), mask := BitVec.ofNat 8 (0xF * 2 ^ (4 * (e.half - 1))), name := e.name }

/-- Bytes of which only some bits are given take the others from memory. -/
def State.fillBytes (s : State) (space : Space) : Cells OutByte → State × Except Bad (Cells OutByte)
  | [] => (s, .ok [])
  | (k, v) :: m =>
    match (if v.mask == 0xFF then (s, .ok 0) else s.readAt space k 1) with
    | (s, .error (cause, info)) => (s, .error ⟨cause, v.name, info⟩)
    | (s, .ok old) =>
      match State.fillBytes s space m with
      | (s, .ok l) => (s, .ok ((k, { v with value := (v.value &&& v.mask) ||| (BitVec.ofNat 8 old &&& ~~~v.mask), mask := 0xFF }) :: l))
      | r => r

/-- The bytes of memory that one access takes: a granule of 512 bytes of device memory (01 R8), or a word of a bank. -/
def Space.unit (space : Space) : Nat := if space == .dev then 512 else 4

/-- Runs of consecutive bytes, each within one unit. -/
def runsOf (unit : Nat) : Cells OutByte → List (Cells OutByte)
  | [] => []
  | c :: m =>
    match runsOf unit m with
    | (d :: r) :: rs => if d.1 == c.1 + 1 && d.1 / unit == c.1 / unit then (c :: d :: r) :: rs else [c] :: (d :: r) :: rs
    | rs => [c] :: rs

/-- A run written: part of an uncorrectable line of device memory, or of a word that cannot be rebuilt, is not (11 R469, 06 R133). -/
def State.writeRun (s : State) (space : Space) (m : Cells OutByte) : State × Option Bad :=
  match s.fillBytes space m with
  | (s, .error e) => (s, some e)
  | (s, .ok []) => (s, none)
  | (s, .ok ((k, v) :: m)) =>
    let data := v.value :: m.map (fun c => c.2.value)
    if space == .dev then if s.tornLine k data.length then (s, some ⟨0x0E, v.name, badLineInfo⟩) else (s.writeDev k data none, none)
    else
      match s.writeAt space k data.length (leAt data 0 data.length) none with
      | (s, some (cause, info)) => (s, some ⟨cause, v.name, info⟩)
      | (s, none) => (s, none)

/-! ### The rows of a copy (08 R176 to R181) -/

/-- The space of a record. -/
def Shape.spaceOf (sh : Shape) : Space := match sh.space with | 0 => .dev | 1 => .blk | _ => .spad

/-- A copy as its rows see it: its kind, records, origins of the slices, permutation and indices. -/
structure CopyPlan where
  kind    : CopyKind
  src     : Shape
  dst     : Shape
  origins : List (List Int)
  perm    : List Nat
  idx     : List Int
  scale   : Nat
deriving DecidableEq, Repr

/-- The box that is iterated (R177, R178), the rows of a slice and of the command. -/
def CopyPlan.box (p : CopyPlan) : List Nat := match p.kind with | .cpg => p.dst.box | _ => p.src.box
def CopyPlan.perSlice (p : CopyPlan) : Nat := boxElems (p.box.drop 1)
def CopyPlan.rows (p : CopyPlan) : Nat := p.perSlice * p.origins.length

/-- Position `x0` of row `r` in the iterated box. -/
def CopyPlan.pos (p : CopyPlan) (r x0 : Nat) : List Nat :=
  let b (i : Nat) : Nat := p.box.getD i 1
  let n := r % max 1 p.perSlice
  [x0, n % b 1, n / b 1 % b 2, n / (b 1 * b 2) % b 3, n / (b 1 * b 2 * b 3) % b 4, n / (b 1 * b 2 * b 3 * b 4) % b 5]

/-- The coordinate that an index gives (R177). -/
def CopyPlan.indexed (p : CopyPlan) (o : List Int) (y : List Nat) : List Int :=
  (List.range 6).map (fun i =>
    o.getD i 0 + (if i == 1 then p.idx.getD (y.getD 1 0) 0 * (2 ^ p.scale : Nat) else (y.getD i 0 : Int)))

/-- The source and destination elements at a position of a row. -/
def CopyPlan.pair (p : CopyPlan) (r x0 : Nat) : List Int × List Int :=
  let o := p.origins.getD (r / max 1 p.perSlice) []
  let y := p.pos r x0
  let at' : List Int := (List.range 6).map (fun i => o.getD i 0 + (y.getD i 0 : Int))
  let plain : List Int := y.map Int.ofNat
  match p.kind with
  | .cpg => (p.indexed o y, plain)
  | .cps => (plain, p.indexed o y)
  | .cpt _ => (at', (List.range 6).map (fun i => ((y.getD (p.perm.getD i i) 0 : Nat) : Int)))
  | _ => (at', plain)

/-- An element of a row: where it is read, if fill does not answer it, and where it goes, if the write is not dropped. -/
abbrev Moved := Option Elem × Option Elem

/-- The elements of a row from position `x0` on, or the first that fails a check. -/
def State.rowElems (s : State) (who : Asker) (core ctx : Nat) (b : Option Block) (p : CopyPlan) (r : Nat) : Nat → Nat → State × Except Bad (List Moved)
  | 0, _ => (s, .ok [])
  | n + 1, x0 =>
    let (xs, xd) := p.pair r x0
    match s.elemAt who core ctx b p.src xs false r with
    | (s, .error e) => (s, .error e)
    | (s, .ok src) =>
      match s.elemAt who core ctx b p.dst xd true r with
      | (s, .error e) => (s, .error e)
      | (s, .ok dst) =>
        let tagged : Bool := match dst, b with | some e, some b => e.space == .blk && (b.tagIn e.name p.dst.esz).isSome | _, _ => false
        match State.rowElems s who core ctx b p r n (x0 + 1) with
        | (s, .ok l) => (s, .ok ((src, if tagged then none else dst) :: l))
        | r => r
def State.rowMoves (s : State) (who : Asker) (core ctx : Nat) (b : Option Block) (p : CopyPlan) (r : Nat) : State × Except Bad (List Moved) :=
  s.rowElems who core ctx b p r (p.box.getD 0 1) 0

/-- Elements to read, grouped by the unit of memory that they lie in. -/
def groupReads (space : Space) : List (Nat × Elem) → List (List (Nat × Elem))
  | [] => []
  | e :: es =>
    match groupReads space es with
    | (f :: g) :: gs => if f.2.key / max 8 space.unit == e.2.key / max 8 space.unit then (e :: f :: g) :: gs else [e] :: (f :: g) :: gs
    | gs => [e] :: gs

/-- The accesses of some rows: their reads, with what fill answers known already. With `write` clear they are read only (R178, R184). -/
def CopyPlan.start (p : CopyPlan) (rows : List Nat) (write : Bool) (moves : List Moved) : RowWork :=
  let l := (List.range moves.length).zip moves
  { rows, accs := (groupReads p.src.spaceOf (l.filterMap (fun m => m.2.1.map (fun e => (m.1, e))))).map (fun g =>
      { sent := none, reads := g, write := [], space := p.src.spaceOf }),
    got := l.filterMap (fun m => if m.2.1.isNone then some (m.1, p.src.fillValue) else none),
    dsts := if write then l.filterMap (fun m => m.2.2.map (fun e => (m.1, e))) else [] }

/-- The bytes that some rows write, once all are read. -/
def RowWork.cells (x : RowWork) (esz : Nat) : Cells OutByte :=
  x.dsts.foldl (fun m d => putElemAt m d.2 esz (((x.got.find? (fun g => g.1 == d.1)).map (fun g => g.2)).getD 0)) []

/-- A row of `cps` whose destination a later position that is performed already holds (R178). -/
def CopyPlan.covered (p : CopyPlan) (done : List Nat) (r : Nat) : Bool :=
  match p.kind with
  | .cps =>
    let n := p.box.getD 1 1
    done.any (fun q => decide (q > r) && q / n == r / n && p.idx.getD (q % n) 0 == p.idx.getD (r % n) 0)
  | _ => false

/-! ### Versioned writes (07 R167, 08 R181) -/

/-- The destination line of a position, named by its address; none where the write is dropped. -/
def CopyPlan.lineAt (p : CopyPlan) (r x0 : Nat) : Option Nat :=
  let x := (p.pair r x0).2
  if [0, 1, 2, 3, 4, 5].any (fun i => x.getD i 0 < 0 || x.getD i 0 ≥ (p.dst.dims.getD i 1 : Int)) then none
  else some ((p.dst.addrOf x).toNat / 64)

/-- A number put into an ascending list once. -/
def insertNat (k : Nat) : List Nat → List Nat
  | [] => [k]
  | x :: xs => if k < x then k :: x :: xs else if k == x then x :: xs else x :: insertNat k xs

/-- The lines of a row, and those of the command, ascending: the place of a line among these is its index. -/
def CopyPlan.rowLines (p : CopyPlan) (r : Nat) : List Nat :=
  ((List.range (p.box.getD 0 1)).filterMap (p.lineAt r)).foldl (fun l k => insertNat k l) []
def CopyPlan.lines (p : CopyPlan) : List Nat :=
  (List.range p.rows).foldl (fun l r => (p.rowLines r).foldl (fun l k => insertNat k l) l) []

/-- Every line that the destination touches lies wholly within the bytes of the box (R181). -/
def CopyPlan.wholeLines (p : CopyPlan) : Bool :=
  let bytes := (List.range p.rows).flatMap (fun r =>
    (List.range (p.box.getD 0 1)).map (fun x0 => p.dst.addrOf (p.pair r x0).2))
  let held (a : Nat) : Bool := bytes.any (fun b => b ≤ (a : Int) && (a : Int) < b + (p.dst.esz : Int))
  p.lines.all (fun l => (List.range 64).all (fun i => held (64 * l + i)))

/-- Rows that share a line with a row that failed fail with it. -/
def CopyPlan.spread (p : CopyPlan) (rows : List Nat) : Nat → List Nat → List Nat
  | 0, bad => bad
  | n + 1, bad =>
    let lines := bad.flatMap p.rowLines
    CopyPlan.spread p rows n (rows.filter (fun r => bad.contains r || (p.rowLines r).any (fun l => lines.contains l)))

/-- The rows of a `cpv` grouped with those that share lines with them. -/
def CopyPlan.groups (p : CopyPlan) (rows : List Nat) : Nat → List (List Nat)
  | 0 => []
  | n + 1 =>
    match rows with
    | [] => []
    | r :: _ =>
      let g := p.spread rows rows.length [r]
      g :: CopyPlan.groups p (rows.filter (fun q => !g.contains q)) n

/-- The place of a line among those of its command. -/
def CopyPlan.index (p : CopyPlan) (l : Nat) : Nat := (p.lines.findIdx? (fun k => k == l)).getD 0

/-- The lines of some bytes of a `cpv`: an access for each that is still to be held (08 R181). -/
def CopyPlan.lineRuns (p : CopyPlan) (cmd : Command) (rows : List Nat) (m : Cells OutByte) : List (Cells OutByte) :=
  let lines := (rows.foldl (fun ls r => (p.rowLines r).foldl (fun ls k => insertNat k ls) ls) []).filter (fun l =>
    cmd.lost.any (fun x => x.1 == p.index l) || !cmd.rows.any (fun r => (p.rowLines r).contains l))
  (lines.map (fun l => m.filter (fun c => c.2.name / 64 == l))).filter (· != [])

/-- A line of a `cpv` that reaches its home slice, and is held there until its version comes up (07 R167). -/
def State.holdLine (s : State) (p : CopyPlan) (cmd : Command) (rows : List Nat) (add : Bool) (version timeout : Nat) (m : Cells OutByte) : State :=
  let l := ((m.head?).map (fun c => c.2.name / 64)).getD 0
  { s with
    heldWrites := s.heldWrites ++ [{
      cmd := cmd.uid, ctx := cmd.ctx, line := ((m.head?).map (fun c => c.1 / 64)).getD 0, name := 64 * l, index := p.index l,
      rows := rows.filter (fun r => (p.rowLines r).contains l), expect := version, add := if add then some p.dst.ty else none,
      data := m.map (fun c => (c.1, c.2.value)), deadline := s.hb + BitVec.ofNat 64 (1024 * timeout) }] }

/-! ### A copy performed -/

/-- The indices of a command: those of its registers, or read from block memory (R177). -/
def State.indices (s : State) (b : Option Block) (x : IdxSource) : State × Except Bad (List Int) :=
  let w := 2 ^ (natField x.ctl 0 2 + 3)
  let value (v : Nat) : Int := if natBit x.ctl 2 then signed w v else (v % 2 ^ w : Nat)
  match x.regs, b with
  | some vs, _ => (s, .ok (vs.map value))
  | none, some b =>
    let n := x.count * (w / 8)
    if !b.holds x.off n then (s, .error ⟨0x05, b.firstBeyond x.off, none⟩)
    else
      let words := (x.off + n + 3) / 4 - x.off / 4
      match s.readWords b 0 (x.off / 4 * 4) words with
      | (s, .error e) => (s, .error e)
      | (s, .ok bs) => (s, .ok ((List.range x.count).map (fun i => value (leAt bs (x.off % 4 + i * (w / 8)) (w / 8)))))
  | none, none => (s, .error ⟨0x05, x.off, none⟩)

/-- The plan of a copy command, its indices given. -/
def Command.plan (cmd : Command) (idx : List Int) : CopyPlan :=
  match cmd.work with
  | .copy kind src dst origins index perm _ _ => { kind, src, dst, origins, perm, idx, scale := natField index.ctl 3 3 }
  | _ => { kind := .cp, src := Shape.ofBytes [], dst := Shape.ofBytes [], origins := [], perm := [], idx := [], scale := 0 }

/-- A fault that rows of a command meet: the one of the lowest row is recorded once the other rows are performed (R184). -/
def State.meet (s : State) (uid q row : Nat) (e : Bad) : State :=
  let (f, s) := s.cmdFault q e
  s.onCommand uid (fun x => { x with met := match x.met with | some (r, g) => if row < r then some (row, f) else some (r, g) | none => some (row, f) })

/-- The accesses of a command that can be performed next, by work and place: those that are not on their way; a write of `cps` follows the lower rows that
write one of its bytes (R178). -/
def Command.next (cmd : Command) : List (Nat × Nat) :=
  let scatter := match cmd.work with | .copy .cps _ _ _ _ _ _ _ => true | _ => false
  let touches (y : RowWork) (c : Nat × OutByte) : Bool :=
    y.dsts.any (fun d => overlap d.2.key 8 c.1 1) || y.accs.any (fun (a : CmdAccess) => a.write.any (fun (w : Nat × OutByte) => w.1 == c.1))
  let free (x : RowWork) (a : CmdAccess) : Bool :=
    !scatter || a.write == [] || !cmd.works.any (fun y => decide (y.rows.headD 0 < x.rows.headD 0) && a.write.any (touches y))
  ((List.range cmd.works.length).zip cmd.works).flatMap (fun x =>
    ((List.range x.2.accs.length).zip x.2.accs).filterMap (fun a => if a.2.sent.isNone && free x.2 a.2 then some (x.1, a.1) else none))

/-- What becomes of the works of a command: those that are read issue their writes, those that are written are performed; and of the command, once none is left and
no write of it is held: it is done, or it records what it met. -/
def State.settleCommand (s : State) (core uid : Nat) : State :=
  match s.commandAt uid with
  | none => s
  | some (_, _, cmd) =>
    let p := cmd.plan []
    let versioned := match cmd.work with | .copy (.cpv _) _ _ _ _ _ _ _ => true | _ => false
    let go (x : RowWork) : RowWork :=
      if x.accs != [] || x.dsts == [] then x
      else
        let m := x.cells p.dst.esz
        let runs := if versioned then p.lineRuns cmd x.rows m else runsOf p.dst.spaceOf.unit m
        { x with accs := runs.map (fun r => { sent := none, reads := [], write := r, space := p.dst.spaceOf }), dsts := [] }
    let works := cmd.works.map go
    let done := (works.filter (fun x => x.accs == [])).flatMap (fun x => x.rows)
    let fresh := done.filter (fun r => !cmd.rows.contains r)
    let bytes := if versioned then 0 else fresh.length * p.src.bytesOf (p.box.getD 0 1)
    let left := works.filter (fun x => x.accs != [])
    let ended := cmd.begun && left == [] && cmd.heldWrites == 0
    (s.onCommand uid (fun x =>
      { x with
        works := left, rows := x.rows ++ fresh, bytes := x.bytes + bytes, done := ended && x.met.isNone,
        fault := if ended then x.fault.or (x.met.map (fun f => { f.2 with since := s.hb })) else x.fault,
        met := if ended then none else x.met })).onCore core (fun k => { k with copied := k.copied + BitVec.ofNat 64 bytes })

/-- The rows of a work are performed not at all: what is left of it is gone. -/
def State.failWork (s : State) (uid q : Nat) (x : RowWork) (e : Bad) : State :=
  (s.meet uid q (x.rows.headD 0) e).onCommand uid (fun c => { c with works := c.works.filter (fun y => y.rows != x.rows) })

/-- The elements of an access read. -/
def State.readElems (s : State) (esz : Nat) : List (Nat × Elem) → State × Except Bad (List (Nat × Nat))
  | [] => (s, .ok [])
  | (i, e) :: l =>
    match s.readElem e esz with
    | (s, .error b) => (s, .error b)
    | (s, .ok v) =>
      match State.readElems s esz l with
      | (s, .ok vs) => (s, .ok ((i, v) :: vs))
      | r => r

/-- An access of a command acts on memory (07 R150), and is complete. -/
def State.actCommand (s : State) (core q : Nat) (cmd : Command) (x : RowWork) (a : CmdAccess) : State :=
  let p := cmd.plan []
  let drop (s : State) (got : List (Nat × Nat)) : State := s.onCommand cmd.uid (fun c =>
    { c with works := c.works.map (fun y => if y.rows == x.rows then { y with accs := y.accs.filter (· != a), got := y.got ++ got } else y) })
  let s := s.noteWork cmd.ctx
  let s :=
    match a.write, cmd.work with
    | [], _ =>
      match s.readElems p.src.esz a.reads with
      | (s, .error e) => s.failWork cmd.uid q x e
      | (s, .ok vs) => drop s vs
    | m, .copy (.cpv add) _ _ _ _ _ version timeout =>
      (drop (s.holdLine p cmd x.rows add version timeout m) []).onCommand cmd.uid (fun c =>
        { c with heldWrites := c.heldWrites + 1, lost := c.lost.filter (fun l => !(m.head?.any (fun (c : Nat × OutByte) => p.index (c.2.name / 64) == l.1))) })
    | m, _ =>
      match s.writeRun a.space m with
      | (s, some e) => s.failWork cmd.uid q x e
      | (s, none) => drop s []
  s.settleCommand core cmd.uid

/-- The first address of an access, and the key it lies at. -/
def CmdAccess.name (a : CmdAccess) : Nat := match a.reads, a.write with | e :: _, _ => e.2.name | _, c :: _ => c.2.name | _, _ => 0
def CmdAccess.key (a : CmdAccess) : Nat := match a.reads, a.write with | e :: _, _ => e.2.key | _, c :: _ => c.1 | _, _ => 0

/-- An access of a command performed: it acts, or one to another package enters the channel toward it; with no way there it fails (01 R19, R20). -/
def State.performAccess (s : State) (core q : Nat) (cmd : Command) (x : RowWork) (a : CmdAccess) : State :=
  match (if a.space == .dev then keyRemote a.key else none) with
  | none => s.actCommand core q cmd x a
  | some pkg =>
    match s.routeTo pkg 0 with
    | .error info => (s.failWork cmd.uid q x ⟨0x1C, a.name, info⟩).settleCommand core cmd.uid
    | .ok port =>
      let r := s.request cmd.ctx cmd.uid
      if !s.mayTake port r then s
      else
      let (k, s) := (s.take port r).newUid
      let s := s.onCommand cmd.uid (fun c =>
        { c with works := c.works.map (fun y => if y.rows == x.rows then { y with accs := y.accs.map (fun b => if b == a then { b with sent := some k } else b) } else y) })
      s.send k 0 (Access.asked (.engine k) (a.write != []) [{ addr := a.key, bytes := 0, data := 0, name := a.name, laid := 0 }]) pkg

/-- An in-place transpose within this package swaps its pairs in one step, or with a fault not at all (R179). -/
def State.transpose (s : State) (core q : Nat) (cmd : Command) (x : RowWork) : State :=
  let p := cmd.plan []
  match s.readElems p.src.esz (x.accs.flatMap (fun a => a.reads)) with
  | (_, .error e) => (s.failWork cmd.uid q x e).settleCommand core cmd.uid
  | (t, .ok vs) =>
    let runs := runsOf p.dst.spaceOf.unit ({ x with got := vs }.cells p.dst.esz)
    let r := runs.foldl (fun (r : State × Option Bad) m => match r.2 with | none => r.1.writeRun p.dst.spaceOf m | some _ => r) (t, none)
    match r with
    | (_, some e) => (s.failWork cmd.uid q x e).settleCommand core cmd.uid
    | (t, none) => (t.onCommand cmd.uid (fun c => { c with works := c.works.map (fun y => { y with accs := [], dsts := [] }) })).settleCommand core cmd.uid

/-- Rows located in turn: the works that can be performed, and the first failed check, with its row, of those that cannot. -/
def State.locate (s : State) (who : Asker) (core ctx : Nat) (b : Option Block) (p : CopyPlan) (done : List Nat) : List Nat →
    State × List (Nat × Except Bad (List Moved))
  | [] => (s, [])
  | r :: rs =>
    let (s, m) := s.rowMoves who core ctx b p r
    let (s, ms) := State.locate s who core ctx b p done rs
    (s, (r, m) :: ms)

/-- A copy command issues its accesses (07 R149): those of the rows that are still to be performed and pass their checks. -/
def State.beginCopy (s : State) (core q : Nat) (cmd : Command) : State :=
  let who : Asker := .engine cmd.uid
  let b := s.blockOf cmd.block
  let indexed := match cmd.work with | .copy .cpg _ _ _ i _ _ _ => some i | .copy .cps _ _ _ i _ _ _ => some i | _ => none
  match (match indexed with | some i => s.indices b i | none => (s, .ok [])) with
  | (s, .error e) => ((s.meet cmd.uid q 0 e).onCommand cmd.uid (fun c => { c with begun := true })).settleCommand core cmd.uid
  | (s, .ok idx) =>
    let p := cmd.plan idx
    let redo := cmd.lost.flatMap (fun l => l.2)
    let rows := (List.range p.rows).filter (fun r => !cmd.rows.contains r || redo.contains r)
    let (t, ms) := s.locate who core cmd.ctx b p cmd.rows rows
    match ms.findSome? (fun m => match m.2 with | .error e => if e.later then some e else none | .ok _ => none) with
    | some e => s.askFor who e
    | none =>
      let bad := ms.filterMap (fun m => match m.2 with | .error e => some (m.1, e) | .ok _ => none)
      let movesOf (r : Nat) : List Moved := (ms.findSome? (fun m => if m.1 == r then (match m.2 with | .ok l => some l | .error _ => none) else none)).getD []
      let works := match p.kind with
        | .cpt true => if bad == [] then [p.start rows true (rows.flatMap movesOf)] else []
        | .cpv _ =>
          let failed := p.spread rows rows.length (bad.map (fun b => b.1))
          (p.groups (rows.filter (fun r => !failed.contains r)) rows.length).map (fun g => p.start g true (g.flatMap movesOf))
        | _ => (rows.filter (fun r => !bad.any (fun b => b.1 == r))).map (fun r => p.start [r] (!p.covered cmd.rows r) (movesOf r))
      let t := bad.foldl (fun t e => t.meet cmd.uid q e.1 e.2) (t.taken who)
      (t.onCommand cmd.uid (fun c => { c with begun := true, works })).settleCommand core cmd.uid

/-- The accesses of the warps that issued a command which come before it have all been performed (07 R159). -/
def State.orderedBefore (s : State) (after : List (Nat × Nat)) : Bool :=
  let waits (a : Access) (k : Nat) : Bool :=
    decide (a.seq < k) && (a.space == .blk || a.space == .spad || match a.kind with | .atom _ _ _ _ _ => true | _ => false)
      && (match a.kind with | .fence _ => false | _ => true)
  after.all (fun x =>
    !(s.warps.any (fun w => w.uid == x.1 && w.pending.any (fun a => waits a x.2)))
      && !(s.channels.any (fun o => o.warp == x.1 && waits o.access x.2)))

end Sys2Proof.Machine
end

