-- ==== Sys2Proof/Machine/Copies.lean ====
section
/-!
DEFINITION. Copy instructions and waiting on sprues: opcodes 0xA0 to 0xA7 (20 R423 to R426; 08 R174 to R181, R185).
-/
namespace Sys2Proof.Machine

/-! ### The parameter block (20 Table 20-3) -/

/-- Fields of IDXCTL: the width in bytes, REG. -/
def idxBytes (ctl : Nat) : Nat := 2 ^ natField ctl 0 2
def idxReg (ctl : Nat) : Bool := natBit ctl 6

/-- The routes of a parameter block. -/
def Routes.ofBlock (pb : List Byte) : Routes :=
  let f := leAt pb 37 1
  { barrier := natBit f 0, task := natBit f 1, record := natBit f 2, rows := natBit f 3, die := natField (leAt pb 38 2) 12 2,
    index := natField (leAt pb 38 2) 0 12, word := leAt pb 40 4, tag := BitVec.ofNat 64 (leAt pb 48 8) }

/-- A route field is out of range, or set for a route that RFLAGS does not name. -/
def routesBad (pb : List Byte) : Bool :=
  let f := leAt pb 37 1
  natField f 4 4 != 0 || natField (leAt pb 38 2) 14 2 != 0 || leAt pb 40 4 % 8 != 0 || (!natBit f 0 && (leAt pb 40 4 != 0 || natBit f 3))
    || (!natBit f 1 && leAt pb 38 2 != 0) || (!natBit f 2 && leAt pb 48 8 != 0)

/-- The index fields of `cpg` and `cps` are out of order. -/
def indexBad (w : Warp) (pb : List Byte) : Bool :=
  let ctl := leAt pb 32 1
  let r := leAt pb 33 1
  let n := if natField ctl 0 2 == 3 then 2 else 1
  natBit ctl 7
    || (if idxReg ctl then leAt pb 24 4 != 0 || r + n > w.nreg || (n == 2 && r % 2 == 1) else r != 0 || leAt pb 24 4 % idxBytes ctl != 0)

/-- A parameter block that raises cause 0x02 with FIELD 8 (20 R423). -/
def paramBad (w : Warp) (kind : CopyKind) (pb : List Byte) : Bool :=
  let perm := leAt pb 34 3
  let vto := leAt pb 44 4
  routesBad pb || leAt pb 56 8 != 0
    || (match kind with | .cpg | .cps => indexBad w pb | _ => leAt pb 24 8 != 0 || leAt pb 32 2 != 0)
    || (match kind with | .cpt _ => natField perm 18 6 != 0 | _ => perm != 0)
    || (match kind with | .cpv _ => vto / 2 ^ 8 == 0 | _ => vto != 0)

/-- ORIGIN and PERM. -/
def originOf (pb : List Byte) : List Int := (List.range 6).map (fun i => signed 32 (leAt pb (4 * i) 4))
def permOf (pb : List Byte) : List Nat := (List.range 6).map (fun i => natField (leAt pb 34 3) (3 * i) 3)

/-- The indices that lanes of a warp give from registers, in ascending lane order (08 R177). -/
def Ctx.indexLanes (c : Ctx) (pb : List Byte) : List Nat :=
  (laneList c.real).map (fun l => c.regs.vecs (leAt pb 33 1) l (if natField (leAt pb 32 1) 0 2 == 3 then 2 else 1))

/-! ### The checks at issue (08 R175) -/

/-- What a copy instruction asks for, once its records and its block have been read. -/
structure CopyAsk where
  kind   : CopyKind
  src    : Shape
  dst    : Shape
  bad    : Bool
  origin : List Int
  perm   : List Nat
  index  : IdxSource
  lanes  : Nat
  extra  : Nat
deriving DecidableEq, Repr

/-- PERM is a permutation of the first RANK dimensions (08 R179). -/
def permOk (rank : Nat) (perm : List Nat) : Bool :=
  (List.range 6).all (fun i =>
    if i < rank then decide (perm.getD i 6 < rank) && (List.range rank).any (fun j => perm.getD j 6 == i) else perm.getD i 6 == i)

/-- The base or a stride is not a multiple of the element size (06 R140). -/
def Shape.crooked (sh : Shape) : Bool := sh.base.toNat % sh.esz != 0 || sh.strides.any (fun v => v % (sh.esz : Int) != 0)

/-- The exact in-place transpose (08 R179). -/
def CopyAsk.exact (a : CopyAsk) : Bool :=
  let d := a.src
  a.src.space == a.dst.space && a.src.die == a.dst.die && a.src.base == a.dst.base && a.src.rank == 2 && d.dims.getD 0 0 == d.dims.getD 1 0
    && d.box.getD 0 0 == d.dims.getD 0 0 && d.box.getD 1 0 == d.dims.getD 0 0 && a.origin.all (fun v => v == 0)
    && a.perm.getD 0 0 == 1 && a.perm.getD 1 0 == 0

/-- The range from the lowest to the highest addressed byte of a box. -/
def Shape.range (sh : Shape) (origin : List Int) : Int × Int :=
  let ends := (List.range 6).map (fun i =>
    let st := sh.strides.getD i 0
    let (lo, hi) := if sh.nibble && i == 0 then (origin.getD 0 0 / 2, (origin.getD 0 0 + (sh.box.getD 0 1 : Int) - 1) / 2)
      else (origin.getD i 0, origin.getD i 0 + (sh.box.getD i 1 : Int) - 1)
    if st < 0 then (st * hi, st * lo) else (st * lo, st * hi))
  (ends.foldl (fun v e => v + e.1) (sh.base.toNat : Int), ends.foldl (fun v e => v + e.2) (sh.base.toNat : Int) + sh.esz - 1)

/-- The two ranges overlap (08 R179). -/
def CopyAsk.overlaps (a : CopyAsk) : Bool :=
  let (lo, hi) := a.src.range a.origin
  let (lo', hi') := a.dst.range []
  a.src.space == a.dst.space && (a.src.space != 2 || a.src.die == a.dst.die) && lo ≤ hi' && lo' ≤ hi

/-- The box shapes differ. -/
def CopyAsk.differ (a : CopyAsk) : Bool :=
  let s (i : Nat) : Nat := a.src.box.getD i 1
  let d (i : Nat) : Nat := a.dst.box.getD i 1
  match a.kind with
  | .cpt _ => (List.range 6).any (fun i => d i != s (a.perm.getD i i))
  | .cpg => d 1 != a.index.count || [0, 2, 3, 4, 5].any (fun i => s i != d i)
  | .cps => s 1 != a.index.count || [0, 2, 3, 4, 5].any (fun i => s i != d i)
  | _ => (List.range 6).any (fun i => s i != d i)

/-- The bytes of a command or slice. -/
def CopyAsk.bytes (a : CopyAsk) : Nat :=
  match a.kind with
  | .cpg => a.dst.bytesOf (boxElems a.dst.box)
  | _ => a.src.bytesOf (boxElems a.src.box)

/-- TINFO of cause 0x12 raised at issue (08 Table 8-6). -/
def sizeInfo (reason q : Nat) : Nat := reason * 2 ^ 24 + q * 2 ^ 12

/-- A scratchpad side names a die with no window. -/
def State.noWindow (s : State) (ctx : Nat) (sh : Shape) : Bool := sh.space == 2 && !sh.owned && (s.window ctx sh.die).2 == 0

/-- The first check of R175, and of R181 and R424 for `cpv`, that fails. -/
def State.copyCheck (s : State) (ctx q : Nat) (a : CopyAsk) : Option Bad :=
  let walked := match a.kind with | .cps => a.dst | _ => a.src
  let indexed := match a.kind with | .cpg | .cps => true | _ => false
  let inplace := match a.kind with | .cpt true => true | _ => false
  let turn := match a.kind with | .cpt _ => true | _ => false
  if a.bad || (turn && !permOk a.src.rank a.perm) then some ⟨0x16, none, none⟩
  else if a.src.crooked || a.dst.crooked || (walked.nibble && a.origin.getD 0 0 % 2 != 0) then some ⟨0x04, none, none⟩
  else if indexed && (a.index.count == 0 || a.index.count > 65536 || (a.index.regs.isSome && a.lanes < a.index.count)) then
    some ⟨0x12, none, sizeInfo 2 q⟩
  else if a.extra + a.bytes > 1048576 then some ⟨0x12, none, sizeInfo 0 q⟩
  else if a.src.ty != a.dst.ty || a.differ then some ⟨0x12, none, sizeInfo 1 q⟩
  else if turn && (if inplace then !a.exact else a.overlaps && !a.exact) then some ⟨0x11, none, none⟩
  else if s.noWindow ctx a.src || s.noWindow ctx a.dst then some ⟨0x05, none, none⟩
  else
    match a.kind with
    | .cpv add =>
      let p : CopyPlan := { kind := a.kind, src := a.src, dst := a.dst, origins := [a.origin], perm := a.perm, idx := [], scale := 0 }
      if add && !([1, 2, 16, 17, 3, 15].contains a.dst.ty.toNat) then some ⟨0x12, none, sizeInfo 5 q⟩
      else if a.dst.space != 0 then some ⟨0x16, none, none⟩
      else if !p.wholeLines then some ⟨0x04, none, none⟩
      else none
    | _ => none

/-- The work of a command. -/
def CopyAsk.work (a : CopyAsk) (pb : List Byte) : CmdWork :=
  let kind := match a.kind with | .cpt _ => .cpt a.exact | k => k
  .copy kind a.src a.dst [a.origin] a.index a.perm (leAt pb 44 1) (leAt pb 44 4 / 2 ^ 8)

/-! ### The instructions -/

/-- The fault of the head of a sprue, when the warp issued it (08 R185). -/
def State.ownFault (s : State) (core q uid : Nat) : Option CmdFault :=
  match s.sprue core q with
  | x :: _ => if x.warp == uid then x.fault else none
  | [] => none

/-- The warp has taken the fault of the head of a sprue. -/
def State.tellFault (s : State) (core q : Nat) : State :=
  s.onHead core q (fun x => { x with fault := x.fault.map (fun f => { f with told := true }) })

/-- A recorded fault delivered at an instruction of its warp. -/
def deliverFault (s : State) (c : Ctx) (q : Nat) (f : CmdFault) : Done :=
  let t := c.warp.commandTrap c.pc.toNat f
  if t.mask == 0 then .ok (finishWarp s c true) else .trap (s.tellFault c.core q) c.warp.uid t

/-- What a copy instruction reads before its checks: its block, then both records. -/
def State.readCopy (s : State) (c : Ctx) (kind : CopyKind) : State × Got (List Byte × List Byte × List Byte) :=
  match s.recordBlk c (c.c 0) 64 with
  | (s, .busy) => (s, .busy)
  | (s, .bad e) => (s, .bad e)
  | (s, .ok pb) =>
    if paramBad c.warp kind pb then (s, .bad ⟨0x02, none, encInfo 9 8⟩)
    else
      match s.shapeAt c (c.a 0) with
      | (s, .busy) => (s, .busy)
      | (s, .bad e) => (s, .bad e)
      | (s, .ok src) =>
        match s.shapeAt c (c.b 0) with
        | (s, .busy) => (s, .busy)
        | (s, .bad e) => (s, .bad e)
        | (s, .ok dst) => (s, .ok (pb, src, dst))

/-- What is asked for with the bytes read. -/
def Ctx.ask (c : Ctx) (kind : CopyKind) (pb src dst : List Byte) (extra : Nat) : CopyAsk :=
  let lanes := c.indexLanes pb
  let n := leAt pb 28 4
  { kind, src := Shape.ofBytes src, dst := Shape.ofBytes dst, bad := shapeBad src false || shapeBad dst true, origin := originOf pb,
    perm := permOf pb,
    index := { regs := if idxReg (leAt pb 32 1) then some (lanes.take n) else none, off := leAt pb 24 4, ctl := leAt pb 32 1, count := n },
    lanes := lanes.length, extra }

/-- The sprue that E names. -/
def Ctx.sprueField (c : Ctx) : Nat := bitField c.x.e 0 3

/-- A copy other than `cpc`, once no fault of its own stands before it. -/
def copyBody (kind : CopyKind) (s : State) (c : Ctx) (q : Nat) : Done :=
  Got.then s c (s.readCopy c kind) (fun s r =>
    let (pb, src, dst) := r
    let a := c.ask kind pb src dst 0
    match s.copyCheck c.warp.ctx q a with
    | some e => laneTrap s c c.real e.cause e.addr e.info
    | none =>
      if s.spruefull c.core q then stall s c
      else .ok (finishWarp (s.issueCommand c q (Routes.ofBlock pb) (a.work pb)) c true))

/-- What is compared of a copy (11 R245): its operands, and the indices that its parameter block says registers supply. -/
def copyRead (s : State) (c : Ctx) : List Nat :=
  c.operands ++ match c.op with
    | .cpg | .cps => (match (s.recordBlk c (c.c 0) 64).2 with | .ok pb => if idxReg (leAt pb 32 1) then c.indexLanes pb else [] | _ => [])
    | _ => []

/-- A copy other than `cpc`. -/
def copyEffect (kind : CopyKind) : State → Ctx → Done :=
  engineRead false false copyRead (fun s c =>
    let q := c.sprueField
    match s.ownFault c.core q c.warp.uid with
    | some f => if f.told then copyBody kind s c q else deliverFault s c q f
    | none => copyBody kind s c q)

/-- CP. -/
def execCp (x : Fields) (s : State) : Out := issue (copyEffect .cp) .cp x s

/-- CPG. -/
def execCpg (x : Fields) (s : State) : Out := issue (copyEffect .cpg) .cpg x s

/-- CPS. -/
def execCps (x : Fields) (s : State) : Out := issue (copyEffect .cps) .cps x s

/-- CPT. -/
def execCpt (x : Fields) (s : State) : Out := issue (copyEffect (.cpt (x.f == 1))) .cpt x s

/-- CPV. -/
def execCpv (x : Fields) (s : State) : Out := issue (copyEffect (.cpv (x.f == 1))) .cpv x s

/-! ### `cpc` (08 R180) -/

/-- The living warps of a block. -/
def State.livingWarps (s : State) (block : Nat) : List Nat :=
  (s.warps.filter (fun w => w.block == block && w.aliveQuads != [])).map (fun w => w.uid)

/-- Every `cpc` to which all living warps of its block have given a slice enters its sprue when there is room. -/
def State.admitCpcs (s : State) : State :=
  s.cpcs.foldl
    (fun s o =>
      if (s.livingWarps o.cmd.block).all (fun u => o.given.any (fun g => g.1 == u)) && !s.spruefull o.core o.sprue then
        State.enter { s with cpcs := s.cpcs.filter (fun p => p.cmd.uid != o.cmd.uid) } o.core o.sprue o.cmd
      else s)
    s

/-- The bytes of the slices given so far. -/
def OpenCpc.bytes (o : OpenCpc) : Nat :=
  match o.cmd.work with
  | .copy _ src _ origins _ _ _ _ => src.bytesOf (boxElems src.box) * origins.length
  | _ => 0

/-- A slice added to an open `cpc`. -/
def OpenCpc.add (o : OpenCpc) (uid seq : Nat) (pc : BitVec 55) (qs : BitVec 8) (origin : List Int) : OpenCpc :=
  { o with
    given := o.given ++ [(uid, pc, qs)],
    cmd := { o.cmd with
      after := o.cmd.after ++ [(uid, seq)],
      work := match o.cmd.work with
        | .copy k src dst origins i p v t => .copy k src dst (origins ++ [origin]) i p v t
        | w => w } }

/-- Every other living warp of the block has given its slice of a `cpc`. -/
def State.lastGiver (s : State) (given : List (Nat × BitVec 55 × BitVec 8)) (block uid : Nat) : Bool :=
  (s.livingWarps block).all (fun u => u == uid || given.any (fun g => g.1 == u))

/-- A slice of a `cpc`; a warp that has given one waits until the command enters, and the last waits for room in the sprue (08 R172). -/
def cpcBody (s : State) (c : Ctx) (q : Nat) : Done :=
  let found := s.cpcs.find? (fun o => o.cmd.block == c.warp.block)
  match found with
  | some o =>
    if o.given.any (fun g => g.1 == c.warp.uid) then stall s c
    else
      Got.then s c (s.readCopy c .cpc) (fun s r =>
        let (pb, src, dst) := r
        let a := c.ask .cpc pb src dst o.bytes
        match s.copyCheck c.warp.ctx q a with
        | some e => laneTrap s c c.real e.cause e.addr e.info
        | none =>
          if q != o.sprue || (c.a 0, c.b 0) != o.named then laneTrap s c c.real 0x12 none (sizeInfo 4 q)
          else if s.spruefull c.core q && s.lastGiver o.given c.warp.block c.warp.uid then stall s c
          else
            let (k, s) := s.newUid
            let s := { s with cpcs := s.cpcs.map (fun (p : OpenCpc) => if p.cmd.uid == o.cmd.uid then p.add c.warp.uid k c.pc (quadSet c.quads) a.origin else p) }
            .ok (finishWarp s.admitCpcs c true))
  | none =>
    Got.then s c (s.readCopy c .cpc) (fun s r =>
      let (pb, src, dst) := r
      let a := c.ask .cpc pb src dst 0
      match s.copyCheck c.warp.ctx q a with
      | some e => laneTrap s c c.real e.cause e.addr e.info
      | none =>
        if s.spruefull c.core q && s.lastGiver [] c.warp.block c.warp.uid then stall s c
        else
        let (k, s) := s.newUid
        let o : OpenCpc :=
          { core := c.core, named := (c.a 0, c.b 0), sprue := q, cmd := Command.make k c.warp (s.blockAt c.warp.block) (Routes.ofBlock pb) (a.work pb),
            given := [(c.warp.uid, c.pc, quadSet c.quads)] }
        .ok (finishWarp (State.admitCpcs { s with cpcs := s.cpcs ++ [o] }) c true))

/-- A `cpc`. -/
def cpcEffect (s : State) (c : Ctx) : Done :=
  engineEffect Ctx.operands
    (fun s c =>
      let q := c.sprueField
      match s.ownFault c.core q c.warp.uid with
      | some f => if f.told then cpcBody s c q else deliverFault s c q f
      | none => cpcBody s c q)
    s c

/-- CPC. -/
def execCpc (x : Fields) (s : State) : Out := issue cpcEffect .cpc x s

/-! ### Joining and waiting (20 R425, R426) -/

/-- The sprues of a mask. -/
def Ctx.maskSprues (c : Ctx) : List Nat := [0, 1, 2, 3, 4, 5, 6, 7].filter (fun q => bitAt c.x.a.reg q)

/-- QFENCE: one entry in each named sprue; the warp does not wait. -/
def execQfence (x : Fields) (s : State) : Out :=
  issue
    (engineEffect (fun c => c.maskSprues) (fun s c =>
      let qs := c.maskSprues
      if qs.any (fun q => s.spruefull c.core q) then stall s c
      else
        let (k, s) := s.newUid
        let s := qs.foldl (fun s q => s.issueCommand c q Routes.none (.qfence k)) s
        .ok (finishWarp s c true)))
    .qfence x s

/-- Commands of a warp in some sprues that were issued before a place in order. -/
def State.awaits (s : State) (core uid upTo : Nat) (qs : List Nat) : Bool :=
  qs.any (fun q => (s.sprue core q).any (fun x =>
    x.warp == uid && decide (x.uid < upTo) && match x.work with | .qfence _ => false | _ => true))

/-- QWAIT: a recorded fault traps; else the gang parks until the warp's earlier commands to the named sprues have ended. -/
def execQwait (x : Fields) (s : State) : Out :=
  issue
    (engineEffect (fun c => c.maskSprues) (fun s c =>
      let qs := c.maskSprues
      match qs.findSome? (fun q => (s.ownFault c.core q c.warp.uid).map (fun f => (q, f))) with
      | some (q, f) => deliverFault s c q f
      | none =>
        if !s.awaits c.core c.warp.uid s.uids qs then .ok (finishWarp s c true)
        else
          parkAt s c (.qwait (quadSet qs) s.uids)))
    .qwait x s

/-- The faulted heads of the issuing warp in the named sprues. -/
def State.faultedHeads (s : State) (c : Ctx) : List Nat := c.maskSprues.filter (fun q => (s.ownFault c.core q c.warp.uid).isSome)

/-- A faulted command that is performed again, from its first unperformed row (R185). -/
def Command.again (x : Command) : Command := { x with fault := none, met := none, done := false, begun := false }

/-- QWAIT_REPLAY. -/
def execQwaitReplay (x : Fields) (s : State) : Out :=
  issue
    (engineEffect (fun c => c.maskSprues) (fun s c =>
      let s := (s.faultedHeads c).foldl (fun s q => s.onHead c.core q Command.again) s
      .ok (finishWarp s c true)))
    .qwaitReplay x s

end Sys2Proof.Machine
end

