-- ==== Sys2Proof/Machine/Tasks.lean ====
section
/-!
DEFINITION. Tasks (04 R75 to R81, R466; 05 R119), the event queues (08 R183), and the completion of a command of a sprue (08 R182; 20 R426):
what the engines, the scheduler and the die control core share.
-/
namespace Sys2Proof.Machine

/-! ### Device memory of a context, by virtual address -/

/-- Bytes read within lines of 64 bytes by an engine, or the first that cannot be read with its cause and TINFO. -/
def State.readVa (s : State) (who : Asker) (core ctx va : Nat) : Nat → Nat → State × Except Bad (List Byte)
  | 0, _ => (s, .ok [])
  | fuel + 1, n =>
    if n == 0 then (s, .ok [])
    else
      let k := min n (64 - va % 64)
      match s.checkDev core ctx va 1 .r with
      | (s, .error e) => (s, .error e)
      | (s, .ok (key, _)) =>
        match s.bytesFor who va key k with
        | .error e => (s, .error e)
        | .ok l =>
          match State.readVa s who core ctx (va + k) fuel (n - k) with
          | (s, .ok bs) => (s, .ok (l ++ bs))
          | r => r

/-- Bytes written within lines of 64 bytes by an engine, up to the first that cannot be written. -/
def State.writeVa (s : State) (who : Asker) (core ctx va : Nat) : Nat → List Byte → State × Option Bad
  | 0, _ => (s, none)
  | fuel + 1, bs =>
    if bs == [] then (s, none)
    else
      let k := min bs.length (64 - va % 64)
      match s.checkDev core ctx va 1 .w with
      | (s, .error e) => (s, some e)
      | (s, .ok (key, _)) =>
        match s.putFor who va key (bs.take k) with
        | (s, some e) => (s, some e)
        | (s, none) => State.writeVa s who core ctx (va + k) fuel (bs.drop k)

/-- A range read or written whole. -/
def State.readRange (s : State) (who : Asker) (core ctx va n : Nat) : State × Except Bad (List Byte) := s.readVa who core ctx va (n / 64 + 2) n
def State.writeRange (s : State) (who : Asker) (core ctx va : Nat) (bs : List Byte) : State × Option Bad := s.writeVa who core ctx va (bs.length / 64 + 2) bs

/-- A unit that acts in this package only. -/
def noAsker : Asker := .engine 0

/-- The first core of a die, through which the units of the die translate. -/
def dieCore (die : Nat) : Nat := 112 * die

/-- A failure outside any warp ends the context (11 Table 11-6 KIND 7). -/
def State.failContext (s : State) (ctx die : Nat) (core : Nat) (e : Bad) : State :=
  let (free, s) := s.chooseNat
  (s.logCtx ctx { ErrorRecord.ofKind 7 with
    cause := e.cause, core, die, taddr := BitVec.ofNat 64 (e.addr.getD free), tinfo := BitVec.ofNat 64 (e.info.getD (free / 2 ^ 64)) }).killContext ctx

/-! ### Task records (04 Tables 4-1 and 4-2) -/

/-- A stage descriptor. -/
def StageDesc.ofBytes (l : List Byte) : StageDesc :=
  { entry := leAt l 0 4, gx := leAt l 4 4, gy := leAt l 8 4, gz := leAt l 12 4, bx := leAt l 16 2, by' := leAt l 18 2, bz := leAt l 20 2,
    cores := leAt l 22 1, vregs := leAt l 23 1, uregs := leAt l 24 1, rsv25 := leAt l 25 1, slots := leAt l 26 2, bmem := leAt l 28 4,
    stackBase := leAt l 32 8, stackLen := leAt l 40 4, queue := leAt l 44 4 }

/-- A task record; `reserved` collects its reserved bytes. -/
def TaskRec.ofBytes (l : List Byte) : TaskRec :=
  let n := min 4 (leAt l 38 1)
  { code := leAt l 0 8, param := leAt l 8 8, save := leAt l 16 8, saveLen := leAt l 24 8, dep := leAt l 32 4, nparam := leAt l 36 2,
    nstage := leAt l 38 1, prio := leAt l 39 1, flags := BitVec.ofNat 8 (leAt l 40 1), nsucc := leAt l 41 1, lcores := leAt l 42 2,
    succ := (List.range 8).map (fun i => BitVec.ofNat 16 (leAt l (48 + 2 * i) 2)),
    stages := (List.range n).map (fun k => StageDesc.ofBytes (l.drop (64 + 48 * k))),
    reserved := leAt l 44 4 + 2 ^ 32 * leAt l (64 + 48 * n) (192 - 48 * n) }

def TaskRec.cast (r : TaskRec) : Bool := bitAt r.flags 0
def TaskRec.paired (r : TaskRec) : Bool := bitAt r.flags 1
def TaskRec.marker (r : TaskRec) : Bool := bitAt r.flags 2

/-! ### The entry checks (04 Table 4-3, R466) -/

/-- Every byte of a range lies in a page that grants some rights, of this package when `home` is set. -/
def State.mapped (s : State) (core ctx : Nat) (need : Right) (home : Bool) : Nat → Nat → Nat → State × Bool
  | 0, _, _ => (s, true)
  | fuel + 1, va, n =>
    if n == 0 then (s, true)
    else
      match s.translate core ctx va need with
      | (s, .error _) => (s, false)
      | (s, .ok key) =>
        let k := min n (65536 - va % 65536)
        if home && (keyRemote key).isSome then (s, false) else State.mapped s core ctx need home fuel (va + k) (n - k)

/-- One range of R466. -/
structure Ranged where
  va    : Nat
  bytes : Nat
  align : Nat
  need  : Right
  home  : Bool
deriving DecidableEq, Repr

/-- Ranges that all pass. -/
def State.rangesOk (s : State) (core ctx : Nat) : List Ranged → State × Bool
  | [] => (s, true)
  | r :: rs =>
    if r.va % r.align != 0 || r.va + r.bytes > 2 ^ 55 then (s, false)
    else
      match s.mapped core ctx r.need r.home (r.bytes / 65536 + 2) r.va r.bytes with
      | (s, false) => (s, false)
      | (s, true) => State.rangesOk s core ctx rs

/-- The flag array of a consuming stage, from its tile queue; a queue that cannot be read gives a range that fails. -/
def State.flagRange (s : State) (die ctx : Nat) (d : StageDesc) : Ranged :=
  let (base, len) := s.window ctx die
  let q := spadKey die base d.queue
  let bad : Ranged := ⟨2 ^ 55, 8, 64, .rw, true⟩
  if d.queue + 64 > len then bad
  else
    match (s.readAt .spad (q + 4) 4).2, (s.readAt .spad (q + 16) 8).2 with
    | .ok depth, .ok flags => ⟨flags, 8 * depth, 64, .rw, true⟩
    | _, _ => bad

/-- The ranges of a record that are checked. -/
def State.taskRanges (s : State) (die ctx : Nat) (r : TaskRec) : List Ranged :=
  r.stages.map (fun d => ⟨r.code + d.entry, 4, 4, .x, false⟩)
    ++ (if r.nparam ≥ 1 then [⟨r.param, 4 * r.nparam, 4, .r, false⟩] else [])
    ++ [⟨r.save, r.saveSize, 64, .rw, true⟩]
    ++ (r.stages.filter (fun d => d.stackLen ≥ 1)).map (fun d => ⟨d.stackBase, d.slots * d.nwarp * d.stackLen, 65536, .rw, true⟩)
    ++ (r.stages.drop 1).map (s.flagRange die ctx)

/-- A stage descriptor has a field out of its range. -/
def stageBad (r : TaskRec) (k : Nat) (d : StageDesc) : Bool :=
  d.entry % 4 != 0 || d.gx == 0 || d.gy == 0 || d.gz == 0 || d.blocks > 2 ^ 32 - 1 || d.bx == 0 || d.by' == 0 || d.bz == 0
    || d.threads > 16384 || d.cores == 0 || d.cores > 8 || d.vregs == 0 || d.vregs > 32 || d.uregs > 64 || d.rsv25 != 0 || d.slots == 0
    || d.bmem % 1024 != 0 || d.bmem > d.cores * 262144 || (d.stackLen != 0 && d.stackBase % 65536 != 0) || d.stackLen % 4096 != 0 || (k == 0 && d.queue != 0)
    || r.nparam > 16 + d.bmem / 4 || d.uregs < min 16 r.nparam

/-- The conditions of RESERVED. -/
def taskReserved (r : TaskRec) (c : Context) : Bool :=
  r.reserved != 0 || r.code % 4 != 0 || r.save % 64 != 0 || r.nstage == 0 || r.nstage > 4 || r.prio > 7 || bitField r.flags 3 5 != 0
    || r.nsucc > 8 || r.succ.any (fun v => bitField v 14 2 != 0) || r.prio > c.maxPrio || (r.cast == (r.lcores == 0))
    || ((List.range 4).any (fun k => match r.stages[k]? with | some d => stageBad r k d | none => false))

/-- The conditions of CONFIG. -/
def taskConfig (r : TaskRec) (c : Context) : Bool :=
  (r.cast && !c.castOk) || (r.paired && !c.pairedOk) || r.saveLen < r.saveSize
    || r.stages.any (fun d => d.perCore r.paired > 64 || 256 * d.vregs * d.perCore r.paired > 65536)

/-- The status codes of a command (02 Table 2-4). -/
def stOk : Nat := 0x0000
def stBadCode : Nat := 0x0001
def stReserved : Nat := 0x0002
def stNoContext : Nat := 0x0003
def stNoResource : Nat := 0x0004
def stBusy : Nat := 0x0005
def stFault : Nat := 0x0006
def stConfig : Nat := 0x0007
def stLocked : Nat := 0x0008
def stKilled : Nat := 0x0009
def stFabric : Nat := 0x000A
def stBadImage : Nat := 0x000B

/-- The lowest free entry of a die's table above the last one given out, wrapping (R75). -/
def State.freeEntry (s : State) (die : Nat) : Option Nat :=
  let last := s.lastIdx.getD die 4095
  let used := (s.tasks.filter (fun t => t.die == die)).map (fun t => t.idx)
  if used.length ≥ 4096 then none
  else ((List.range 4096).map (fun i => (last + 1 + i) % 4096)).find? (fun i => !used.contains i)

/-! ### Readiness (04 R80; 05 R119) -/

/-- A checkpoint of a context runs: none of its tasks becomes ready meanwhile (02 R39). -/
def State.checkpointing (s : State) (ctx : Nat) : Bool :=
  s.commands.any (fun c => c.ctx == ctx && c.phase != 0 && c.outcome.isNone && (c.code == 0x0A || c.code == 0x0B))

/-- A virtual device has work (03 R56): a ready task; it can run it while it is not paused (R61). -/
def State.hasReady (s : State) (v : VDev) : Bool :=
  s.tasks.any (fun t =>
    t.ready && !t.rec'.marker && match s.ctxOf t.ctx with | some c => c.vd == v.num && !c.killing && !c.killed | none => false)

def State.hasWork (s : State) (v : VDev) : Bool := !v.pausing && v.paused.isNone && s.hasReady v

/-- A device takes the smallest virtual time among those with work, if that is larger than its own (03 R56). -/
def State.raiseTime (s : State) (v : VDev) : State :=
  match (s.vdevs.filter (fun u => u.pid == v.pid && u.num != v.num && u.weight != 0 && s.hasWork u)).map (fun u => u.vtime) with
  | [] => s
  | x :: xs => s.onVd v.num (fun v => { v with vtime := max v.vtime (xs.foldl min x) })

/-- A device that gains work after having none; in a pause its virtual time stands until it resumes (03 R56, R61). -/
def State.gainWork (s : State) (ctx : Nat) : State :=
  match (s.ctxOf ctx).bind (fun c => s.vdOf c.vd) with
  | none => s
  | some v =>
    if s.hasReady v then s
    else if v.pausing || v.paused.isSome then s.onVd v.num (fun v => { v with gained := true })
    else s.raiseTime v

/-- A task becomes ready: its parameter words are read once; when they cannot be, the context is killed. -/
def State.makeReady (s : State) (die idx : Nat) : State :=
  match s.taskOf die idx with
  | none => s
  | some t =>
    if t.ready then s
    else if s.checkpointing t.ctx then { s with zeroed := s.zeroed.filter (fun z => z != (die, idx)) ++ [(die, idx)] }
    else
      let who : Asker := .engine t.order
      let ctx := t.ctx
      match s.readRange who (dieCore die) t.ctx t.rec'.param (4 * t.rec'.nparam) with
      | (t, .error e) => if e.later then s.askFor who e else (t.taken who).failContext ctx die 0xFFFF e
      | (s, .ok bs) =>
        (((s.taken who).noteWork t.ctx).gainWork t.ctx).onTask die idx (fun t =>
          { t with ready := true, params := (List.range t.rec'.nparam).map (fun i => BitVec.ofNat 32 (leAt bs (4 * i) 4)) })

/-- A decrement of a dependence counter (R80). -/
def State.decrement (s : State) (die idx n : Nat) : State :=
  match s.taskOf die idx with
  | none => s
  | some t =>
    if t.counter == 0 then s
    else
      let c := t.counter - n
      let s := s.onTask die idx (fun t => { t with counter := c })
      if c == 0 then s.makeReady die idx else s

/-- LAUNCH_TASK's entry of a record (R75, R78): a status, and the index on success. -/
def State.enterTask (s : State) (die ctx : Nat) (r : TaskRec) : State × Nat × Nat :=
  match s.ctxOf ctx with
  | none => (s, stNoContext, 0)
  | some c =>
    let inside := decide (c.saveBase ≤ r.save) && decide (r.save + r.saveSize ≤ c.saveBase + c.saveSize)
    match s.rangesOk (dieCore die) ctx (s.taskRanges die ctx r) with
    | (s, false) => (s, stFault, 0)
    | (s, true) =>
      if !inside then (s, stFault, 0)
      else if taskReserved r c then (s, stReserved, 0)
      else if taskConfig r c then (s, stConfig, 0)
      else
        match s.freeEntry die with
        | none => (s, stNoResource, 0)
        | some idx =>
          let (k, s) := s.newUid
          let t : Task :=
            { die, idx, ctx, order := k, rec' := r, counter := r.dep, ready := false, params := [],
              stages := r.stages.map (fun _ => { next := 0, done := 0, slots := [], stuck := false, cores := [] }), hosts := [], evalHb := 0 }
          let s := { s with tasks := s.tasks ++ [t], lastIdx := modifyAt (fun _ => idx) die s.lastIdx }
          (if r.dep == 0 then s.makeReady die idx else s, stOk, idx)

/-! ### The event queues (08 R183) -/

/-- The records waiting in a die's ring, and a record posted to it. -/
def State.ringFull (s : State) (die : Nat) : Bool := decide ((s.events.filter (fun e => e.1 == die)).length ≥ 4096)
def State.post (s : State) (die : Nat) (r : EventRecord) : State := { s with events := s.events ++ [(die, r)] }

/-! ### Save images (04 Table 4-6; R92 step 5) -/

/-- A saved block. -/
def State.savedOf (s : State) (uid : Nat) : Option SavedBlock := s.saved.find? (fun b => b.uid == uid)

/-- The cores of a saved block's stage. -/
def State.savedCores (s : State) (b : SavedBlock) : Nat :=
  match s.taskOf b.die b.task with
  | some t => (match t.rec'.stages[b.stage]? with | some d => d.cores | none => 1)
  | none => 1

/-- A route-1 arrival on the save image of a block: it pays the debt of a tagged word there. -/
def State.paySaved (s : State) (b : SavedBlock) (o n : Nat) : State :=
  let base := s.slotAddr b.die b.task b.stage b.slot
  let core := dieCore b.die
  match s.readRange noAsker core b.ctx (base + 256 + 262144 * s.savedCores b + o / 64) 1, s.readRange noAsker core b.ctx (base + 256 + o) 8 with
  | (_, .ok tag), (_, .ok v) =>
    if natBit (leAt tag 0 1) (o / 8 % 8) then
      let w := BarWord.ofNat (leAt v 0 8)
      let w := BarWord.close { w with debt := (w.debt + 2 ^ 28 - n % 2 ^ 28) % 2 ^ 28 }
      (s.writeRange noAsker core b.ctx (base + 256 + o) (leBytes 8 w.toNat)).1
    else s
  | _, _ => s

/-! ### Completion (08 R182, R185; 20 R426) -/

/-- The rows and bytes of a command that have been performed. -/
def Command.rowsDone (x : Command) : Nat := (x.rows.filter (fun r => !x.lost.any (fun l => l.2.contains r))).length

/-- Route 1: an arrival at a block's barrier word, in its banks or in its image; none once the block has completed. -/
def State.routeOne (s : State) (block word n : Nat) : State :=
  match s.blockOf block with
  | some b => s.payDebt b word n
  | none => match s.savedOf block with | some b => s.paySaved b word n | none => s

/-- Routes 1 and 2 (R182). -/
def State.actRoutes (s : State) (r : Routes) (block rows bytes : Nat) : State :=
  let s := if r.barrier then s.routeOne block r.word (if r.rows then rows else bytes) else s
  if r.task then s.decrement r.die r.index 1 else s

/-- The completion record of a command (Table 8-3). -/
def State.cmdRecord (s : State) (core q : Nat) (x : Command) : EventRecord :=
  { ctx := x.ctx, tag := x.routes.tag, cause := match x.fault with | some f => f.cause | none => 0, sprue := BitVec.ofNat 8 q,
    core := BitVec.ofNat 16 (s.coreNumber core), rows := BitVec.ofNat 32 x.rowsDone, bytes := BitVec.ofNat 64 x.bytes,
    faddr := match x.fault with | some f => f.addr | none => 0 }

/-- Quads parked in a `qwait` of a core go on when what they wait for has ended, and execute it again when a fault of their own has
come. -/
def State.settleQwaits (s : State) (core : Nat) : State :=
  (s.residents core).foldl
    (fun s w =>
      let clk := (s.coreOf core).clk
      let fate (q : Quad) : Option Bool :=
        match q.park with
        | .qwait mask upTo =>
          let qs := quadList mask
          if qs.any (fun k => (s.ownFault core k w.uid).isSome) then some false else if s.awaits core w.uid upTo qs then none else some true
        | _ => none
      let past := quads8.filter (fun k => fate (w.quad k) == some true)
      s.onWarp w.uid (fun v =>
        { v with
          retired := if past == [] then v.retired else v.retired + 1,
          agreed := v.agreed.filter (fun k => !(quadList k).any past.contains),
          quads := v.quads.map (fun q =>
            match fate q with
            | some false => { q with park := .running, readyAt := clk }
            | some true => { q with park := .running, readyAt := clk, path := { q.path with pc := q.path.pc + 8 } }
            | none => q) }))
    s

/-- A faulted head discarded (R182, R185): on route 3 it posts its record when ROUTES names it or `always` is set; none when that ring
is full. -/
def State.discardHead (s : State) (core q : Nat) (always : Bool) : Option State :=
  match s.sprue core q with
  | [] => some s
  | x :: _ =>
    let posts := always || x.routes.record
    if posts && s.ringFull (coreDie core) then none
    else
      let s := if posts then s.post (coreDie core) (s.cmdRecord core q x) else s
      let s := { s with heldWrites := s.heldWrites.filter (fun h => h.cmd != x.uid) }
      some ((s.onSprue core q (fun l => l.drop 1)).settleQwaits core)

/-- QWAIT_DISCARD: the faulted heads of the warp are discarded; with the event queue full it waits. -/
def execQwaitDiscard (x : Fields) (s : State) : Out :=
  issue
    (engineEffect (fun c => c.maskSprues) (fun s c =>
      match (s.faultedHeads c).foldl (fun (r : Option State) q => r.bind (fun s => s.discardHead c.core q false)) (some s) with
      | none => stall s c
      | some s => .ok (finishWarp s c true)))
    .qwaitDiscard x s

/-! ### Unparking a warp for a trap (08 R185, 04 R99, R100) -/

/-- The quads of a warp no longer park: the instruction that each parked at executes again, and a wait at a barrier word goes on after
the handler. -/
def State.unpark (s : State) (uid : Nat) : State :=
  match s.warpOf uid with
  | none => s
  | some w =>
    let reqs := (s.coreOf w.core).mallocs
    let clk := (s.coreOf w.core).clk
    let back (q : Quad) : Quad :=
      let q' := { q with park := .running, readyAt := clk, before := none }
      match q.park with
      | .rgang | .rgangHome => { q' with path := q.before.getD q.path }
      | .malloc => match reqs.find? (fun r => r.warp == uid) with | some r => { q' with path := { q.path with pc := r.pc } } | none => q'
      | .running | .sleep | .yield _ _ | .fenceTick => q
      | _ => q'
    (s.putWarp { w with quads := w.quads.map back, waits := [] }).onCore w.core (fun c =>
      { c with mallocs := c.mallocs.filter (fun r => r.warp != uid) })

end Sys2Proof.Machine
end

