-- ==== Sys2Proof/Machine/Save.lean ====
section
/-!
DEFINITION. Save images of warps and blocks (04 R96 to R98, 05 R102, R114), which eviction, restore, `savew` and `restw` share, and those
two instructions (20 R438 to R440, R461 to R463).
-/
namespace Sys2Proof.Machine

/-! ### Warp records (04 Table 4-8) -/

/-- A divergence stack entry as 8 bytes, and back (05 Table 5-1). -/
def StackEntry.toNat (e : StackEntry) : Nat :=
  (match e.kind with | .pending => 1 | .joined => 2 | .exited => 3) * 2 ^ 62 + e.pmask.toNat * 2 ^ 57 + e.jmask.toNat * 2 ^ 53 + e.pcw.toNat
def StackEntry.ofNat (v : Nat) : StackEntry :=
  { kind := match natField v 62 2 with | 1 => .pending | 3 => .exited | _ => .joined, pmask := BitVec.ofNat 4 (natField v 57 4),
    jmask := BitVec.ofNat 4 (natField v 53 4), pcw := BitVec.ofNat 53 (natField v 0 53) }

/-- What a record says beside the registers: the path of each quad, PARK, BARW and BARPH. -/
structure RecordHead where
  paths : List Path
  park  : Nat
  barw  : Nat
  barph : Nat
deriving DecidableEq, Repr

/-- GANG of a quad (05 R114). -/
def Warp.gangByte (w : Warp) (q : Nat) : Nat :=
  if (w.quad q).alive then ((w.members (w.quad q).gang).headD q) + (if (w.quad q).packed then 128 else 0) else 0

/-- The predicates of a lane as a byte, p7 being true (20 R462). -/
def predByte (r : Regs) (lane : Nat) : Nat := (List.range 8).foldl (fun v p => v + boolNat (r.pred p lane) * 2 ^ p) 0

/-- The TRAP field with the held fault (08 R186). -/
def Warp.trapBytes (w : Warp) : List Byte :=
  leBytes 8 w.trap.tbase.toNat ++ leBytes 8 w.trap.taddr.toNat ++ leBytes 8 w.trap.tfirst.toNat ++ leBytes 8 w.trap.tinfo.toNat
    ++ leBytes 4 w.trap.tcause.toNat ++ leBytes 4 w.trap.tmask.toNat ++ quads8.flatMap (fun q => leBytes 8 (w.trap.tqpc.getD q 0).toNat)
    ++ (match w.heldFault with
        | some f => leBytes 4 (f.cause.toNat + 2 ^ 31) ++ leBytes 4 f.mask.toNat ++ leBytes 8 f.addr.toNat ++ leBytes 8 f.info.toNat
        | none => leBytes 24 0)

/-- CTRL: the first 1,600 bytes of a record. -/
def Warp.ctrlImage (w : Warp) (h : RecordHead) : List Byte :=
  let path (q : Nat) : Path := h.paths.getD q (w.quad q).path
  leBytes 4 1 ++ leBytes 1 w.slot ++ leBytes 1 (ceilDiv w.nreg 8) ++ leBytes 1 (quadSet w.aliveQuads).toNat ++ leBytes 1 h.park
    ++ leBytes 4 w.helper.toNat ++ leBytes 4 w.absent.toNat ++ quads8.flatMap (fun q => leBytes 1 (w.gangByte q))
    ++ leBytes 8 w.region.toNat ++ leBytes 4 w.rcount.toNat ++ leBytes 4 w.wctl.toNat ++ leBytes 4 w.wstat.toNat ++ leBytes 4 h.barw
    ++ leBytes 4 h.barph ++ leBytes 1 (boolNat w.inTrap) ++ leBytes 1 0 ++ quads8.flatMap (fun q => leBytes 1 (path q).stack.length)
    ++ leBytes 2 0 ++ (List.range 64).flatMap (fun u => leBytes 4 (w.regs.uni u).toNat)
    ++ lanes32.flatMap (fun l => leBytes 1 (predByte w.regs l)) ++ leBytes 4 w.exited.toNat ++ leBytes 28 0
    ++ quads8.flatMap (fun q => leBytes 8 (path q).pc.toNat)
    ++ quads8.flatMap (fun q =>
        let es := (path q).stack.reverse
        (List.range 16).flatMap (fun i => leBytes 8 (match es[i]? with | some e => e.toNat | none => 0)))
    ++ w.trapBytes

/-- MOLD: 2,880 bytes, and VREG: the allocated registers. -/
def Warp.moldImage (w : Warp) : List Byte := w.bindImage ++ w.mstep.image ++ leBytes 56 0
def Warp.vregImage (w : Warp) : List Byte :=
  (List.range (8 * ceilDiv w.nreg 8)).flatMap (fun v => lanes32.flatMap (fun l => leBytes 4 (w.regs.vec v l).toNat))

/-! ### Applying a record (20 R440, R461) -/

/-- The stack and masks of a quad from a record (R461). -/
def pathOfRecord (l : List Byte) (absent : LaneMask) (q : Nat) : Path :=
  let live := natBit (leAt l 6 1) q
  let exited : LaneMask := BitVec.ofNat 32 (leAt l 352 4)
  let living : BitVec 4 := if live then quadBits (~~~(absent ||| exited)) q else 0
  let stack := ((List.range (leAt l (54 + q) 1)).map (fun i => StackEntry.ofNat (leAt l (448 + 128 * q + 8 * i) 8))).reverse
  let active := match stack with | [] => living | e :: _ => e.jmask &&& ~~~e.pmask &&& living
  { pc := BitVec.ofNat 55 (leAt l (384 + 8 * q) 8), active, living, stack }

/-- The registers of CTRL: uniforms of the allocation and predicates. -/
def Regs.ofRecord (r : Regs) (nureg : Nat) (l : List Byte) : Regs :=
  let r := (List.range nureg).foldl (fun r u => r.setUni u (BitVec.ofNat 32 (leAt l (64 + 4 * u) 4))) r
  lanes32.foldl (fun r n => [0, 1, 2, 3, 4, 5, 6].foldl (fun r p => r.setPred p n (natBit (leAt l (320 + n) 1) p)) r) r

/-- The vector registers of a record. -/
def Regs.vregsOf (r : Regs) (nreg : Nat) (l : List Byte) : Regs :=
  (List.range nreg).foldl (fun r v => lanes32.foldl (fun r n => r.setVec v n (BitVec.ofNat 32 (leAt l (128 * v + 4 * n) 4))) r) r

/-- The trap registers and the held fault of a record. -/
def trapOfRecord (l : List Byte) : TrapRegs × Option HeldFault :=
  let f (o n w : Nat) : BitVec w := BitVec.ofNat w (leAt l (1472 + o) n)
  ({ tbase := f 0 8 64, taddr := f 8 8 64, tfirst := f 16 8 64, tinfo := f 24 8 64, tcause := f 32 4 32, tmask := f 36 4 32,
     tqpc := quads8.map (fun q => f (40 + 8 * q) 8 64) },
   if natBit (leAt l 1576 4) 31 then some { cause := f 104 1 8, mask := f 108 4 32, addr := f 112 8 64, info := f 120 8 64 } else none)

/-- A warp whose errors in some files are gone, their registers written anew (11 R248). -/
def Warp.soundFiles (w : Warp) (vec : Bool) : Warp :=
  { w with errors := w.errors.filter (fun e => (e.kind == .vec) != vec) }

/-- CTRL applied to a warp; `wctl` is what WCTL becomes: the read-only bits of WSTAT stay zero (09 R204). The gangs are those that the GANG bytes name, formed with the
fresh identifier `k`. -/
def Warp.applyCtrl (w : Warp) (wctl : Word) (clk k : Nat) (l : List Byte) : Warp :=
  let put (r : Regs) : Regs := r.ofRecord w.nureg l
  let gang (q : Nat) : Nat := natField (leAt l (16 + q) 1) 0 3
  let paths := quads8.map (pathOfRecord l w.absent)
  let alive := quads8.filter (fun q => match paths[q]? with | some p => p.living != 0 | none => false)
  let (trap, heldFault) := trapOfRecord l
  let quads := quads8.map (fun q =>
    let lead := ((alive.filter (fun k => gang k == gang q)).headD q)
    { Quad.empty with
      path := paths.getD q Quad.empty.path, gang := gangId k lead, packed := natBit (leAt l (16 + q) 1) 7, readyAt := clk })
  Warp.soundFiles { w with
    regs := put w.regs, quads, exited := BitVec.ofNat 32 (leAt l 352 4) &&& ~~~w.absent,
    region := BitVec.ofNat 64 (leAt l 24 8), rcount := BitVec.ofNat 32 (leAt l 32 4), wctl, wstat := BitVec.ofNat 32 (leAt l 40 4 % 64),
    inTrap := leAt l 52 1 == 1, trap, heldFault, handler := quadSet alive } false

/-- VREG applied to a warp. -/
def Warp.applyVregs (w : Warp) (l : List Byte) : Warp := Warp.soundFiles { w with regs := w.regs.vregsOf w.nreg l } true

/-! ### Blocks in a slot (04 Tables 4-6 and 4-7) -/

/-- The tag bitmap of a block. -/
def Block.tagBytes (b : Block) : List Byte :=
  (List.range (4096 * b.cores.length)).map (fun j =>
    BitVec.ofNat 8 ([0, 1, 2, 3, 4, 5, 6, 7].foldl (fun v i => v + boolNat (Cells.get false b.tags (8 * j + i)) * 2 ^ i) 0))

/-- A bitmap read back. -/
def tagsOf (l : List Byte) : Cells Bool :=
  ((List.range (8 * l.length)).foldl (fun m k => if natBit (leAt l (k / 8) 1) (k % 8) then (k, true) :: m else m) []).reverse

/-- The block header. -/
def headerBytes (state index stage cores nwarp bmem lcore : Nat) (hb : BitVec 64) (banks : List (BitVec 64)) : List Byte :=
  leBytes 4 1 ++ leBytes 4 state ++ leBytes 4 index ++ leBytes 1 stage ++ leBytes 1 cores ++ leBytes 2 nwarp ++ leBytes 4 bmem
    ++ leBytes 4 lcore ++ leBytes 8 hb.toNat ++ leBytes 32 0
    ++ [0, 1, 2, 3, 4, 5, 6, 7].flatMap (fun k => leBytes 8 (banks.getD k 0).toNat) ++ leBytes 128 0
def Block.header (b : Block) (state : Nat) (hb : BitVec 64) : List Byte :=
  headerBytes state b.index b.stage b.cores.length b.nwarp b.bmem b.lcore hb b.banks

/-- Where the parts of a slot begin. -/
def tagsAt (cores : Nat) : Nat := 256 + 262144 * cores
def banksAt (cores : Nat) : Nat := 256 + 266240 * cores
def recordAt (cores wid : Nat) : Nat := 256 + 528384 * cores + 37248 * wid

/-- 64 bytes of block memory as they stand under layout mode 0, with the words that cannot be rebuilt: their offsets and TINFO. -/
def State.imageLine (s : State) (b : Block) (o : Nat) : Nat → State × List (Nat × Nat) × List (Nat × List Byte)
  | 0 => (s, [], [])
  | n + 1 =>
    let p := o + 4 * n
    let (s, bad, good) := State.imageLine s b o n
    match s.readSpace .block (b.key p) 5 4 with
    | (s, .error i) => (s, bad ++ [(p, i)], good)
    | (s, .ok v) => (s, bad, good ++ [(p, leBytes 4 v)])

/-- The held banks of a block: their offset in the slot and their bytes. -/
def State.bankImages (s : State) (b : Block) : List (Nat × List Byte) :=
  (List.range b.cores.length).flatMap (fun j =>
    (bankNumbers (b.banks.getD j 0)).map (fun k =>
      (banksAt b.cores.length + 4096 * (64 * j + k), s.banks.bytes (bankBase (b.cores.getD j 0) k) 4096)))

/-- Chunks written in turn, each at a slot's base; the first that fails. -/
def State.writeChunks (s : State) (who : Asker) (core ctx base : Nat) : List (Nat × List Byte) → State × Option Bad
  | [] => (s, none)
  | (o, bs) :: cs =>
    match s.writeRange who core ctx (base + o) bs with
    | (s, some e) => (s, some e)
    | (s, none) => State.writeChunks s who core ctx base cs

/-- The block's image read back into its banks, 64 bytes at a time. -/
def State.putImage (s : State) (who : Asker) (core ctx : Nat) (b : Block) (base : Nat) : Nat → State × Option Bad
  | 0 => (s, none)
  | n + 1 =>
    match State.putImage s who core ctx b base n with
    | (s, some e) => (s, some e)
    | (s, none) =>
      match s.readRange who core ctx (base + 256 + 64 * n) 64 with
      | (s, .error e) => (s, some e)
      | (s, .ok bs) =>
        match s.storeBank .block (b.key (64 * n)) 64 (leAt bs 0 64) none with
        | (s, some i) => (s, some ⟨0x0D, some (64 * n), i⟩)
        | (s, none) => (s, none)

/-- Chunks of a slot read into the banks that a bank map names. -/
def State.putBanks (s : State) (who : Asker) (core ctx : Nat) (b : Block) (base : Nat) : List (Nat × Nat) → State × Option Bad
  | [] => (s, none)
  | (j, k) :: rest =>
    match s.readRange who core ctx (base + banksAt b.cores.length + 4096 * (64 * j + k)) 4096 with
    | (s, .error e) => (s, some e)
    | (s, .ok bs) => State.putBanks (s.fillBank (b.cores.getD j 0) k 0 bs) who core ctx b base rest

/-- The banks of a block header, as core and bank. -/
def bankMap (header : List Byte) (cores : Nat) : List (Nat × Nat) :=
  (List.range cores).flatMap (fun j => (bankNumbers (BitVec.ofNat 64 (leAt header (64 + 8 * j) 8))).map (fun k => (j, k)))

/-- BLOCK applied: the image, the tags and the banks, in that order. -/
def State.applyBlock (s : State) (who : Asker) (core ctx : Nat) (b : Block) (base : Nat) (header : List Byte) : State × Option Bad :=
  match s.putImage who core ctx b base (b.bmem / 64) with
  | (s, some e) => (s, some e)
  | (s, none) =>
    match s.readRange who core ctx (base + tagsAt b.cores.length) (4096 * b.cores.length) with
    | (s, .error e) => (s, some e)
    | (s, .ok bits) =>
      (s.onBlock b.uid (fun b => { b with tags := tagsOf bits })).putBanks who core ctx b base (bankMap header b.cores.length)

/-! ### `savew` (20 R439) -/

/-- The gang holds every living quad of the warp, none packed. -/
def Ctx.wholeWarp (c : Ctx) : Bool := c.quads == c.warp.aliveQuads && !c.quads.any (fun q => (c.warp.quad q).packed)

/-- The check of a slot's base address. -/
def badBase (base : Nat) : Option Bad :=
  if base ≥ 2 ^ 55 then some ⟨0x05, base, none⟩ else if base % 64 != 0 then some ⟨0x04, base, none⟩ else none

/-- What `savew` captures at issue. -/
def Ctx.captured (c : Ctx) (parts cores : Nat) : List (Nat × List Byte) :=
  let w := c.warp
  let at' := recordAt cores w.wid
  let head : RecordHead :=
    { paths := quads8.map (fun q => let p := (w.quad q).path; if c.quads.contains q then { p with pc := c.next } else p), park := 0, barw := 0,
      barph := 0 }
  (if natBit parts 0 then [(at', w.ctrlImage head)] else []) ++ (if natBit parts 1 then [(at' + 1600, w.moldImage)] else [])
    ++ (if natBit parts 2 then [(at' + 4480, w.vregImage)] else [])

/-- The first uncorrectable error in what `savew` captures or will read of the block's mold banks: UNIT and INDEX (11 R248, Table 11-3). -/
def State.badCapture (s : State) (c : Ctx) (parts : Nat) (b : Block) : Option (Nat × Nat) :=
  let named (e : RegError) : Bool := match e.kind with | .vec => natBit parts 2 | _ => natBit parts 0
  let bank := (List.range b.cores.length).findSome? (fun j =>
    (bankNumbers (b.banks.getD j 0)).find? (fun k => s.badBankIn (b.cores.getD j 0) k 4096))
  ((c.warp.errors.find? named).map (fun e => (e.unit, e.reg))).or (if natBit parts 3 then bank.map (fun k => (3, k)) else none)

/-- SAVEW: a save command in its sprue, once every pending result of the warp has been written. -/
def execSavew (x : Fields) (s : State) : Out :=
  issue
    (engineEffect (fun c => [c.a 0] ++ (if natBit (bitField c.x.e 3 4) 0 then (c.regs.u.flatMap (fun r => [r.1, r.2.toNat])) ++ c.regs.p.flatMap (fun r => [r.1, r.2.toNat]) else [])
        ++ if natBit (bitField c.x.e 3 4) 2 then c.regs.v.flatMap (fun r => [r.1, r.2.toNat]) else []) (fun s c =>
      let parts := bitField c.x.e 3 4
      let q := c.sprueField
      let base := c.a 0
      let b := s.blockAt c.warp.block
      if !c.wholeWarp then laneTrap s c c.real 0x02 none (encInfo 9 0)
      else
        match badBase base with
        | some e => laneTrap s c c.real e.cause e.addr e.info
        | none =>
          if c.warp.scored != [] || s.spruefull c.core q then stall s c
          else
            match s.badCapture c parts b with
            | some (unit, index) => .consumed s unit index c.real
            | none =>
            .ok (finishWarp
              (s.issueCommand c q Routes.none (.save parts base (c.captured parts b.cores.length) (natBit parts 3))) c true)))
    .savew x s

/-- A row of a save command: 64 bytes of its slot (R439). -/
inductive SaveRow where
  | bytes (off : Nat) (data : List Byte)
  | image (off : Nat)
deriving DecidableEq, Repr

/-- The rows of a save command: its captured parts, the header, the image, the tags and the banks. -/
def State.saveRows (s : State) (cmd : Command) (captured : List (Nat × List Byte)) (image : Bool) : List SaveRow :=
  let rows (c : Nat × List Byte) : List SaveRow := (List.range (ceilDiv c.2.length 64)).map (fun i => .bytes (c.1 + 64 * i) ((c.2.drop (64 * i)).take 64))
  captured.flatMap rows
    ++ match s.blockOf cmd.block, image with
      | some b, true =>
        rows (0, b.header 2 s.hb) ++ (List.range (b.bmem / 64)).map (fun i => .image (64 * i)) ++ rows (tagsAt b.cores.length, b.tagBytes)
          ++ (s.bankImages b).flatMap rows
      | _, _ => []

/-- A row of a save command written; a word of the image that cannot be rebuilt keeps its bytes in the slot (06 R135). -/
def State.saveRow (s : State) (core base : Nat) (cmd : Command) (row : SaveRow) : State × Option Bad :=
  let who : Asker := .engine cmd.uid
  match row with
  | .bytes off data => s.writeRange who core cmd.ctx (base + off) data
  | .image off =>
    match s.blockOf cmd.block with
    | none => (s, none)
    | some b =>
      let (s, bad, good) := s.imageLine b off 16
      let chunks := if bad == [] then [(256 + off, good.flatMap (fun c => c.2))] else good.map (fun c => (256 + c.1, c.2))
      match s.writeChunks who core cmd.ctx base chunks with
      | (s, some e) => (s, some e)
      | (s, none) => (s, bad.head?.map (fun e => ⟨0x0D, some e.1, some e.2⟩))

/-- A save command issues its accesses: those of the rows that are still to be performed. -/
def State.beginSave (s : State) (cmd : Command) (captured : List (Nat × List Byte)) (image : Bool) : State :=
  let rows := (List.range (s.saveRows cmd captured image).length).filter (fun r => !cmd.rows.contains r)
  s.onCommand cmd.uid (fun c =>
    { c with begun := true, works := rows.map (fun r => { rows := [r], accs := [], got := [], dsts := [] }), done := rows == [] })

/-- A row of a save command performed, or what it meets noted (R184). -/
def State.performSave (s : State) (core q base : Nat) (cmd : Command) (captured : List (Nat × List Byte)) (image : Bool) (r : Nat) : State :=
  match (s.saveRows cmd captured image)[r]? with
  | none => s
  | some row =>
    let (t, bad) := (s.noteWork cmd.ctx).saveRow core base cmd row
    let t := t.taken (.engine cmd.uid)
    let leave (s : State) (done : Bool) : State := s.onCommand cmd.uid (fun c =>
      let works := c.works.filter (fun x => x.rows != [r])
      { c with works, rows := if done then c.rows ++ [r] else c.rows })
    let t := match bad with
      | none => some (leave t true)
      | some e => if e.later then none else some (leave (t.meet cmd.uid q r e) false)
    match t, bad with
    | none, some e => s.askFor (.engine cmd.uid) e
    | none, none => s
    | some t, _ =>
      t.onCommand cmd.uid (fun c =>
        if c.works != [] then c
        else { c with done := c.met.isNone, fault := c.fault.or (c.met.map (fun f => { f.2 with since := s.hb })), met := none })

/-! ### `restw` (20 R440) -/

/-- The checks of a record's own fields: those of CTRL, MOLD and VREG together, and those of CTRL. -/
def recordOk (w : Warp) (l : List Byte) : Bool :=
  leAt l 0 4 == 1 && leAt l 5 1 == ceilDiv w.nreg 8 && leAt l 8 4 == w.helper.toNat && leAt l 12 4 == w.absent.toNat
def ctrlOk (w : Warp) (l : List Byte) : Bool :=
  leAt l 7 1 == 0 && leAt l 53 1 == 0
    && (quads8.all (fun q => !natBit (leAt l 6 1) q || (w.quad q).alive))
    && (BitVec.ofNat 32 (leAt l 352 4) &&& w.absent == (0 : LaneMask)) && quads8.all (fun q => leAt l (54 + q) 1 ≤ 16)
    && quads8.all (fun q => !natBit (leAt l (16 + q) 1) 7)

/-- The block header checks of `restw`: FORMAT, CORES, NWARP and BMEM. -/
def headerOk (b : Block) (h : List Byte) : Bool :=
  leAt h 0 4 == 1 && leAt h 13 1 == b.cores.length && leAt h 14 2 == b.nwarp && leAt h 16 4 == b.bmem

/-- Everything that `restw` reads before it applies anything. -/
structure Slot where
  record : List Byte
  vregs  : List Byte
  header : List Byte
deriving DecidableEq, Repr

/-- The named parts read. -/
def State.readSlot (s : State) (who : Asker) (core ctx base cores wid nreg parts : Nat) : State × Except Bad Slot :=
  let at' := base + recordAt cores wid
  match (if parts % 8 != 0 then s.readRange who core ctx at' 4480 else (s, .ok [])) with
  | (s, .error e) => (s, .error e)
  | (s, .ok record) =>
    match (if natBit parts 2 then s.readRange who core ctx (at' + 4480) (1024 * ceilDiv nreg 8) else (s, .ok [])) with
    | (s, .error e) => (s, .error e)
    | (s, .ok vregs) =>
      match (if natBit parts 3 then s.readRange who core ctx base 256 else (s, .ok [])) with
      | (s, .error e) => (s, .error e)
      | (s, .ok header) => (s, .ok { record, vregs, header })

/-- The checks that the named parts call for. -/
def slotBad (w : Warp) (b : Block) (core parts : Nat) (t : Slot) : Option Bad :=
  let field : Option Bad := some ⟨0x02, none, encInfo 9 6⟩
  let mold := (t.record.drop 1600)
  if parts % 8 != 0 && !recordOk w t.record then field
  else if natBit parts 0 && !ctrlOk w t.record then field
  else
    match (if natBit parts 1 then checkEntries b core mold 7 else .ok []) with
    | .error e => some e
    | .ok _ =>
      if natBit parts 1 && (StepState.ofImage (mold.drop 256)).isNone then some ⟨0x02, none, encInfo 9 0⟩
      else if natBit parts 3 && !headerOk b t.header then field
      else if natBit parts 3 then
        ((bankMap t.header b.cores.length).find? (fun p => !(b.banks.getD p.1 0).getLsbD p.2)).map (fun p => ⟨0x0B, none, moldInfo 0 p.2 3 0⟩)
      else none

/-- The parts applied: BLOCK, then MOLD, then VREG, then CTRL (R463). -/
def State.applySlot (s : State) (who : Asker) (uid core : Nat) (b : Block) (base parts : Nat) (t : Slot) : State × Option Bad :=
  match s.warpOf uid with
  | none => (s, none)
  | some w =>
    match (if natBit parts 3 then s.applyBlock who core w.ctx b base t.header else (s, none)) with
    | (s, some e) => (s, some e)
    | (s, none) =>
      match (if natBit parts 3 then s.writeRange who core w.ctx (base + 4) (leBytes 4 1) else (s, none)) with
      | (s, some e) => (s, some e)
      | (s, none) =>
        match (if natBit parts 1 then s.applyImage uid b core 3 (t.record.drop 1600) else (s, none)) with
        | (s, some e) => (s, some e)
        | (s, none) =>
          let s := if natBit parts 1 then s.unclaim uid else s
          let s := if natBit parts 2 then s.onWarp uid (fun w => w.applyVregs t.vregs) else s
          let clk := (s.coreOf core).clk
          let (k, s) := s.newUid
          let wctl (w : Warp) : Word :=
            BitVec.ofNat 32 (w.wctl.toNat / 32 * 32 + leAt t.record 36 4 % 32)
          (if natBit parts 0 then s.onWarp uid (fun w => w.applyCtrl (wctl w) clk k t.record) else s, none)

/-- The shadow of a paired warp after a `restw`, which applies to both warps (20 R442): it stands where its leading warp does. -/
def State.shadowRestored (s : State) (uid : Nat) : State :=
  match s.warpOf uid with
  | none => s
  | some w => s.onShadow uid (fun _ => w.asShadow)

/-- RESTW: performed once everything the warp has issued is complete, and the shadow of a paired warp has come this far; on a failure nothing is applied. -/
def execRestw (x : Fields) (s : State) : Out :=
  issue
    (warpEffect (fun s c =>
      if c.trail.isSome then
        let released := match (s.shadowOf c.warp.uid).bind (fun w => w.trail.find? Trail.keyed) with | some h => h.released && h.compared.isSome | none => false
        stall (s.onWarp c.warp.uid (fun v => { v with offer := if released then none else some (c.digest [c.a 0]) })) c
      else comparedEffect false false (fun _ c => [c.a 0]) (fun s c =>
        let who : Asker := .engine c.warp.uid
        let parts := bitField c.x.e 0 4
        let base := c.a 0
        let b := s.blockAt c.warp.block
        let w := c.warp
        let refuse (s s' : State) (e : Bad) : Done :=
          if e.later then stall (s.askFor who e) c else laneTrap (s'.taken who) c c.real e.cause e.addr e.info
        if !c.wholeWarp then laneTrap s c c.real 0x02 none (encInfo 9 0)
        else
          match badBase base with
          | some e => laneTrap s c c.real e.cause e.addr e.info
          | none =>
            if w.pending != [] || w.scored != [] || s.channels.any (fun o => o.warp == w.uid) || w.trail.any (fun h => !h.released) then stall s c
            else
              match s.readSlot who c.core w.ctx base b.cores.length w.wid w.nreg parts with
              | (s', .error e) => refuse s s' e
              | (s', .ok t) =>
                match slotBad w b c.core parts t with
                | some e => refuse s s' e
                | none =>
                  match s'.applySlot who w.uid c.core b base parts t with
                  | (_, some e) => refuse s s' e
                  | (s, none) =>
                    let s := s.taken who
                    let go (s : State) : State := (s.onWarp w.uid (fun w => { w with trail := [], agreed := [] })).shadowRestored w.uid
                    if natBit parts 0 then
                      let region := BitVec.ofNat 64 (leAt t.record 24 8)
                      let s := (finishWarp s c false).onWarp w.uid (fun w =>
                        { w with region, handler := if w.inTrap then w.handler else 0 })
                      let s := go s
                      let s := match s.warpOf w.uid with | some v => (if v.inTrap then s else s.deliverHeld w.uid) | none => s
                      .ok (s.settle w.uid)
                    else .ok (go (finishWarp s c true))) s c))
    .restw x s

end Sys2Proof.Machine
end

