-- ==== Sys2Proof/Machine/Ladle.lean ====
section
/-!
DEFINITION. The ladle (08 R188 to R198, R471; 24 R456 to R458): its instructions (20 R427 to R431), feeds, spills, drains and output.
-/
namespace Sys2Proof.Machine

/-! ### Jobs -/

/-- The open job of a context with a name (20 R427). -/
def State.jobNamed (s : State) (ctx va : Nat) : Option Job := s.jobs.find? (fun j => j.ctx == ctx && j.name == va)

/-- TINFO of cause 0x14 (08 R196). -/
def ladleInfo (reason stream : Nat) : Nat := reason * 2 ^ 24 + stream * 2 ^ 16

/-- A record that raises cause 0x14 with REASON 0 (08 R188, Table 8-4). -/
def jobBad (l : List Byte) : Bool :=
  let op := leAt l 44 1
  let span := natBit (leAt l 49 1) 0
  leAt l 16 8 % 64 != 0 || leAt l 40 2 == 0 || leAt l 40 2 > 4096 || op > 4 || (op < 2 && !([3, 15, 16].contains (leAt l 45 1)))
    || leAt l 46 1 > 2 || natField (leAt l 47 1) 4 4 != 0 || natField (leAt l 47 1) 0 2 == 3 || leAt l 48 1 == 0 || leAt l 48 1 > 64
    || (op == 4 && leAt l 48 1 != 2) || natField (leAt l 49 1) 3 5 != 0 || (span && (leAt l 50 2 == 0 || leAt l 50 2 > 4096))
    || leAt l 52 4 ≥ 2 ^ 12 || leAt l 56 1 > 7 || !allZero (l.drop 88)

/-- A job opened on a record; its ladle fields are zero (24 R456). -/
def Job.ofBytes (uid name : Nat) (w : Warp) (b : Block) (routes : Routes) (l : List Byte) : Job :=
  let flags := leAt l 49 1
  { uid, name, ctx := w.ctx, cluster := coreCluster w.core, warp := w.uid, block := b.uid, core := w.core, wid := w.wid, blockIndex := b.index,
    task := (b.die, b.task), routes, out := BitVec.ofNat 64 (leAt l 0 8), outCap := leAt l 8 8, spill := leAt l 16 8, spillCap := leAt l 24 8,
    runTab := leAt l 32 8, runMax := leAt l 40 2, op := leAt l 44 1, vty := leAt l 45 1, form := leAt l 46 1, ospace := natField (leAt l 47 1) 0 2,
    odie := natField (leAt l 47 1) 2 2, nstream := leAt l 48 1, span := natBit flags 0, final := natBit flags 1, emit := natBit flags 2,
    npart := leAt l 50 2, owner := BitVec.ofNat 32 (leAt l 52 4), ownClu := leAt l 56 1, runs := 0, fstream := 0, donePart := 0, status := 0,
    foff := 0, emitted := 0, count := 0, spilled := 0, entries := [], seqs := [], owners := [], lastKeys := [], pushers := [], feeds := [], going := [],
    fault := none, writes := [(42, 2), (57, 1), (58, 2), (60, 4), (64, 8), (72, 8), (80, 8)].map (fun p => .field p.1 p.2 0),
    resuming := none, merged := false, written := 0, stopAt := none, delivered := 0, acted := false, away := [] }

/-- The core through which a job's ladle translates. -/
def Job.through (j : Job) : Nat := 14 * j.cluster

/-- Quads parked in `mnisect` or `mnopen` execute it again. -/
def State.wakeLadle (s : State) (p : Park) : State :=
  { s with
    warps := s.warps.map (fun w =>
      { w with quads := w.quads.map (fun q => if q.park == p then { q with park := .running, readyAt := (s.coreOf w.core).clk } else q) }) }

/-- A failed check as the ladle keeps it with a job. -/
def Bad.kept (e : Bad) : JobFault :=
  { cause := BitVec.ofNat 8 e.cause, addr := e.addr.map (BitVec.ofNat 64), info := e.info.map (BitVec.ofNat 64) }

/-- A write put after those that a job has issued. -/
def Job.issue (j : Job) (ws : List LadleWrite) : Job := { j with writes := j.writes ++ ws }

/-- A job whose record cannot be written: it accepts no further entry, and the next warp that waits on it takes the cause of the write (R471). -/
def State.stopJob (s : State) (uid : Nat) (e : Bad) : State :=
  (s.onJob uid (fun j =>
    { j with status := 5, fault := some e.kept, writes := [], going := [], resuming := j.resuming.map (fun _ => false) })).wakeLadle .mnisect

/-- STATUS of a job, written back to its record (R471). -/
def State.setStatus (s : State) (uid st : Nat) : State :=
  (s.onJob uid (fun j => if j.status == 5 then j else { j with status := st }.issue [.field 60 4 st])).wakeLadle .mnisect

/-- A job that accepts no further entry for good. -/
def Job.stopped (j : Job) : Bool := j.status == 5

/-- STATUS 3, 4 or 5 with the cause that the next warp that waits takes. -/
def State.haltJob (s : State) (uid st : Nat) (e : Bad) : State := (s.onJob uid (fun j => { j with fault := some e.kept })).setStatus uid st

/-- The unit that acts for a job. -/
def Job.asker (j : Job) : Asker := .engine j.uid

/-! ### Spills (R192, R193) -/

/-- The place of an entry in the order of R192. -/
def LadleEntry.rank (e : LadleEntry) : Nat := (e.coord.toNat * 2 ^ 16 + e.stream) * 2 ^ 32 + e.seq
def insertEntry (e : LadleEntry) : List LadleEntry → List LadleEntry
  | [] => [e]
  | f :: fs => if e.rank < f.rank then e :: f :: fs else f :: insertEntry e fs
def sortEntries (es : List LadleEntry) : List LadleEntry := es.foldl (fun l e => insertEntry e l) []

/-- An entry of a run: 24 bytes. -/
def LadleEntry.bytes (e : LadleEntry) : List Byte :=
  leBytes 8 e.coord.toNat ++ leBytes 8 e.value.toNat ++ leBytes 2 e.stream ++ leBytes 4 e.seq ++ leBytes 2 0
def LadleEntry.ofBytes (l : List Byte) : LadleEntry :=
  { coord := BitVec.ofNat 64 (leAt l 0 8), value := BitVec.ofNat 64 (leAt l 8 8), stream := leAt l 16 2, seq := leAt l 18 4 }

/-- Bytes from an address on, in pieces that end with the 64-byte lines: each with its distance from the first. -/
def linesOf (at' : Nat) (data : List Byte) : List (Nat × List Byte) :=
  let first := 64 - at' % 64
  (0, data.take first) :: (List.range (ceilDiv (data.length - first) 64)).map (fun i => (first + 64 * i, (data.drop (first + 64 * i)).take 64))

/-- The writes of a run: its bytes, its entry of the run table, and RUNS last. -/
def Job.runWrites (j : Job) (run : List Byte) : List LadleWrite :=
  (linesOf (j.spill + j.spilled) run).map (fun l => .spill (j.spilled + l.1) l.2)
    ++ [.table j.runs (leBytes 8 j.spilled ++ leBytes 4 (run.length / 24) ++ leBytes 4 0), .run run.length]

/-- A spill of a job is on its way. -/
def Job.spilling (j : Job) : Bool := j.writes.any (fun w => match w with | .run _ => true | _ => false)

/-- The resident entries of a job begin to be written as a run; with no room for it nothing is written, and STATUS is 4. -/
def State.spillJob (s : State) (uid : Nat) : State :=
  match s.jobOf uid with
  | none => s
  | some j =>
    let run := (sortEntries j.entries).flatMap LadleEntry.bytes
    if j.entries == [] || j.spilling then s
    else if j.spilled + run.length > j.spillCap || j.runs ≥ j.runMax then s.haltJob uid 4 ⟨0x15, none, none⟩
    else (s.noteWork j.ctx).onJob uid (fun j => j.issue (j.runWrites run))

/-- Where a write of a job goes in device memory, and its bytes. -/
def Job.target (j : Job) : LadleWrite → Nat × List Byte
  | .field off n v => (j.name + off, leBytes n v)
  | .spill off data => (j.spill + off, data)
  | .table run data => (j.runTab + 16 * run, data)
  | .run _ => (j.name + 42, leBytes 2 (j.runs + 1))
  | .out off data _ => (j.out.toNat + off, data)

/-- A job whose run has been counted. -/
def Job.counted (j : Job) (bytes : Nat) : Job := { j with runs := j.runs + 1, spilled := j.spilled + bytes, entries := [] }

/-- A write of a job that cannot be performed: what it belonged to is given up (R191, R193, R471). -/
def State.writeFailed (s : State) (uid : Nat) (w : LadleWrite) (e : Bad) : State :=
  match w with
  | .spill _ _ | .table _ _ =>
    (s.onJob uid (fun j =>
      { j with
        writes := j.writes.filter (fun w => match w with | .spill _ _ | .table _ _ | .run _ => false | _ => true),
        resuming := j.resuming.map (fun _ => false) })).haltJob uid 4 e
  | .out _ _ _ =>
    s.onJob uid (fun j => { j with writes := j.writes.filter (fun w => match w with | .out _ _ _ => false | _ => true), stopAt := some e.kept })
  | _ => s.stopJob uid e

/-- The entries resident in a cluster's ladle. -/
def State.resident (s : State) (cluster : Nat) : Nat :=
  s.jobs.foldl (fun n j => if j.cluster == cluster then n + j.entries.length else n) 0

/-- The job of a cluster with the most entries, among those whose entries a spill can take. -/
def State.fullest (s : State) (cluster : Nat) : Option Nat :=
  (s.jobs.filter (fun j => j.cluster == cluster && (j.status == 0 || j.status == 3 || j.status == 4))).foldl
    (fun (m : Option Nat) j =>
      match m.bind s.jobOf with
      | some k => if k.entries.length < j.entries.length then some j.uid else m
      | none => if j.entries != [] then some j.uid else none)
    none

/-- What room for entries gives: there is room, or it waits for writes, or what stopped the spill. -/
inductive Room where
  | ok
  | wait
  | bad (e : Bad)
deriving DecidableEq, Repr

/-- Room made for `n` entries of a job (R192): with too many resident, its own entries are spilled, or those of the job with the most. A job accepts nothing before its
record has been written (24 R456). -/
def State.makeRoom (s : State) (j : Job) (n : Nat) : State × Room :=
  if j.writes != [] then (s, .wait)
  else if s.resident j.cluster + n ≤ 65536 then (s, .ok)
  else
    match (if j.entries != [] then some j.uid else s.fullest j.cluster) with
    | none => (s, .wait)
    | some k =>
      match (s.spillJob k).jobOf k with
      | some m => if m.status == 4 then (s.spillJob k, .bad (match m.fault with | some f => ⟨f.cause.toNat, f.addr.map BitVec.toNat, f.info.map BitVec.toNat⟩ | none => ⟨0x15, none, none⟩)) else (s.spillJob k, .wait)
      | none => (s, .wait)

/-! ### Entries (R189, R190) -/

/-- Entries that a push or feed brings: coordinate and value. -/
abbrev NewEntry := BitVec 64 × BitVec 64

/-- A key that is not above its stream's previous key (R190). -/
def unsorted : Option (BitVec 64) → List NewEntry → Bool
  | _, [] => false
  | prev, e :: es => (match prev with | some k => decide (e.1.toNat ≤ k.toNat) | none => false) || unsorted (some e.1) es

/-- The last key of a stream. -/
def Job.lastKey (j : Job) (stream : Nat) : Option (BitVec 64) := (j.lastKeys.find? (fun k => k.1 == stream)).map (fun k => k.2)

/-- Entries that are refused: REASON of cause 0x14. -/
def Job.refuses (j : Job) (stream : Nat) (es : List NewEntry) : Option Nat :=
  if Cells.get 0 j.seqs stream + es.length > 2 ^ 32 then some 1
  else if j.op == 4 && unsorted (j.lastKey stream) es then some 2
  else none

/-- The value as the job keeps it: with VTYPE f32 its low word (20 R429). -/
def Job.kept (j : Job) (v : BitVec 64) : BitVec 64 := if j.op < 2 && j.vty == 3 then v &&& 0xFFFFFFFF else v

/-- Entries accepted. -/
def Job.accept (j : Job) (stream : Nat) (es : List NewEntry) : Job :=
  es.foldl
    (fun j e =>
      let n := Cells.get 0 j.seqs stream
      { j with
        entries := j.entries ++ [{ coord := e.1, value := j.kept e.2, stream, seq := n }], seqs := Cells.put 0 j.seqs stream (n + 1),
        lastKeys := j.lastKeys.filter (fun k => k.1 != stream) ++ [(stream, e.1)] })
    j
def State.accept (s : State) (uid cluster stream : Nat) (es : List NewEntry) : State :=
  let s := match s.jobOf uid with | some j => s.noteWork j.ctx | none => s
  let s := s.onJob uid (fun j => j.accept stream es)
  { s with ladleIn := Cells.put 0 s.ladleIn cluster (Cells.get 0 s.ladleIn cluster + es.length) }

/-! ### Feeds (R195) -/

/-- Bytes of an entry of a feed. -/
def StoppedFeed.width (f : StoppedFeed) : Nat := if f.keysOnly then 8 else 16

/-- One entry of a feed read: coordinate and value, or what stops the stream. -/
def State.feedEntry (s : State) (j : Job) (f : StoppedFeed) : State × Except Bad NewEntry :=
  let va := f.base + f.off
  match s.checkDev j.through j.ctx va 1 .r with
  | (s, .error _) => (s, .error ⟨0x14, va, ladleInfo 4 f.stream⟩)
  | (s, .ok (key, _)) =>
    match s.bytesFor j.asker va key f.width with
    | .error e => (s, .error e)
    | .ok l => (s, .ok (BitVec.ofNat 64 (leAt l 0 8), if f.keysOnly then 0 else BitVec.ofNat 64 (leAt l 8 8)))

/-- A stream stopped: its feed is kept, and unless the job has stopped before, FSTREAM, FOFF and STATUS say so. -/
def State.stopFeed (s : State) (uid : Nat) (f : StoppedFeed) (stop : Option Bad) : State :=
  match s.jobOf uid with
  | none => s
  | some j =>
    let s := s.onJob uid (fun j => { j with feeds := j.feeds ++ [f] })
    let s := if j.feeds == [] then
        s.onJob uid (fun j => { j with fstream := f.stream, foff := f.off }.issue [.field 57 1 f.stream, .field 64 8 f.off]) else s
    match stop with
    | some e => if j.status == 0 then s.haltJob uid 3 e else s
    | none => s

/-- What one step of a feed leads to: its next entry, its end, or nothing yet. -/
inductive Fed where
  | next (f : StoppedFeed)
  | ended
  | wait
deriving DecidableEq, Repr

/-- One entry of a feed read and accepted, or the stream stopped (R195, R193). Entries that come once a drain has begun are discarded (24 R457). -/
def State.feedStep (s : State) (uid : Nat) (f : StoppedFeed) : State × Fed :=
  match s.jobOf uid with
  | none => (s, .ended)
  | some j =>
    if f.count == 0 || j.status == 1 || j.status == 2 || j.stopped then (s, .ended)
    else if j.status == 4 then (s.stopFeed uid f none, .ended)
    else
      match s.makeRoom j 1 with
      | (s, .bad e) =>
        let s := s.stopFeed uid f none
        ((if j.status == 0 && (s.jobOf uid).any (fun k => k.status == 0) then s.haltJob uid 4 e else s), .ended)
      | (s, .wait) => (s, .wait)
      | (s, .ok) =>
        match s.feedEntry j f with
        | (t, .error e) => if e.later then (s.askFor j.asker e, .wait) else ((t.taken j.asker).stopFeed uid f (some e), .ended)
        | (t, .ok e) =>
          let t := t.taken j.asker
          match j.refuses f.stream [e] with
          | some reason => (t.stopFeed uid f (some ⟨0x14, none, ladleInfo reason f.stream⟩), .ended)
          | none => (t.accept uid j.cluster f.stream [e], .next { f with off := f.off + f.width, count := f.count - 1 })

/-- FEED_STREAM_READ: the feed command at the head of a sprue reads its next entry. -/
def execFeedStreamRead (core sprue : Nat) (s : State) : Out :=
  match s.sprue core sprue with
  | [] => .next s
  | x :: _ =>
    match x.work with
    | .feed job base off count stream keysOnly =>
      if x.done || !s.orderedBefore x.after then .next s
      else
        match s.feedStep job { base, off, count, stream, keysOnly } with
        | (s, .next f) =>
          .next (s.onHead core sprue (fun x =>
            { x with begun := true, work := .feed job base f.off f.count stream keysOnly, done := f.count == 0 }))
        | (s, .ended) => .next (s.onHead core sprue (fun x => { x with begun := true, done := true }))
        | (s, .wait) => .next s
    | _ => .next s

/-! ### Opening, pushing and feeding (20 R428, R429) -/

/-- The routes of the parameter block of `mnopen`: every byte outside RFLAGS, TASK, BARW and TAG is zero. -/
def openBlockBad (pb : List Byte) : Bool :=
  routesBad pb || !allZero (pb.take 37) || leAt pb 44 4 != 0 || leAt pb 56 8 != 0

/-- The C operand names a parameter block. -/
def Ctx.hasBlock (c : Ctx) : Bool := c.x.c.uni

/-- What `mnopen` reads: its parameter block, then its record. -/
def State.readOpen (s : State) (c : Ctx) : State × Got (Routes × List Byte) :=
  let pb : State × Got (Option (List Byte)) :=
    if c.hasBlock then
      match s.recordBlk c (c.c 0) 64 with
      | (s, .ok pb) => (s, .ok (some pb))
      | (s, .bad e) => (s, .bad e)
      | (s, .busy) => (s, .busy)
    else (s, .ok none)
  match pb with
  | (s, .busy) => (s, .busy)
  | (s, .bad e) => (s, .bad e)
  | (s, .ok pb) =>
    if (match pb with | some pb => openBlockBad pb | none => false) then (s, .bad ⟨0x02, none, encInfo 9 8⟩)
    else
      match s.recordDev c (c.a 0) 2 with
      | (s, .ok l) => (s, .ok ((match pb with | some pb => Routes.ofBlock pb | none => Routes.none), l))
      | (s, .bad e) => (s, .bad e)
      | (s, .busy) => (s, .busy)

/-- MNOPEN. -/
def execMnopen (x : Fields) (s : State) : Out :=
  issue
    (engineEffect Ctx.operands (fun s c =>
      Got.then s c (s.readOpen c) (fun s r =>
        let w := c.warp
        let k := coreCluster c.core
        if jobBad r.2 || (s.jobNamed w.ctx (c.a 0)).isSome then laneTrap s c c.real 0x14 none (ladleInfo 0 0)
        else if (s.jobs.filter (fun j => j.cluster == k)).length ≥ 16 then parkAt s c .mnopen
        else
          let (uid, s) := s.newUid
          .ok (finishWarp { s with jobs := s.jobs ++ [Job.ofBytes uid (c.a 0) w (s.blockAt w.block) r.1 r.2] } c true))))
    .mnopen x s

/-- A warp that waits on a job, and the fault that its status records (20 R427); a job that drains or is done takes no entries (24 R457). -/
def State.waitsOn (s : State) (c : Ctx) (entries : Bool) (stream : Nat) : Except Bad Job :=
  match s.jobNamed c.warp.ctx (c.a 0) with
  | none => .error ⟨0x14, none, ladleInfo 0 stream⟩
  | some j =>
    if j.status ≥ 3 then
      match j.fault with
      | some f => .error ⟨f.cause.toNat, f.addr.map BitVec.toNat, f.info.map BitVec.toNat⟩
      | none => .error ⟨0x14, none, ladleInfo 3 0⟩
    else if entries && j.status != 0 then .error ⟨0x14, none, ladleInfo 0 stream⟩
    else if entries && stream ≥ j.nstream then .error ⟨0x14, none, ladleInfo 0 stream⟩
    else .ok j

/-- The entries that the lanes of a warp contribute, in ascending lane order. -/
def Ctx.pushes (c : Ctx) : List NewEntry := (laneList c.real).map (fun l => (BitVec.ofNat 64 (c.b l), BitVec.ofNat 64 (c.c l)))

/-- MNPUSH: all its entries, or none of them. -/
def execMnpush (x : Fields) (s : State) : Out :=
  issue
    (engineEffect (fun c => c.a 0 :: c.pushes.flatMap (fun e => [e.1.toNat, e.2.toNat])) (fun s c =>
      let stream := bitField c.x.e 0 6
      let es := c.pushes
      match s.waitsOn c true stream with
      | .error e => laneTrap s c c.real e.cause e.addr e.info
      | .ok j =>
        if es == [] then .ok (finishWarp s c true)
        else if c.warp.cast && Cells.get 0 j.owners stream != 0 && Cells.get 0 j.owners stream != c.warp.uid then
          laneTrap s c c.real 0x0C none none
        else
          match j.refuses stream es with
          | some reason => laneTrap s c c.real 0x14 none (ladleInfo reason stream)
          | none =>
            match s.makeRoom j es.length with
            | (s, .bad e) => laneTrap s c c.real e.cause e.addr e.info
            | (s, .wait) => stall s c
            | (s, .ok) =>
              let s := s.accept j.uid j.cluster stream es
              .ok (finishWarp (s.onJob j.uid (fun j =>
                { j with
                  owners := if Cells.get 0 j.owners stream == 0 then Cells.put 0 j.owners stream c.warp.uid else j.owners,
                  pushers := insertNat c.warp.uid j.pushers })) c true)))
    .mnpush x s

/-- MNFEED: a feed command in its sprue. -/
def execMnfeed (x : Fields) (s : State) : Out :=
  issue
    (engineEffect Ctx.operands (fun s c =>
      let stream := bitField c.x.e 3 6
      let q := c.sprueField
      let keysOnly := bitAt c.x.e 9
      let base := c.b 0
      match s.waitsOn c true stream with
      | .error e => laneTrap s c c.real e.cause e.addr e.info
      | .ok j =>
        if base % (if keysOnly then 8 else 16) != 0 then laneTrap s c c.real 0x04 base none
        else if s.spruefull c.core q then stall s c
        else .ok (finishWarp (s.issueCommand c q Routes.none (.feed j.uid base 0 (c.c 0) stream keysOnly)) c true)))
    .mnfeed x s

/-! ### Draining, reading, repairing and freeing a job (20 R430, R431) -/

/-- The drain of a job begun, once. -/
def State.beginDrain (s : State) (j : Job) : State := if j.status == 0 then s.setStatus j.uid 1 else s

/-- MNDRAIN. -/
def execMndrain (x : Fields) (s : State) : Out :=
  issue
    (engineEffect (fun c => [c.a 0]) (fun s c =>
      match s.waitsOn c false 0 with
      | .error e => laneTrap s c c.real e.cause e.addr e.info
      | .ok j => .ok (finishWarp (s.beginDrain j) c true)))
    .mndrain x s

/-- MNISECT: it parks until STATUS is 2, and then reads COUNT. -/
def execMnisect (x : Fields) (s : State) : Out :=
  issue
    (engineValue (fun c => [c.a 0]) (fun s c =>
      match s.waitsOn c false 0 with
      | .error e => laneTrap s c c.real e.cause e.addr e.info
      | .ok j =>
        if j.op != 4 then laneTrap s c c.real 0x14 none (ladleInfo 0 0)
        else if j.status == 2 then
          .ok (finishWarp (s.putResult c j.count 2) c true)
        else
          let s := s.beginDrain j
          match s.jobOf j.uid with
          | some k => if k.stopped then stall s c else parkAt s c .mnisect
          | none => stall s c))
    .mnisect x s

/-- MNSTAT. -/
def execMnstat (x : Fields) (s : State) : Out :=
  issue
    (engineValue (fun c => [c.a 0]) (fun s c =>
      match s.jobNamed c.warp.ctx (c.a 0) with
      | none => laneTrap s c c.real 0x14 none (ladleInfo 0 0)
      | some j =>
        let v := j.status % 16 + j.fstream % 64 * 2 ^ 8 + j.runs % 2 ^ 16 * 2 ^ 16 + j.emitted % 2 ^ 32 * 2 ^ 32
        .ok (finishWarp (s.putResult c v 2) c true)))
    .mnstat x s

/-- STATUS 0 again, and the stopped feeds go on in turn (R431). -/
def State.resume (s : State) (uid : Nat) : State :=
  (s.onJob uid (fun j => { j with fault := none, feeds := [], going := j.going ++ j.feeds })).setStatus uid 0

/-- SPILLCAP and RUNMAX read again, and the spill repeated (R193). A record that cannot be read leaves the job as it is. -/
def State.resumeSpill (s : State) (who : Asker) (j : Job) : State × Option Bad :=
  match s.readRange who j.through j.ctx (j.name + 24) 8 with
  | (s, .error e) => (s, some e)
  | (s, .ok cap) =>
    match s.readRange who j.through j.ctx (j.name + 40) 2 with
    | (s, .error e) => (s, some e)
    | (s, .ok rmax) =>
      let s := s.onJob j.uid (fun j => { j with spillCap := leAt cap 0 8, runMax := min 4096 (leAt rmax 0 2) })
      match s.jobOf j.uid with
      | none => (s, none)
      | some k =>
        if k.entries == [] then (s.resume k.uid, none)
        else
          let s := s.spillJob k.uid
          (s.onJob k.uid (fun j => { j with resuming := some j.spilling }), none)

/-- MNRESUME: with STATUS 4 the gang is not ready until the repeated spill has ended. -/
def execMnresume (x : Fields) (s : State) : Out :=
  issue
    (engineEffect (fun c => [c.a 0]) (fun s c =>
      match s.jobNamed c.warp.ctx (c.a 0) with
      | none => laneTrap s c c.real 0x14 none (ladleInfo 0 0)
      | some j =>
        match j.resuming with
        | some true => stall s c
        | some false => .ok (finishWarp (s.onJob j.uid (fun j => { j with resuming := none })) c true)
        | none =>
          if j.status == 3 then .ok (finishWarp (s.resume j.uid) c true)
          else if j.status != 4 then .ok (finishWarp s c true)
          else
            match s.resumeSpill (.engine c.warp.uid) j with
            | (t, none) =>
              match t.jobOf j.uid with
              | some k => if k.resuming.isSome then stall t c else .ok (finishWarp t c true)
              | none => .ok (finishWarp t c true)
            | (_, some e) => if e.later then stall (s.askFor (.engine c.warp.uid) e) c else .ok (finishWarp s c true)))
    .mnresume x s

/-! ### The merge (R190, R194) -/

/-- The key of an entry: OP 1 takes the upper half of the coordinate. -/
def keyOf (op : Nat) (e : LadleEntry) : Nat := if op == 1 then e.coord.toNat / 2 ^ 32 else e.coord.toNat

/-- Entries in order, grouped by key. -/
def groupKeys (op : Nat) : List LadleEntry → List (List LadleEntry)
  | [] => []
  | e :: es =>
    match groupKeys op es with
    | (f :: g) :: gs => if keyOf op e == keyOf op f then (e :: f :: g) :: gs else [e] :: (f :: g) :: gs
    | gs => [e] :: gs

/-- A sum of values, from the left. -/
def foldValues (vty : Nat) : List LadleEntry → Nat
  | [] => 0
  | e :: es =>
    es.foldl
      (fun v f =>
        if vty == 16 then (v + f.value.toNat) % 2 ^ 64
        else (faddElem vty { mode := 0, rb := 0, sat := .no, ftz := false } false v f.value.toNat).1)
      e.value.toNat

/-- What a job emits: coordinates and values in ascending key (Table 8-5). -/
def Job.emits (j : Job) (es : List LadleEntry) : List (Nat × Nat) :=
  let gs := groupKeys j.op (sortEntries es)
  match j.op with
  | 0 => gs.map (fun g => (keyOf 0 (g.headD ⟨0, 0, 0, 0⟩), foldValues j.vty g))
  | 1 => gs.map (fun g => (keyOf 1 (g.headD ⟨0, 0, 0, 0⟩) * 2 ^ 32, foldValues j.vty g))
  | 2 => (sortEntries es).map (fun e => (e.coord.toNat, e.value.toNat))
  | 3 => gs.map (fun g => let e := g.headD ⟨0, 0, 0, 0⟩; (e.coord.toNat, e.value.toNat))
  | _ =>
    if j.emit then
      (gs.filter (fun g => g.any (fun e => e.stream == 0) && g.any (fun e => e.stream == 1))).map (fun g => (keyOf 4 (g.headD ⟨0, 0, 0, 0⟩), 0))
    else []

/-- COUNT of OP 4. -/
def Job.common (j : Job) (es : List LadleEntry) : Nat :=
  if j.op == 4 then
    ((groupKeys 4 (sortEntries es)).filter (fun g => g.any (fun e => e.stream == 0) && g.any (fun e => e.stream == 1))).length
  else 0

/-- The entries of the runs that a job recorded, read back. -/
def State.readRuns (s : State) (j : Job) : Nat → State × Except Bad (List LadleEntry)
  | 0 => (s, .ok [])
  | n + 1 =>
    match State.readRuns s j n with
    | (s, .error e) => (s, .error e)
    | (s, .ok es) =>
      match s.readRange j.asker j.through j.ctx (j.runTab + 16 * n) 16 with
      | (s, .error e) => (s, .error e)
      | (s, .ok t) =>
        let count := leAt t 8 4
        match s.readRange j.asker j.through j.ctx (j.spill + leAt t 0 8) (24 * count) with
        | (s, .error e) => (s, .error e)
        | (s, .ok bs) => (s, .ok (es ++ (List.range count).map (fun i => LadleEntry.ofBytes (bs.drop (24 * i)))))

/-! ### Output (R191) -/

/-- Bytes to be written at an offset of OUT, within a part that ends at `limit`; `last` when an entry is whole after them. -/
structure OutPiece where
  off   : Nat
  limit : Nat
  bytes : List Byte
  last  : Bool
deriving DecidableEq, Repr

/-- The pieces of the CSR form: a row entry for each new row, a column and a value. -/
def csrPieces (cap vbytes total : Nat) : Option Nat → Nat → Nat → List (Nat × Nat) → List OutPiece
  | _, rows, _, [] => [{ off := 8 * rows, limit := cap / 2, bytes := leBytes 4 0xFFFFFFFF ++ leBytes 4 total, last := false }]
  | row, rows, i, (k, v) :: es =>
    let r := k / 2 ^ 32
    let fresh := row != some r
    (if fresh then [{ off := 8 * rows, limit := cap / 2, bytes := leBytes 4 r ++ leBytes 4 i, last := false }] else [])
      ++ [{ off := cap / 2 + 4 * i, limit := 3 * cap / 4, bytes := leBytes 4 (k % 2 ^ 32), last := false },
          { off := 3 * cap / 4 + vbytes * i, limit := cap, bytes := leBytes vbytes v, last := true }]
      ++ csrPieces cap vbytes total (some r) (if fresh then rows + 1 else rows) (i + 1) es

/-- The pieces of an output. -/
def Job.pieces (j : Job) (es : List (Nat × Nat)) : List OutPiece :=
  match j.form with
  | 0 => (List.range es.length).map (fun i =>
      let e := es.getD i (0, 0); { off := 16 * i, limit := j.outCap, bytes := leBytes 8 e.1 ++ leBytes 8 e.2, last := true })
  | 2 => (List.range es.length).map (fun i =>
      { off := 8 * i, limit := j.outCap, bytes := leBytes 8 (es.getD i (0, 0)).1, last := true })
  | _ => csrPieces j.outCap (if j.op < 2 && j.vty == 3 then 4 else 8) es.length none 0 0 es

/-- Bytes within one word of block memory or of a scratchpad. -/
def wordRun (o : Nat) (bs : List Byte) : Nat := min bs.length (4 - o % 4)

/-- Bytes written to the block memory of a resident block; a tagged word is left alone (19 R410). -/
def State.outBlock (s : State) (b : Block) (o : Nat) : Nat → List Byte → State × Option Bad
  | 0, _ => (s, none)
  | fuel + 1, bs =>
    if bs == [] then (s, none)
    else
      let n := wordRun o bs
      if !b.holds o n then (s, some ⟨0x05, b.firstBeyond o, none⟩)
      else if (b.tagIn o n).isSome then State.outBlock s b (o + n) fuel (bs.drop n)
      else
        match s.writeAt .blk (b.key o) n (leAt bs 0 n) none with
        | (s, some (cause, info)) => (s, some ⟨cause, o, info⟩)
        | (s, none) => State.outBlock s b (o + n) fuel (bs.drop n)

/-- Bytes written to a scratchpad window. -/
def State.outSpad (s : State) (die base len o : Nat) : Nat → List Byte → State × Option Bad
  | 0, _ => (s, none)
  | fuel + 1, bs =>
    if bs == [] then (s, none)
    else
      let n := wordRun o bs
      match checkSpad len o n 1 with
      | some e => (s, some e)
      | none =>
        match s.writeAt .spad (spadKey die base o) n (leAt bs 0 n) none with
        | (s, some (cause, info)) => (s, some ⟨cause, o, info⟩)
        | (s, none) => State.outSpad s die base len (o + n) fuel (bs.drop n)

/-- A tag of a saved block's image. -/
def State.savedTag (s : State) (b : SavedBlock) (o : Nat) : Bool :=
  match (s.readRange noAsker (dieCore b.die) b.ctx (s.slotAddr b.die b.task b.stage b.slot + tagsAt (s.savedCores b) + o / 64) 1).2 with
  | .ok l => natBit (leAt l 0 1) (o / 8 % 8)
  | .error _ => false

/-- BMEM of a saved block's stage. -/
def State.savedBmem (s : State) (b : SavedBlock) : Nat :=
  match s.taskOf b.die b.task with
  | some t => (match t.rec'.stages[b.stage]? with | some d => d.bmem | none => 0)
  | none => 0

/-- Bytes written to the save image of a block. -/
def State.outSaved (s : State) (b : SavedBlock) (o : Nat) : Nat → List Byte → State × Option Bad
  | 0, _ => (s, none)
  | fuel + 1, bs =>
    if bs == [] then (s, none)
    else
      let n := wordRun o bs
      if o + n > s.savedBmem b then (s, some ⟨0x05, max o (s.savedBmem b), none⟩)
      else if s.savedTag b o then State.outSaved s b (o + n) fuel (bs.drop n)
      else
        match s.writeRange noAsker (dieCore b.die) b.ctx (s.slotAddr b.die b.task b.stage b.slot + 256 + o) (bs.take n) with
        | (s, some e) => (s, some { e with addr := o })
        | (s, none) => State.outSaved s b (o + n) fuel (bs.drop n)

/-- Bytes of output written under OSPACE. -/
def State.writeOut (s : State) (j : Job) (off : Nat) (data : List Byte) : State × Option Bad :=
  let o := j.out.toNat + off
  match j.ospace with
  | 0 => s.writeRange j.asker j.through j.ctx o data
  | 1 =>
    match s.blockOf j.block with
    | some b => s.outBlock b o (data.length + 1) data
    | none =>
      match s.savedOf j.block with
      | some b => s.outSaved b o (data.length + 1) data
      | none => (s, some ⟨0x05, o, none⟩)
  | _ => let (base, len) := s.window j.ctx j.odie; s.outSpad j.odie base len o (data.length + 1) data

/-- The entries that are whole once the pieces up to a place in an area are written. -/
def wholeAt (off : Nat) (ps : List OutPiece) : Nat := (ps.filter (fun p => p.last && decide (p.off + p.bytes.length ≤ off))).length

/-- Consecutive pieces of one area put together. -/
def joinPieces : List OutPiece → List (Nat × List Byte)
  | [] => []
  | p :: ps =>
    match joinPieces ps with
    | (o, bs) :: rs => if o == p.off + p.bytes.length then (p.off, p.bytes ++ bs) :: rs else (p.off, p.bytes) :: (o, bs) :: rs
    | [] => [(p.off, p.bytes)]

/-- The pieces that fit before the first that would pass its part of OUT. -/
def fitting : List OutPiece → List OutPiece
  | [] => []
  | p :: ps => if p.off + p.bytes.length > p.limit then [] else p :: fitting ps

/-- The writes of an output, area by area and line by line (11 R469). -/
def Job.outWrites (j : Job) (ps : List OutPiece) : List LadleWrite :=
  let areas := [ps.filter (fun p => !p.last && decide (p.off < j.outCap / 2)), ps.filter (fun p => !p.last && decide (j.outCap / 2 ≤ p.off)), ps.filter (fun p => p.last)]
  areas.flatMap (fun a => (joinPieces a).flatMap (fun r =>
    ((linesOf (j.out.toNat + r.1) r.2).filter (fun l => l.2 != [])).map (fun l =>
      .out (r.1 + l.1) l.2 (wholeAt (r.1 + l.1 + l.2.length) (a.filter (fun p => p.last))))))

/-- `n` bytes of unspecified value. -/
def State.chooseBytes (s : State) : Nat → State × List Byte
  | 0 => (s, [])
  | n + 1 =>
    let (k, s) := s.chooseNat
    let (s, bs) := State.chooseBytes s n
    (s, BitVec.ofNat 8 k :: bs)

/-- The output of a job that is closed before it is done is unspecified (R194): a free number of free bytes. -/
def State.scribble (s : State) (j : Job) : State :=
  if j.status == 2 then s
  else
    let (k, s) := s.chooseNat
    let (s, bs) := s.chooseBytes (min k j.outCap)
    (s.writeOut j 0 bs).1

/-- MNCLOSE: a job that is done is closed once its record is written and its routes have acted. -/
def execMnclose (x : Fields) (s : State) : Out :=
  issue
    (engineEffect (fun c => [c.a 0]) (fun s c =>
      match s.jobNamed c.warp.ctx (c.a 0) with
      | none => laneTrap s c c.real 0x14 none (ladleInfo 0 0)
      | some j =>
        if j.status == 2 && (j.writes != [] || !j.acted) then stall s c
        else
          let s := s.scribble j
          let s := { s with jobs := s.jobs.filter (fun k => k.uid != j.uid) }
          .ok (finishWarp ((s.wakeLadle .mnopen).wakeLadle .mnisect) c true)))
    .mnclose x s

/-! ### The steps of a job -/

/-- The oldest write of a job performed (07 R150). -/
def State.performWrite (s : State) (j : Job) (w : LadleWrite) : State :=
  let t := j.target w
  let (s', e) := match w with
    | .out off data _ => s.writeOut j off data
    | _ => s.writeRange j.asker j.through j.ctx t.1 t.2
  match e with
  | some e => if e.later then s.askFor j.asker e else (s'.taken j.asker).writeFailed j.uid w e
  | none =>
    let s := (s'.taken j.asker).onJob j.uid (fun j => { j with writes := j.writes.drop 1 })
    match w with
    | .run bytes =>
      let s := s.onJob j.uid (fun j => { j.counted bytes with resuming := j.resuming.map (fun _ => false) })
      if j.resuming == some true then s.resume j.uid else s
    | .out _ data whole => s.onJob j.uid (fun j => { j with emitted := max j.emitted whole, written := j.written + data.length })
    | _ => s

/-- The next step of a job as an agent (07 R149, R150): its oldest write, or the next entry of a feed that it continues. -/
def State.jobStep (s : State) (j : Job) : State :=
  match j.writes, j.going with
  | w :: _, _ => s.performWrite j w
  | [], f :: fs =>
    match s.feedStep j.uid f with
    | (s, .next g) => s.onJob j.uid (fun k => { k with going := if g.count == 0 then fs else g :: fs })
    | (s, .ended) => s.onJob j.uid (fun k => { k with going := fs })
    | (s, .wait) => s
  | [], [] => s

/-- The writes of a job that lie in this package performed, as when its cluster is claimed or its block leaves (03 R49). -/
def State.flushJob (s : State) (uid : Nat) : Nat → State
  | 0 => s
  | n + 1 => match s.jobOf uid with | some j => if j.writes == [] then s else State.flushJob (s.jobStep j) uid n | none => s
def State.spillOut (s : State) (uid : Nat) : State :=
  let s := s.spillJob uid
  s.flushJob uid (match s.jobOf uid with | some j => j.writes.length + 1 | none => 0)

/-- A job continues on another cluster's ladle (R197, 03 R49): its entries are spilled first. -/
def State.moveJob (s : State) (uid cluster : Nat) : State :=
  match s.jobOf uid with
  | none => s
  | some j => if j.cluster == cluster then s else (s.spillOut uid).onJob uid (fun j => { j with cluster })

/-! ### The end of a drain -/

/-- A job's record on route 3 has room. -/
def State.jobRoom (s : State) (j : Job) : Bool := !(j.routes.record && s.ringFull (coreDie j.core))

/-- The routes of a job act, once its record says that it is done (R194). -/
def State.actJob (s : State) (j : Job) : State :=
  let s := (s.onJob j.uid (fun j => { j with acted := true })).actRoutes j.routes j.block j.emitted j.written
  if j.routes.record then
    s.post (coreDie j.core)
      { ctx := j.ctx, tag := j.routes.tag, cause := 0, sprue := 0xFF, core := BitVec.ofNat 16 (s.coreNumber j.core),
        rows := BitVec.ofNat 32 j.emitted, bytes := BitVec.ofNat 64 j.written, faddr := 0 }
  else s

/-- The merge of every run with the resident entries: it issues the output. Runs that cannot be read stop it. -/
def State.mergeJob (s : State) (j : Job) : State :=
  match (s.noteWork j.ctx).readRuns j j.runs with
  | (t, .error e) => if e.later then s.askFor j.asker e else ((t.taken j.asker).onJob j.uid (fun j => { j with merged := true, stopAt := some e.kept }))
  | (s, .ok runs) =>
    let es := runs ++ j.entries
    let ps := if j.op == 4 && !j.emit then [] else j.pieces (j.emits es)
    let fit := fitting ps
    (s.taken j.asker).onJob j.uid (fun j =>
      { j with
        merged := true, entries := [], count := j.common es,
        stopAt := if fit.length == ps.length then none else some (Bad.kept ⟨0x14, none, ladleInfo 3 0⟩) }.issue (j.outWrites fit))

/-- The output has been written, or has stopped: EMITTED and COUNT, then STATUS. -/
def State.closeOutput (s : State) (j : Job) : State :=
  let s := s.onJob j.uid (fun j => j.issue ([.field 72 8 j.emitted] ++ if j.op == 4 && j.stopAt.isNone then [.field 80 8 j.count] else []))
  match j.stopAt with
  | some f => (s.onJob j.uid (fun j => { j with fault := some f })).setStatus j.uid 5
  | none => s.setStatus j.uid 2

/-- A drain that merges here, as far as it can go: the merge, the fields once the output is written, and the routes last. -/
def State.drainStep (s : State) (j : Job) : State :=
  if j.writes != [] then s
  else if j.status == 1 then if j.merged then s.closeOutput j else s.mergeJob j
  else if j.status == 2 && !j.acted && s.jobRoom j then s.actJob j
  else s

/-! ### Jobs across dies and packages (R198) -/

/-- The owner's job of a SPAN job, on this package. -/
def State.spanOwner (s : State) (j : Job) : Option Job :=
  s.jobs.find? (fun k => k.span && k.final && k.ctx == j.ctx && k.owner == j.owner && k.ownClu == j.ownClu && k.npart == j.npart)

/-- A run appended at once to the spill area and run table of an owner, whose space and entry are claimed with it. -/
def State.appendRun (s : State) (who : Asker) (owner : Job) (run : List Byte) : State × Option Bad :=
  if owner.spilled + run.length > owner.spillCap || owner.runs ≥ owner.runMax then (s, some ⟨0x15, none, none⟩)
  else
    match s.writeRange who owner.through owner.ctx (owner.spill + owner.spilled) run with
    | (s, some e) => (s, some e)
    | (s, none) =>
      match s.writeRange who owner.through owner.ctx (owner.runTab + 16 * owner.runs) (leBytes 8 owner.spilled ++ leBytes 4 (run.length / 24) ++ leBytes 4 0) with
      | (s, some e) => (s, some e)
      | (s, none) =>
        (s.onJob owner.uid (fun o => { o with runs := o.runs + 1, spilled := o.spilled + run.length }.issue [.field 42 2 (o.runs + 1)]), none)

/-- A run of a job read back. -/
def State.readRun (s : State) (j : Job) (i : Nat) : State × Except Bad (List Byte) :=
  match s.readRange j.asker j.through j.ctx (j.runTab + 16 * i) 16 with
  | (s, .error e) => (s, .error e)
  | (s, .ok t) => s.readRange j.asker j.through j.ctx (j.spill + leAt t 0 8) (24 * leAt t 8 4)

/-- The next run of a participant delivered to an owner on this package, or DONEPART once all are. -/
def State.deliverNext (s : State) (j owner : Job) : State × Option Bad :=
  if j.delivered < j.runs then
    match s.readRun j j.delivered with
    | (s, .error e) => (s, some e)
    | (s, .ok bs) =>
      match s.appendRun j.asker owner bs with
      | (s, some e) => (s, some e)
      | (s, none) => (s.onJob j.uid (fun j => { j with delivered := j.delivered + 1 }), none)
  else
    let s := s.onJob owner.uid (fun o => { o with donePart := o.donePart + 1 }.issue [.field 58 2 (o.donePart + 1)])
    (s.setStatus j.uid 2, none)

/-- What a participant delivers to an owner on another package goes in one operation, whose memory is that package's. -/
def State.deliverAway (s : State) (j : Job) (pkg : BitVec 10) : State × Option Bad :=
  match s.answerTo j.asker with
  | none =>
    if s.asking j.asker then (s, none)
    else
      match s.routeTo pkg 0 with
      | .error info => (s, some ⟨0x1C, none, info⟩)
      | .ok port =>
        let r := s.askerRequest j.asker
        if !s.mayTake port r then (s, none)
        else let (k, s) := (s.take port r).newUid; (s.send k 0 (Access.asked j.asker true []) pkg, none)
  | some a => if a.bytes.isSome then ((s.taken j.asker).setStatus j.uid 2, none) else (s.taken j.asker, some ⟨a.cause, none, a.info⟩)

/-- A participant's part of a SPAN drain: its entries as a final run, its runs to the owner, and DONEPART. -/
def State.participate (s : State) (j : Job) : State :=
  if j.writes != [] then s
  else if j.status == 2 then if !j.acted && s.jobRoom j then s.actJob j else s
  else if j.entries != [] then s.spillJob j.uid
  else
    let pkg := BitVec.ofNat 10 (bitField j.owner 2 10)
    let here := pkg == s.pkg || pkg == 0x3FF
    let r : State × Option Bad :=
      if here then match s.spanOwner j with | some o => s.deliverNext j o | none => (s, none)
      else s.deliverAway j pkg
    match r with
    | (t, none) => t.taken (if here then j.asker else noAsker)
    | (t, some e) => if e.later then s.askFor j.asker e else (t.taken j.asker).haltJob j.uid 4 e

/-- LADLE_DRAIN_DONE: the next step of the drain of a job that is not a SPAN job, or of a participant's. -/
def execLadleDrainDone (job : Nat) (s : State) : Out :=
  match s.jobOf job with
  | none => .next s
  | some j =>
    if j.status != 1 && j.status != 2 then .next s
    else if !j.span then .next (s.drainStep j)
    else if j.final then .next s
    else .next (s.participate j)

/-- The runs that participants on other packages have delivered to an owner here, each with DONEPART; none that does not fit, which ends the participant's job there. -/
def State.takeRuns (s : State) (uid : Nat) : List (List Byte) → State
  | [] => s
  | run :: runs =>
    match s.jobOf uid with
    | none => s
    | some o =>
      let rest (o : Job) : Job := { o with away := runs }
      match (if run == [] then (s, none) else s.appendRun o.asker o run) with
      | (t, some e) => if e.later then s.askFor o.asker e else State.takeRuns ((t.taken o.asker).onJob uid rest) uid runs
      | (s, none) =>
        State.takeRuns ((s.taken o.asker).onJob uid (fun o => { rest o with donePart := o.donePart + 1 }.issue [.field 58 2 (o.donePart + 1)])) uid runs

/-- SPAN_FINAL_MERGE: what participants of other packages have delivered is taken, and the owner's ladle merges once its own drain has been issued and every participant has
delivered. -/
def execSpanFinalMerge (job : Nat) (s : State) : Out :=
  let s := match s.jobOf job with | some j => if j.span && j.final && j.status < 2 then s.takeRuns job j.away else s | none => s
  match s.jobOf job with
  | none => .next s
  | some j =>
    if !(j.span && j.final) || (j.status != 1 && j.status != 2) || j.donePart + 1 != j.npart then .next s
    else .next (s.drainStep j)

end Sys2Proof.Machine
end

