-- ==== Sys2Proof/Machine/Performing.lean ====
section
/-!
DEFINITION. The machine steps of Table 7-1 other than issue (07 R150), and what wakes, times out or drains in a warp or a bank group:
accesses performed and delivered, parity, versions, waits, fences, packing, sleeping, `malloc`, the stack cache, and soft errors. An event
that is not enabled changes nothing.
-/
namespace Sys2Proof.Machine

/-! ### Perform and deliver (07 R150; 01 R19, R20) -/

/-- An access may be performed: also for the tiles that a mold record names, nothing earlier that meets them is pending. -/
def State.mayAct (s : State) (w : Warp) (a : Access) : Bool :=
  let reads := s.moldReads w a
  s.mayPerform w a
    && !w.pending.any (fun x =>
      decide (x.seq < a.seq) && x.space == .blk && x.parts.any (fun p => reads.any (fun q => overlap p.addr p.bytes q.addr q.bytes)))

/-- An access leaves the pending list. -/
def State.leave (s : State) (uid index : Nat) : State :=
  s.onWarp uid (fun w => Warp.tidy { w with pending := w.pending.eraseIdx index })

/-- What an access does to memory. -/
def State.actAny (s : State) (w : Warp) (a : Access) : State × Acted :=
  match a.kind with
  | .mold o x off k => s.performMold w o x off k
  | _ => s.act w a

/-- A home slice performs it as an operation of its context (04 R100). -/
def Access.served (a : Access) : Bool :=
  a.space == .dev && match a.kind with | .atom _ _ _ _ _ => true | .mon _ => true | .tileFlag => true | _ => false

/-- The name of the first byte of an access. -/
def Access.name (a : Access) : Nat := match a.parts with | p :: _ => p.name | [] => 0

/-- ACCESS_PERFORM: an entry of a warp's pending list is performed, or enters its channel; or the next step of a ladle job, which is an agent too (07 R149). -/
def execAccessPerform (agent index : Nat) (s : State) : Out :=
  match s.warpOf agent with
  | none => match s.jobOf agent with | some j => .next (s.jobStep j) | none => .next s
  | some w =>
    match w.pending[index]? with
    | none => .next s
    | some a =>
      if !s.mayAct w a then .next s
      else
        match a.remote with
        | some pkg =>
          match s.routeTo pkg 0 with
          | .error info => .next ((s.leave agent index).noteActed agent a (.fault 0x1C a.name info))
          | .ok port =>
            let r := s.request w.ctx a.seq
            if !s.mayTake port r then .next s
            else
              let (k, s) := (s.take port r).newUid
              .next (((s.leave agent index).send k agent a pkg).settle agent)
        | none =>
          let (s, r) := s.actAny w a
          let s := if a.served then s.noteWork w.ctx else s
          .next ((s.leave agent index).noteActed agent a r)

/-- Home slices keep the identifiers of what they performed for 131,072 heartbeats (01 R21). -/
def State.keepOp (s : State) (uid : Nat) : State :=
  { s with performedOps := s.performedOps.filter (fun p => (s.hb - p.2).toNat < 131072) ++ [(uid, s.hb)] }

/-- The access of a command that went into a channel under a number: its core, sprue, command, work and itself. -/
def State.sentUnder (s : State) (k : Nat) : Option (Nat × Nat × Command × RowWork × CmdAccess) :=
  s.cores.findSome? (fun c =>
    ((List.range c.sprues.length).zip c.sprues).findSome? (fun q =>
      q.2.findSome? (fun x => x.works.findSome? (fun y => (y.accs.find? (fun a => a.sent == some k)).map (fun a => (c.id, q.1, x, y, a))))))

/-- What one who asked for bytes of another package gets: the bytes read or written, or what failed. Nobody waits for what has the number 0. -/
def State.respond (s : State) (who : Asker) (a : Answer) : State :=
  let s : State := if who == .engine 0 then s else { s with answers := s.answers ++ [a] }
  match who with
  | .engine k =>
    match s.tasks.find? (fun t => t.order == k && t.counter == 0 && !t.ready) with
    | some t => s.makeReady t.die t.idx
    | none => s
  | _ => s

/-- An operation that was asked for acts on the remote memory. -/
def State.actAsked (s : State) (who : Asker) (write : Bool) (parts : List Part) : State × Answer :=
  let key := (parts.head?.map (fun p => p.addr)).getD 0
  let n := parts.foldl (fun n p => n + p.bytes) 0
  let data := parts.flatMap (fun p => leBytes p.bytes p.data.toNat)
  let bad : Answer := { who, addr := key, write, bytes := none, cause := 0x0E, info := badLineInfo }
  if write then if s.tornLine key n then (s, bad) else (s.writeDev key data none, { bad with bytes := some data })
  else if n != 0 && s.rangeBad key n then (s, bad)
  else (s, { bad with bytes := some (s.dev.bytes key n) })

/-- The response to one who asked, unless the operation has failed meanwhile: a word fetched goes into the instruction cache, and a `wait` has read its word. -/
def State.tell (s : State) (who : Asker) (a : Answer) : State :=
  match who, a.bytes with
  | .fetch core ctx pc, some bs => s.onCore core (fun c => { c with icache := (ctx, pc, BitVec.ofNat 32 (leAt bs 0 4)) :: c.icache })
  | .wait warp seq lane, _ =>
    (s.onWarp warp (fun w =>
      { w with waits := w.waits.map (fun x =>
          if x.seq == seq then { x with lanes := x.lanes.map (fun l => if l.lane == lane then { l with stirred := false } else l) } else x) })).respond who a
  | _, _ => s.respond who a

/-- The oldest operation of a channel acts on the remote memory; the response of one that has not failed returns at once. -/
def State.deliver (s : State) (o : SysOp) : State :=
  let s := s.keepOp o.uid
  let gone (s : State) : State :=
    if o.failed.isSome then { s with channels := s.channels.map (fun p => if p.uid == o.uid then { p with inChannel := false } else p) }
    else { s with channels := s.channels.filter (fun p => p.uid != o.uid) }
  match o.access.kind with
  | .ask who write =>
    match s.sentUnder o.uid with
    | some (core, q, x, y, a) =>
      if o.failed.isSome then gone (if a.write == [] then s else (s.writeRun .dev a.write).1) else ((gone s).actCommand core q x y a).settleQwaits core
    | none =>
      let (s, a) := s.actAsked who write o.access.parts
      if o.failed.isSome then gone s else (gone s).tell who a
  | _ =>
    match s.warpOf o.warp with
    | none => gone s
    | some w =>
      let (s, r) := (s.noteWork w.ctx).actAny w o.access
      if o.failed.isSome then gone s else (gone s).noteActed w.uid o.access r

/-- CHANNEL_DELIVER (07 R150). -/
def execChannelDeliver (pkg : BitVec 10) (cls : Nat) (s : State) : Out :=
  match s.channels.find? (fun o => o.inChannel && o.pkg == pkg && o.cls == cls) with
  | none => .next s
  | some o => .next (s.deliver o)

/-! ### Bank groups (06 R133, R134) -/

/-- PARITY_APPLY. -/
def execParityApply (group : GroupId) (s : State) : Out := .next (s.applyParity group)

/-- PARITY_RECOMPUTE: for a row whose parity waits to be recomputed. -/
def execParityRecompute (group : GroupId) (row : Nat) (s : State) : Out :=
  .next (if (s.groupOf group).recompute.contains row then s.recomputeParity group row else s)

/-! ### Versioned writes (07 R167 to R169) -/

/-- The version of a line. -/
def State.version (s : State) (line : Nat) : Nat := Cells.get 0 s.versions line

/-- Elements added to the line's current ones: integers modulo their width, floating values rounded to nearest (08 R181). -/
def addElems (t base : Nat) : Nat → List Byte → List Byte → List Byte
  | 0, _, _ => []
  | n + 1, old, new =>
    let k := max 1 (tyWidth t / 8)
    leBytes k (atomResult .add t (leAt old 0 k) (leAt new 0 k) 0) ++ addElems t (base + k) n (old.drop k) (new.drop k)

/-- The bytes that a held write puts at its line. -/
def State.heldBytes (s : State) (h : HeldWrite) : List Byte :=
  let base := match h.data with | c :: _ => c.1 | [] => 64 * h.line
  let data := h.data.map (fun c => c.2)
  match h.add with
  | none => data
  | some t => addElems t.toNat base (data.length / max 1 (tyWidth t.toNat / 8)) (s.dev.bytes base data.length) data

/-- A held write dropped with a cause for its command: the rows that it holds bytes of count as not performed (08 R181, R184). -/
def State.dropHeld (s : State) (h : HeldWrite) (cause info : Nat) : State :=
  let s := { s with heldWrites := s.heldWrites.filter (fun g => !(g.cmd == h.cmd && g.index == h.index)) }
  match s.commandAt h.cmd with
  | none => s
  | some (core, q, _) =>
    (((s.meet h.cmd q (h.rows.headD 0) ⟨cause, h.name, info⟩).onCommand h.cmd (fun x =>
      { x with heldWrites := x.heldWrites - 1, lost := x.lost ++ [(h.index, h.rows)] })).settleCommand core h.cmd).settleQwaits core

/-- VERSION_APPLY: the write acts on the line, and the version advances. -/
def execVersionApply (line index : Nat) (s : State) : Out :=
  match (s.heldWrites.filter (fun h => h.line == line))[index]? with
  | none => .next s
  | some h =>
    if s.version line != h.expect then .next s
    else if s.lineBad (64 * line) && (h.add.isSome || h.data.length < 64) then .next (s.dropHeld h 0x0E badLineInfo)
    else
      let s := s.writeDev ((h.data.headD (64 * line, 0)).1) (s.heldBytes h) none
      let s := { s with
        versions := Cells.put 0 s.versions line ((h.expect + 1) % 256),
        heldWrites := s.heldWrites.filter (fun g => !(g.cmd == h.cmd && g.index == h.index)) }
      let s := (s.noteWork h.ctx).onCommand h.cmd (fun x => { x with heldWrites := x.heldWrites - 1, bytes := x.bytes + h.data.length })
      match s.commandAt h.cmd with
      | some (core, _, _) =>
        .next (((s.onCore core (fun k => { k with copied := k.copied + BitVec.ofNat 64 h.data.length })).settleCommand core h.cmd).settleQwaits core)
      | none => .next s

/-- VERSION_TIMEOUT: the line keeps its data and version. -/
def execVersionTimeout (line index : Nat) (s : State) : Out :=
  match (s.heldWrites.filter (fun h => h.line == line))[index]? with
  | none => .next s
  | some h => if s.hb.toNat < h.deadline.toNat then .next s else .next (s.dropHeld h 0x13 (h.index * 2 ^ 32))

/-! ### Waits (19 R415) -/

/-- The read of one lane of a wait. -/
def Waiting.access (x : Waiting) (l : WaitLane) : Access :=
  { seq := x.seq, pc := x.pc, quad := l.lane / 4, lane := l.lane, blame := BitVec.ofNat 32 (2 ^ l.lane), depth := 0, joined := none, ended := none,
    acq := x.acq, rel := none, space := l.space, kind := .mon x.dst, parts := [{ addr := l.addr, bytes := if x.wide then 8 else 4, data := 0, name := l.name, laid := 0 }],
    remote := l.remote, tile := none, held := false, holds := false, helper := false }

/-- The quads of a wait no longer park. -/
def State.endWait (s : State) (w : Warp) (x : Waiting) (go : Warp → Warp) : State :=
  let clk := (s.coreOf w.core).clk
  let v := w.onQuads (quadList x.quads) (fun q => { q with park := .running, readyAt := clk })
  s.putWarp (go { v with waits := v.waits.filter (fun y => y.seq != x.seq) }).tidy

/-- A trap of a wait: no lane's d is written. The shadow raises none, its own `wait` taking only the result (11 R244). -/
def State.waitTrap (s : State) (w : Warp) (x : Waiting) (cause addr : Nat) (info : Option Nat) (mask : LaneMask) : State :=
  let s := s.endWait w x (fun w => { w with trail := w.trail.filter (fun h => h.seq != x.seq) })
  (s.takeTrapOf true w.uid (Trap.of cause mask x.pc.toNat addr info)).settle w.uid

/-- The results of a wait whose lanes are all satisfied. -/
def Waiting.values (x : Waiting) : List (Nat × Nat × Word) :=
  x.lanes.flatMap (fun l =>
    (wordsTo x.dst (match l.result with | some v => v.toNat | none => 0) (if x.wide then 2 else 1)).map (fun v => (v.1, l.lane, v.2)))

/-- A wait after a lane has read a value. -/
def Waiting.saw (x : Waiting) (lane v : Nat) : Waiting :=
  { x with
    lanes := x.lanes.map (fun l =>
      if l.lane == lane then
        { l with stirred := false, result := if (decide (v = l.operand.toNat)) != x.ne then some (BitVec.ofNat 64 v) else none }
      else l) }

/-- A lane of a wait has read a value; with the last one satisfied the results land, in the shadow's queue too (11 R244). -/
def State.waitRead (s : State) (w : Warp) (x : Waiting) (lane v : Nat) : State :=
  let x := x.saw lane v
  if x.lanes.all (fun l => l.result.isSome) then
    let (s, vals) := s.landing x.early x.values
    (s.endWait w x (fun w => Warp.fillValue x.seq (x.values.map (fun p => (p.1 - x.dst, p.2.1, p.2.2)))
      ((advanceQuads w (quadList x.quads) x.len).landValues vals))).settle w.uid
  else s.onWarp w.uid (fun w => { w with waits := w.waits.map (fun y => if y.seq == x.seq then x else y) })

/-- The lane of a wait of another package (01 R19): it has its response, or asks. -/
def State.waitAway (s : State) (w : Warp) (x : Waiting) (l : WaitLane) : State :=
  let who : Asker := .wait w.uid x.seq l.lane
  let mask : LaneMask := BitVec.ofNat 32 (2 ^ l.lane)
  match s.answerTo who with
  | some a =>
    let s := s.taken who
    match a.bytes with
    | none => s.waitTrap w x a.cause l.name a.info mask
    | some bs =>
      let t := (s.noteWork w.ctx).waitRead w x l.lane (leAt bs 0 bs.length)
      if l.stirred then
        t.onWarp w.uid (fun w => { w with waits := w.waits.map (fun y =>
          if y.seq == x.seq then { y with lanes := y.lanes.map (fun k => if k.lane == l.lane then { k with stirred := k.result.isNone } else k) } else y) })
      else t
  | none => if l.stirred && s.mayPerform w (x.access l) && !s.asking who then s.ask who false (x.access l).parts else s

/-- WAIT_WAKE: a lane whose word was written, or that has not read yet, reads and compares. -/
def execWaitWake (warp lane : Nat) (s : State) : Out :=
  match s.warpOf warp with
  | none => .next s
  | some w =>
    match w.waits.findSome? (fun x => (x.lanes.find? (fun l => l.lane == lane && l.result.isNone)).map (fun l => (x, l))) with
    | none => .next s
    | some (x, l) =>
      if l.remote.isSome then .next (s.waitAway w x l)
      else if !l.stirred || !s.mayPerform w (x.access l) then .next s
      else
        match s.readAt l.space l.addr (if x.wide then 8 else 4) with
        | (s, .error (cause, info)) => .next (s.waitTrap w x cause l.name info (BitVec.ofNat 32 (2 ^ lane)))
        | (s, .ok v) => .next ((if l.space == .dev then s.noteWork w.ctx else s).waitRead w x lane v)

/-- WAIT_TIMEOUT: cause 0x10 in the lanes that are not satisfied. -/
def execWaitTimeout (warp quad : Nat) (s : State) : Out :=
  match s.warpOf warp with
  | none => .next s
  | some w =>
    match w.waits.find? (fun x => x.quads.getLsbD quad) with
    | none => .next s
    | some x =>
      let left := x.lanes.filter (fun l => l.result.isNone)
      if x.timeout == 0 || (s.hb - x.since).toNat < 1024 * x.timeout || left == [] then .next s
      else .next (s.waitTrap w x 0x10 ((left.head?.map (fun l => l.name)).getD 0) (some 0) (left.foldl (fun m l => maskSet m l.lane true) 0))

/-! ### `fence.tick` (07 R156; 01 R23) -/

/-- Every access that a warp of a core issued before a place in order is complete. -/
def State.drained (s : State) (core seq : Nat) : Bool :=
  s.warps.all (fun w =>
    w.core != core
      || (!w.pending.any (fun a => decide (a.seq < seq) && match a.kind with | .fence _ => false | _ => true)
        && !s.channels.any (fun o => o.warp == w.uid && decide (o.access.seq < seq))
        && !w.waits.any (fun x => decide (x.seq < seq) && x.lanes.any (fun l => l.stirred && l.result.isNone))))

/-- FENCE_TICK_COMPLETE: the first time, once everything earlier has drained on a locked package, the next edge is awaited; the second
time, 64 ns after that edge, the fence completes. An unlocked package awaits a new edge once it is locked. -/
def execFenceTickComplete (warp : Nat) (s : State) : Out :=
  match s.warpOf warp with
  | none => .next s
  | some w =>
    match w.tick with
    | none => .next s
    | some t =>
      let put (e : Option (BitVec 64)) : State := s.onWarp warp (fun w => { w with tick := some { t with edge := e } })
      if !s.locked then .next (put none)
      else
        match t.edge with
        | none => .next (if s.drained w.core t.seq then put (some (s.hb + 1)) else s)
        | some e =>
          if s.hb.toNat < e.toNat || (s.hb == e && (s.ns - s.edgeNs).toNat < 64) then .next s
          else
            let clk := (s.coreOf w.core).clk
            .next ((s.onWarp warp (fun w =>
              { w.onQuads (quadList t.quads) (fun q => if q.park == .fenceTick then { q with park := .running, readyAt := max q.readyAt clk } else q)
                with tick := none })).settle warp)

/-! ### Sleeping, packing and pouring -/

/-- SLEEP_EXPIRE (18 R388): the gang of a quad whose count has run out. -/
def execSleepExpire (warp quad : Nat) (s : State) : Out :=
  match s.warpOf warp with
  | none => .next s
  | some w =>
    let q := w.quad quad
    if q.park == .sleep && decide (q.readyAt ≤ (s.coreOf w.core).clk) then
      .next (s.onWarp warp (fun w =>
        w.onQuads (w.members q.gang) (fun q => if q.park == .sleep then { q with park := .running } else q)))
    else .next s

/-- PACK_WINDOW_CLOSE (05 R110): windows opened 256 clocks ago. -/
def execPackWindowClose (core : Nat) (pc : BitVec 55) (s : State) : Out :=
  let c := s.coreOf core
  let due := c.windows.filter (fun v => v.pc == pc && decide (v.opened + 256 ≤ c.clk))
  .next (due.foldl (fun s v => s.closeWindow core v.block pc) s)

/-- SPARSE_POUR_STEP (10 R233): the next step but the last, which delivers with the instruction's issue. -/
def execSparsePourStep (warp : Nat) (s : State) : Out :=
  .next (s.onWarp warp (fun w =>
    if w.mstep.active && decide (w.mstep.done + 1 < w.mstep.total) then
      { w with mstep := { w.mstep with done := w.mstep.done + 1 }, steps := w.steps + 1 }
    else w))

/-! ### The shadow (11 R245, R246) -/

/-- SHADOW_COMPARE: the operation that the shadow has reached is compared with the first that it has to reach. Equal, it is released: its accesses may be performed, or its
gang performs it (R245); anything else is a mismatch (R246). -/
def execShadowCompare (warp : Nat) (s : State) : Out :=
  match s.warpOf warp, s.shadowOf warp with
  | some w, some v =>
    match v.offer, w.trail.find? Trail.keyed with
    | some d, some h =>
      if h.compared != some d then .next (s.mismatch warp h.quads)
      else
        .next (((s.onWarp warp (fun w =>
          { w with
            trail := changeFirst Trail.keyed (fun h => { h with released := true }) w.trail,
            pending := w.pending.map (fun b => if h.seq != 0 && b.seq == h.seq then { b with held := false } else b),
            agreed := if h.seq == 0 then w.agreed ++ [h.quads] else w.agreed })).onShadow warp (fun v => { v with offer := none })).settle warp)
    | _, _ => .next s
  | _, _ => .next s

/-! ### `malloc` (17 R361) -/

/-- The banks that a request receives: the lowest free ones, or the lowest even pairs. -/
def grantOf (free : BitVec 64) (n : Nat) (pair : Bool) : Option (BitVec 64) :=
  let ks := if pair then (bankNumbers free).filter (fun k => k % 2 == 0 && free.getLsbD (k + 1)) else bankNumbers free
  let m := if pair then n / 2 else n
  if ks.length < m then none
  else some ((ks.take m).foldl (fun v k => v ||| BitVec.ofNat 64 (2 ^ k) ||| (if pair then BitVec.ofNat 64 (2 ^ (k + 1)) else 0)) 0)

/-- MALLOC_GRANT: the head of the core's queue, when enough banks are free. -/
def execMallocGrant (core : Nat) (s : State) : Out :=
  match (s.coreOf core).mallocs with
  | [] => .next s
  | r :: rest =>
    match s.warpOf r.warp, grantOf (s.freeBanks core) r.n r.pair with
    | some w, some m =>
      let s := (bankNumbers m).foldl (fun s k => s.zeroBank core k) s
      let s := s.onBlock w.block (fun b => b.setBanks core (b.banksOn core ||| m))
      let s := s.onCore core (fun c => { c with mallocs := rest })
      let clk := (s.coreOf core).clk
      let wake (q : Quad) : Quad := if q.park == .malloc then { q with park := .running, readyAt := max q.readyAt clk } else q
      let s := s.putUnis w (w.aliveQuads.filter (fun q => (w.quad q).park == .malloc)) r.dst m.toNat 2
      .next ((s.onWarp r.warp (fun w => Warp.fillCompared 0x70 [(0, 0, BitVec.ofNat 32 m.toNat), (1, 0, BitVec.ofNat 32 (m.toNat / 2 ^ 32))]
        { w with quads := w.quads.map wake })).settle r.warp)
    | none, _ => .next (s.onCore core (fun c => { c with mallocs := rest }))
    | some _, none => .next s

/-! ### The stack cache (06 R127) -/

/-- STACK_WRITE_BACK: a line that the overrun buffer holds nothing of. -/
def execStackWriteBack (warp line : Nat) (s : State) : Out :=
  match s.warpOf warp with
  | none => .next s
  | some w =>
    .next (if w.lines.contains line && !w.pins line then s.writeBackLine warp line else s)

/-! ### Soft errors (11 R248, R249; 06 R134) -/

/-- An error in a register of a warp, or of its shadow: the device's choice (11 R243). -/
def State.hitReg (s : State) (warp : Nat) (e : RegError) : State :=
  let put (w : Warp) : Warp := { w with errors := if w.errors.contains e then w.errors else w.errors ++ [e] }
  if (s.shadowOf warp).isSome then
    let (k, s) := s.chooseNat
    if natBit k 0 then s.onShadow warp put else s.onWarp warp put
  else s.onWarp warp put

/-- SOFT_ERROR: a single-bit error is corrected, and a word of a bank group keeps either until it is read or written; a double-bit error
stays in its word. -/
def execSoftError (target : ErrTarget) (double : Bool) (s : State) : Out :=
  match target with
  | .bankWord id bank row =>
    .next { (s.soundAt id bank row) with
      bankErrors := (s.soundAt id bank row).bankErrors ++ [{ id, bank, row, double := double || s.doubleAt id bank row }] }
  | .icache core => .next (s.onCore core (fun c => { c with icache := [] }))
  | .vreg warp reg lane => .next (if double then s.hitReg warp { kind := .vec, reg, lane } else s)
  | .ureg warp reg => .next (if double then s.hitReg warp { kind := .uni, reg, lane := 0 } else s)
  | .pred warp p lane => .next (if double then s.hitReg warp { kind := .pred, reg := p, lane } else s)
  | .moldWord core bank word =>
    .next (if double then
        { s with badBankWords := Cells.put false s.badBankWords ((bankBase core bank) / 4 + word) true }
      else s)
  | .stackLine warp line =>
    .next (if double then
        s.onWarp warp (fun w => if w.lines.contains line && !w.badLines.contains line then { w with badLines := w.badLines ++ [line] } else w)
      else s)
  | .devLine line => .next (if double then { s with badLines := Cells.put false s.badLines line true } else s)

end Sys2Proof.Machine
end

