-- ==== Sys2Proof/Machine/Commands.lean ====
section
/-!
DEFINITION. The commands of the sprues as the engines perform, complete and fail them (07 R160; 08 R182 to R185; 20 R436, R437). An event
that is not enabled changes nothing.
-/
namespace Sys2Proof.Machine

/-! ### Performing -/

/-- An in-place transpose of which nothing has been read yet and every element lies in this package. -/
def RowWork.swaps (x : RowWork) : Bool :=
  x.got == [] && x.dsts.all (fun d => d.2.near)
    && x.accs.all (fun a => a.sent.isNone && a.write == [] && a.reads.all (fun e => e.2.near))

/-- One of the accesses that a begun command can perform next is performed: their order is the device's (07 R160). -/
def State.performNext (s : State) (core q : Nat) (x : Command) (pick : Nat) : State :=
  match x.work with
  | .save _ base captured image =>
    match x.works[pick]? with
    | some y => s.performSave core q base x captured image (y.rows.headD 0)
    | none => s
  | .copy kind _ _ _ _ _ _ _ =>
    match x.next[pick]? with
    | none => s
    | some (i, k) =>
      match x.works[i]? with
      | none => s
      | some y =>
        if kind == .cpt true && y.swaps then s.transpose core q x y
        else match y.accs[k]? with | some a => s.performAccess core q x y a | none => s
  | _ => s

/-- COPY_PERFORM: the head command of a sprue issues its accesses, once what its warps issued before it has been performed (07 R159, R160); then one of these is
performed, the `pick / 8`-th of those that can be, in the sprue `pick % 8`. -/
def execCopyPerform (core pick : Nat) (s : State) : Out :=
  let s := s.admitCpcs
  let sprue := pick % 8
  match s.sprue core sprue with
  | [] => .next s
  | x :: _ =>
    if x.done || x.fault.isSome then .next s
    else if x.begun then .next ((s.performNext core sprue x (pick / 8)).settleQwaits core)
    else if !s.orderedBefore x.after then .next s
    else
      match x.work with
      | .copy _ _ _ _ _ _ _ _ => .next ((s.beginCopy core sprue x).settleQwaits core)
      | .save _ _ captured image => .next (s.beginSave x captured image)
      | _ => .next s

/-! ### Ending -/

/-- Every entry of a `qfence` on a core is at the head of its sprue (07 R160). -/
def State.fenceMet (s : State) (core mark : Nat) : Bool :=
  let isMark (x : Command) : Bool := match x.work with | .qfence m => m == mark | _ => false
  (s.coreOf core).sprues.all (fun q => !q.any isMark || match q with | x :: _ => isMark x | [] => true)

/-- The warp of a command has exited, which a warp of a saved block has not (08 R185). -/
def State.exitedWarp (s : State) (x : Command) : Bool :=
  match s.warpOf x.warp with
  | some w => w.ended
  | none => !s.saved.any (fun b => b.warps.any (fun w => w.uid == x.warp))

/-- A completed command acts on its routes and leaves its sprue (R182, R183). -/
def State.retire (s : State) (core q : Nat) (x : Command) : State :=
  let s := s.actRoutes x.routes x.block x.rowsDone x.bytes
  let s := if x.routes.record then s.post (coreDie core) (s.cmdRecord core q x) else s
  (((s.onSprue core q (fun l => l.drop 1)).settleQwaits core).settle x.warp)

/-- COMMAND_COMPLETION: the head of a sprue ends, once its accesses and held writes are complete; with route 3 and a full ring it waits. A
fault whose warp has exited ends by discard. -/
def execCommandCompletion (core sprue : Nat) (s : State) : Out :=
  match s.sprue core sprue with
  | [] => .next s
  | x :: _ =>
    match x.work with
    | .qfence mark =>
      if !s.fenceMet core mark then .next s
      else
        let s := s.onCore core (fun c =>
          { c with sprues := c.sprues.map (fun q => q.filter (fun x => match x.work with | .qfence m => m != mark | _ => true)) })
        .next (s.settleQwaits core)
    | _ =>
      if x.fault.isSome then
        if s.exitedWarp x then .next ((s.discardHead core sprue true).getD s) else .next s
      else if !x.done then .next s
      else if x.routes.record && s.ringFull (coreDie core) then .next s
      else .next (s.retire core sprue x)

/-- COPY_FAULT_TIMEOUT (R185): 1,024 heartbeats after its fault was recorded, the warp of a command takes the trap, unparked if need be. -/
def execCopyFaultTimeout (core sprue : Nat) (s : State) : Out :=
  match s.sprue core sprue with
  | [] => .next s
  | x :: _ =>
    match x.fault, s.warpOf x.warp with
    | some f, some w =>
      if f.told || w.ended || (s.hb - f.since).toNat < 1024 || w.realLanes == 0 then .next s
      else
        let s := (s.tellFault core sprue).unpark x.warp
        match s.warpOf x.warp with
        | some v => .next ((s.takeTrapOf true x.warp (v.commandTrap (v.quad (v.handlerQuads.headD 0)).path.pc.toNat f)).settle x.warp)
        | none => .next s
    | _, _ => .next s

/-! ### Collectives (20 R436, R437) -/

/-- A member of a collective that waits at the head of a sprue of this package. -/
structure CollMember where
  core   : Nat
  sprue  : Nat
  cmd    : Command
  op     : Nat
  ty     : BitVec 5
  record : Nat
  src    : Nat
  dst    : Nat
  npart  : Nat
  rank   : Nat
  bytes  : Nat
deriving DecidableEq, Repr

/-- The members of this package whose operation has a key and an index. -/
def State.members (s : State) (key index : Nat) : List CollMember :=
  s.cores.flatMap (fun c =>
    [0, 1, 2, 3, 4, 5, 6, 7].filterMap (fun q =>
      match c.sprues.getD q [] with
      | x :: _ =>
        match x.work with
        | .coll op ty record src dst k npart rank bytes _ i _ =>
          if k == key && i == index && !x.done && x.fault.isNone && s.orderedBefore x.after then
            some { core := c.id, sprue := q, cmd := x, op, ty, record, src, dst, npart, rank, bytes }
          else none
        | _ => none
      | [] => none))

/-- One element combined with another: `a` is of the lower rank. -/
def collElem (op t a b : Nat) : Nat :=
  let float := (setFS ++ setFD).contains t
  match op with
  | 0 => if float then (faddElem t { mode := 0, rb := 0, sat := .no, ftz := false } false a b).1 else (a + b) % 2 ^ tyWidth t
  | 1 => if float then (fminElem t false false false a b).1 else if elemInt t b < elemInt t a then b else a
  | 2 => if float then (fminElem t false true false a b).1 else if elemInt t a < elemInt t b then b else a
  | _ => a

/-- Neighbours combined: one level of the tree; an absent child leaves the other unchanged. -/
def combinePairs (f : Nat → Nat → Nat) : List Nat → List Nat
  | a :: b :: l => f a b :: combinePairs f l
  | l => l

/-- The root of the tree over the ranks. -/
def combineTree (f : Nat → Nat → Nat) : Nat → List Nat → Nat
  | 0, l => l.headD 0
  | n + 1, l => combineTree f n (combinePairs f l)

/-- The result: every element of the members' data, in rank order. -/
def combineAll (op t : Nat) (data : List (List Byte)) : Nat → Nat → List Byte
  | _, 0 => []
  | off, n + 1 =>
    let k := max 1 (tyWidth t / 8)
    leBytes k (combineTree (collElem op t) 12 (data.map (fun d => leAt d off k))) ++ combineAll op t data (off + k) n

/-- The unit that acts for a member. -/
def CollMember.asker (m : CollMember) : Asker := .engine m.cmd.uid

/-- The sources of members read: what each gave, or what it records. -/
def State.readMembers (s : State) : List CollMember → State × List (CollMember × Except Bad (List Byte))
  | [] => (s, [])
  | m :: ms =>
    let (s, r) := s.readRange m.asker m.core m.cmd.ctx m.src m.bytes
    let (s, rs) := State.readMembers s ms
    (s, (m, r) :: rs)

/-- The result written to members, with their SEQ advanced; the first that cannot be written, and what it records. -/
def State.writeMembers (s : State) (result : List Byte) (seq : Nat) : List CollMember → State × Option (CollMember × Bad)
  | [] => (s, none)
  | m :: ms =>
    match s.writeRange m.asker m.core m.cmd.ctx m.dst result with
    | (s, some e) => (s, some (m, e))
    | (s, none) =>
      match s.writeRange m.asker m.core m.cmd.ctx (m.record + 24) (leBytes 8 (seq + 1)) with
      | (s, some e) => (s, some (m, e))
      | (s, none) => State.writeMembers s result seq ms

/-- A member records a fault. -/
def State.memberFault (s : State) (m : CollMember) (e : Bad) : State :=
  let (f, s) := (s.taken m.asker).cmdFault m.sprue e
  (s.onHead m.core m.sprue (fun x => { x with fault := some f })).settleQwaits m.core

/-- What a member meets: it asks for the bytes of another package, or records it. -/
def State.memberMeets (s : State) (m : CollMember) (e : Bad) : State := if e.later then s.askFor m.asker e else s.memberFault m e

/-- A member as a peer sees it. -/
def CollMember.peer (m : CollMember) (data : List Byte) : CollPeer := { rank := m.rank, op := m.op, ty := m.ty, bytes := m.bytes, data }

/-- The collective of some members: `all` in rank order. -/
def State.collective (s : State) (ms : List CollMember) (all : List CollPeer) (op t bytes index : Nat) : State :=
  if all.any (fun p => p.op != op || p.ty.toNat != t || p.bytes != bytes) then
    ms.foldl (fun s m => s.memberFault m ⟨0x12, none, some (6 * 2 ^ 24)⟩) s
  else
    let result := combineAll op t (all.map (fun p => p.data)) 0 (bytes / max 1 (tyWidth t / 8))
    match s.writeMembers result index ms with
    | (_, some (m, e)) => s.memberMeets m e
    | (s, none) =>
      ms.foldl (fun s m => (s.taken m.asker).onHead m.core m.sprue (fun x => { x with done := true, bytes := x.bytes + bytes })) s

/-- COLL_COMPLETE: when a member of every rank is there, on this package or as a peer. -/
def execCollComplete (core sprue : Nat) (peers : List CollPeer) (s : State) : Out :=
  match s.sprue core sprue with
  | [] => .next s
  | x :: _ =>
    match x.work with
    | .coll op ty _ _ _ key npart _ bytes _ index _ =>
      let ms := s.members key index
      if !ms.any (fun m => m.core == core && m.sprue == sprue) then .next s
      else
        let (s, rs) := s.readMembers ms
        let bad := rs.filterMap (fun r => match r.2 with | .error e => some (r.1, e) | .ok _ => none)
        let all := peers ++ rs.filterMap (fun r => match r.2 with | .ok d => some (r.1.peer d) | .error _ => none)
        let ranked := (List.range npart).map (fun k => all.find? (fun p => p.rank == k))
        if bad != [] then .next (bad.foldl (fun s b => s.memberMeets b.1 b.2) s)
        else if ranked.any (fun p => p.isNone) then .next s
        else .next (s.collective ms (ranked.filterMap (fun p => p)) op ty.toNat bytes index)
    | _ => .next s

/-- COLL_TIMEOUT: no response within TIMEOUT. TINFO names the package of the lowest rank that is not here. -/
def execCollTimeout (core sprue : Nat) (s : State) : Out :=
  match s.sprue core sprue with
  | [] => .next s
  | x :: _ =>
    match x.work with
    | .coll _ _ record _ _ key npart _ _ timeout index since =>
      if x.done || x.fault.isSome || timeout == 0 || (s.hb - since).toNat < 1024 * timeout then .next s
      else
        let here := (s.members key index).map (fun m => m.rank)
        let missing := ((List.range npart).find? (fun r => !here.contains r)).getD 0
        let who : Asker := .engine x.uid
        let entry (s : State) : Except Bad Nat :=
          match (s.readRange who core x.ctx (record + 16) 8).2 with
          | .error e => .error e
          | .ok l => match (s.readRange who core x.ctx (leAt l 0 8 + 4 * missing) 4).2 with | .ok e => .ok (leAt e 0 4) | .error e => .error e
        match entry s with
        | .error e =>
          if e.later then .next (s.askFor who e)
          else
            let (f, s) := (s.taken who).cmdFault sprue ⟨0x1C, none, fabricInfo 0 0 2 0xFF⟩
            .next ((s.onHead core sprue (fun x => { x with fault := some f })).settleQwaits core)
        | .ok entry =>
          let pkg := BitVec.ofNat 10 (entry / 4)
          let port := match s.routeTo pkg 0 with | .ok p => p | .error _ => 0xFF
          let (f, s) := (s.taken who).cmdFault sprue ⟨0x1C, none, fabricInfo pkg 0 2 port⟩
          .next ((s.onHead core sprue (fun x => { x with fault := some f })).settleQwaits core)
    | _ => .next s

end Sys2Proof.Machine
end

