-- ==== Sys2Proof/Machine/Paths.lean ====
section
/-!
DEFINITION. Divergence: what a branch, a path end, an `rgang` step and a counted loop do to the path of one quad (05 R103, R104,
R107; 18 R382).
-/
namespace Sys2Proof.Machine

/-- The code address of a PCW field. -/
def pcwPc (w : BitVec 53) : BitVec 55 := BitVec.ofNat 55 (w.toNat * 4)

/-- The PCW field of a code address. -/
def pcPcw (pc : BitVec 55) : BitVec 53 := BitVec.ofNat 53 (pc.toNat / 4)

/-- An entry that still has a living pending path. -/
def StackEntry.pends (e : StackEntry) (living : BitVec 4) : Bool := e.kind == .pending && e.pmask &&& living != 0

/-- Branch (05 R103): the path after a branch of `taken` lanes, or none when the stack has no room. -/
def Path.branch (p : Path) (next target : BitVec 55) (taken : BitVec 4) (fair : Bool) : Option Path :=
  if taken == p.active then
    match p.stack with
    | e :: rest =>
      if fair && e.pends p.living then
        some { p with
          pc := pcwPc e.pcw, active := e.pmask &&& p.living,
          stack := { e with pmask := p.active, pcw := pcPcw target } :: rest }
      else some { p with pc := target }
    | [] => some { p with pc := target }
  else if taken == 0 then some { p with pc := next }
  else if p.stack.length ≥ 16 then none
  else
    some { p with
      pc := target, active := taken,
      stack := { kind := .pending, pmask := p.active &&& ~~~taken, jmask := p.active, pcw := pcPcw next } :: p.stack }

/-- PathEnd over the entries of the stack (05 R104). `len` is 4: `join` and `exit` are one word long. -/
def pathEndFrom (p : Path) (pc : BitVec 55) (byExit : Bool) : List StackEntry → Path
  | [] => if byExit then { p with living := 0, stack := [] } else { p with pc := pc + 4, stack := [] }
  | e :: rest =>
    if e.pends p.living then
      { p with
        pc := pcwPc e.pcw, active := e.pmask &&& p.living,
        stack := { e with pmask := p.active, kind := if byExit then .exited else .joined, pcw := pcPcw pc } :: rest }
    else
      let p' := { p with active := e.jmask &&& p.living, stack := rest }
      if !byExit then { p' with pc := pc + 4 }
      else if e.kind == .joined then { p' with pc := pcwPc e.pcw + 4 }
      else pathEndFrom p' pc byExit rest

/-- PathEnd (05 R104). -/
def Path.pathEnd (p : Path) (pc : BitVec 55) (byExit : Bool) : Path := pathEndFrom p pc byExit p.stack

/-- The step of `rgang` (05 R107): the path after it, and whether the quad has arrived. An entry of KIND 1 whose pending lanes
have all died is popped like one of KIND 2 or 3. -/
def Path.rgangStep (p : Path) : Path × Bool :=
  match p.stack with
  | [] => (p, true)
  | e :: rest =>
    if e.pends p.living then (p.pathEnd p.pc false, false)
    else ({ p with active := e.jmask &&& p.living, stack := rest }, true)

/-- `exit` of some lanes (18 R383): they leave the living mask; with no active lane left the path ends. -/
def Path.exit (p : Path) (lanes : BitVec 4) : Path :=
  let p' := { p with living := p.living &&& ~~~lanes, active := p.active &&& ~~~lanes }
  if p'.active == 0 then p'.pathEnd p.pc true else { p' with pc := p.pc + 4 }

/-- Loop (18 R382) for the lanes that stay: the path after it, or none when the stack has no room. -/
def Path.loop (p : Path) (next target : BitVec 55) (stay : BitVec 4) : Option Path :=
  let leave := p.active &&& ~~~stay
  match p.stack with
  | e :: rest =>
    if e.kind == .pending && e.pcw == pcPcw next then
      if stay == 0 then some { p with pc := next, active := e.jmask &&& p.living, stack := rest }
      else some { p with pc := target, active := stay, stack := { e with pmask := e.pmask ||| leave } :: rest }
    else if leave == 0 then some { p with pc := target }
    else if stay == 0 then some { p with pc := next }
    else if p.stack.length ≥ 16 then none
    else
      some { p with
        pc := target, active := stay,
        stack := { kind := .pending, pmask := leave, jmask := p.active, pcw := pcPcw next } :: p.stack }
  | [] =>
    if leave == 0 then some { p with pc := target }
    else if stay == 0 then some { p with pc := next }
    else
      some { p with
        pc := target, active := stay,
        stack := [{ kind := .pending, pmask := leave, jmask := p.active, pcw := pcPcw next }] }

/-- A branch target (18 R379, 12 R273): its cause when it is out of range or misaligned. -/
def targetOf (t : Int) : Except Nat (BitVec 55) :=
  if t < 0 || t ≥ (2 ^ 55 : Nat) then .error 0x05
  else if t % 4 != 0 then .error 0x04
  else .ok (BitVec.ofNat 55 t.toNat)

end Sys2Proof.Machine
end

