-- ==== Sys2Proof/Machine/Control.lean ====
section
/-!
DEFINITION. Control flow: opcodes 0x00 to 0x0E (18 R377 to R388; 05 R103, R104, R107, R110, R113). Each acts on every quad of the
issuing gang; a fault in one quad leaves that quad before the instruction.
-/
namespace Sys2Proof.Machine

/-- What a control instruction does to one quad: its path and whether it parks, or a fault in some of its lanes. -/
inductive QuadOut where
  | go (path : Path) (park : Park)
  | fault (lanes : LaneMask) (cause : Nat) (addr info : Option Nat)
deriving DecidableEq, Repr

/-- The faults of some quads that lanes other than helper lanes raise (05 R116). -/
def realFaults (helper : LaneMask) (outs : List (Nat × QuadOut)) : List (LaneMask × Nat × Option Nat × Option Nat) :=
  outs.filterMap (fun o =>
    match o.2 with
    | .fault lanes cause addr info => if lanes &&& ~~~helper == 0 then none else some (lanes &&& ~~~helper, cause, addr, info)
    | .go _ _ => none)

/-- A quad that went on, or one whose fault is ignored because only helper lanes raise it. -/
def QuadOut.passes (helper : LaneMask) : QuadOut → Bool
  | .go _ _ => true
  | .fault lanes _ _ _ => lanes &&& ~~~helper == 0

/-- The path and park of a quad after the instruction; an ignored fault only advances it. -/
def QuadOut.apply (helper : LaneMask) (len : Nat) (o : QuadOut) (q : Quad) : Quad :=
  match o with
  | .go path park => { q with path, park }
  | .fault lanes _ _ _ =>
    if lanes &&& ~~~helper == 0 then { q with path := { q.path with pc := q.path.pc + BitVec.ofNat 55 len } } else q

/-- The lanes of the quads whose fault is ignored. -/
def ignoredLanes (helper : LaneMask) (outs : List (Nat × QuadOut)) : LaneMask :=
  outs.foldl (fun m o => match o.2 with | .fault lanes _ _ _ => if lanes &&& ~~~helper == 0 then m ||| lanes else m | .go _ _ => m) 0

/-- What a control instruction does beside the paths: the registers that the quads that went on write, and what else becomes of the warp. -/
structure After where
  write : Ctx → List Nat → Regs → Regs
  post  : Ctx → List Nat → Warp → Warp

/-- A control instruction: `f` gives what each quad does, `after` the rest. The destination of lanes whose fault is ignored receives zero (05 R116). -/
def quadEffect (f : Ctx → Nat → QuadOut) (after : After) (s : State) (c : Ctx) : Done :=
  let outs := c.quads.map (fun q => (q, f c q))
  let passed := outs.filter (fun o => o.2.passes c.warp.helper)
  let went := passed.map (fun o => o.1)
  let gone := (passed.filter (fun o => match o.2 with | .go _ _ => true | .fault _ _ _ _ => false)).map (fun o => o.1)
  let clk := (s.coreOf c.core).clk
  let (s, new) := settleRegs s c (c.zeroRegs (ignoredLanes c.warp.helper outs) (after.write c gone c.warp.regs))
  let s := s.onWarp c.warp.uid (fun w =>
    let w := outs.foldl (fun w o => w.onQuad o.1 (o.2.apply c.warp.helper c.len)) w
    let w := chargeQuads w went clk c.x.stall.toNat (latency c.warp c.op c.x) (writeRegs c.op c.x c.form) c.warp.regs
    after.post c went { w with regs := new, retired := w.retired + 1, offered := false })
  match realFaults c.warp.helper outs with
  | [] => .ok (s.settle c.warp.uid)
  | (_, cause, addr, info) :: fs =>
    let mask := fs.foldl (fun m t => m ||| t.1) ((realFaults c.warp.helper outs).headD (0, 0, none, none)).1
    .trap (s.noteRest c went) c.warp.uid (Trap.of cause mask c.pc.toNat addr info)

/-- A control instruction as a step of the machine. -/
def control (o : Op) (f : Ctx → Nat → QuadOut) (after : After) (x : Fields) (s : State) : Out :=
  issue (quadEffect f after) o x s

/-- Nothing beside the paths; registers alone; the warp alone. -/
def After.none : After := { write := fun _ _ r => r, post := fun _ _ w => w }
def After.regs (write : Ctx → List Nat → Regs → Regs) : After := { After.none with write }
def After.warp (post : Ctx → List Nat → Warp → Warp) : After := { After.none with post }

/-- Every lane of some quads. -/
def quadLanes (qs : List Nat) : LaneMask := qs.foldl (fun m q => m ||| quadMask 0xF q) 0

/-! ### Branches (18 R379) -/

/-- The path of a quad, and its lanes that take the branch. -/
def Ctx.path (c : Ctx) (q : Nat) : Path := (c.warp.quad q).path
def Ctx.taken (c : Ctx) (q : Nat) : BitVec 4 := quadBits c.lanes q

/-- BranchOp: the target is that of the lowest taken lane. -/
def branchOp (target : Ctx → Nat → Int) (fair : Bool) (c : Ctx) (q : Nat) : QuadOut :=
  let p := c.path q
  let taken := c.taken q
  let lanes := quadMask taken q
  match lowestLane lanes with
  | none => .go { p with pc := c.next } .running
  | some l0 =>
    match targetOf (target c l0) with
    | .error cause => .fault lanes cause none none
    | .ok t =>
      match p.branch c.next t taken fair with
      | none => .fault lanes 0x1B none (some 1)
      | some p' => .go p' .running

/-- PC + SignExtend(I) (18 R378). -/
def Ctx.relative (c : Ctx) (_ : Nat) : Int := (c.pc.toNat : Int) + signed 32 c.x.i.toNat

/-- BRA. -/
def execBra (x : Fields) (s : State) : Out := control .bra (branchOp Ctx.relative false) After.none x s

/-- BRA_FAIR (18 R381). -/
def execBraFair (x : Fields) (s : State) : Out := control .braFair (branchOp Ctx.relative true) After.none x s

/-- The window of an address opens when the first quad of the block parks there (05 R110). -/
def State.openWindow (s : State) (core block : Nat) (pc : BitVec 55) : State :=
  s.onCore core (fun c =>
    if c.windows.any (fun w => w.block == block && w.pc == pc) then c
    else { c with windows := c.windows ++ [{ block, pc, opened := c.clk }] })

/-- A quad parks in the window of its `bra.pack`. -/
def packOp (c : Ctx) (q : Nat) : QuadOut :=
  match branchOp Ctx.relative false c q with
  | .go p _ => .go p (.packing c.pc)
  | r => r

/-- Quads are packed (05 R112). -/
def packed (qs : List Nat) (w : Warp) : Warp := w.onQuads qs (fun q => { q with packed := true })

/-- BRA_PACK (05 R110, R112): every quad that went on is packed, and parks in the window whether its branch was taken or not; in a handler
it acts as `bra` (18 R381). A shadow follows its leading warp out of the window. -/
def execBraPack (x : Fields) (s : State) : Out :=
  issue
    (fun s c =>
      if c.warp.inTrap then quadEffect (branchOp Ctx.relative false) After.none s c
      else if c.trail.isSome then quadEffect (branchOp Ctx.relative false) (After.warp (fun _ qs w => packed qs w)) s c
      else
        let parks := c.quads.any (fun q => match packOp c q with | .go _ _ => true | .fault _ _ _ _ => false)
        quadEffect packOp (After.warp (fun _ qs w => packed qs w)) (if parks then s.openWindow c.core c.warp.block c.pc else s) c)
    .braPack x s

/-- BRX: the pair A of the lowest taken lane. -/
def execBrx (x : Fields) (s : State) : Out := control .brx (branchOp (fun c l => (c.a l : Int)) false) After.none x s

/-- The link of CALL in the taken lanes of the quads that went on. -/
def linkWrite (c : Ctx) (qs : List Nat) (r : Regs) : Regs := r.applyLanes (c.lanes &&& quadLanes qs) (fun _ => c.toD c.next.toNat)

/-- CALL (18 R380). -/
def execCall (x : Fields) (s : State) : Out := control .call (branchOp Ctx.relative false) (After.regs linkWrite) x s

/-- RET: the vector pair D of the lowest taken lane. -/
def execRet (x : Fields) (s : State) : Out := control .ret (branchOp (fun c l => (c.d 2 l : Int)) false) After.none x s

/-! ### Loops (18 R382) -/

/-- The counter of a lane after `loop`. -/
def Ctx.counter (c : Ctx) (l : Nat) : Nat := let v := c.d 1 l; if c.lanes.getLsbD l && v != 0 then v - 1 else v

/-- The lanes of a quad that stay in the loop. -/
def Ctx.stay (c : Ctx) (q : Nat) : BitVec 4 := quadBits (maskOf (fun l => c.lanes.getLsbD l && c.counter l != 0)) q

/-- Loop on one quad. -/
def loopOp (c : Ctx) (q : Nat) : QuadOut :=
  let p := c.path q
  let stay := c.stay q
  let lanes := quadMask stay q
  match targetOf (c.relative 0) with
  | .error cause => if stay != 0 then .fault lanes cause none none else
    match p.loop c.next c.next stay with
    | none => .fault lanes 0x1B none (some 1)
    | some p' => .go p' .running
  | .ok t =>
    match p.loop c.next t stay with
    | none => .fault lanes 0x1B none (some 1)
    | some p' => .go p' .running

/-- The counters of the active lanes of the quads that went on. -/
def loopWrite (c : Ctx) (qs : List Nat) (r : Regs) : Regs := r.applyLanes (c.active &&& quadLanes qs) (fun l => c.toD (c.counter l))

/-- LOOP. -/
def execLoop (x : Fields) (s : State) : Out := control .loop loopOp (After.regs loopWrite) x s

/-! ### Path ends and re-ganging -/

/-- Accesses of a quad that a `join` or `rgang` orders: those issued deeper than the depth it leaves (07 R151). -/
def endDiverge (seq : Nat) (before after : Warp) (q : Nat) (a : Access) : Access :=
  if a.quad == q && (after.quad q).path.stack.length < (before.quad q).path.stack.length
      && (after.quad q).path.stack.length < a.depth && a.ended.isNone then
    { a with ended := some seq }
  else a

/-- The divergences that some quads ended are noted in what the warp has pending. -/
def endedPost (seq : Nat) (c : Ctx) (qs : List Nat) (w : Warp) : Warp :=
  { w with pending := w.pending.map (fun a => qs.foldl (fun a q => endDiverge seq c.warp w q a) a) }

/-- EXIT (18 R383). A shadow reaches it in the order in which its leading warp did (11 R246). -/
def execExit (x : Fields) (s : State) : Out :=
  issue
    (fun s c =>
      let go := quadEffect (fun c q => .go ((c.path q).exit (c.taken q)) .running)
        (After.warp (fun c _ w => { w with exited := w.exited ||| (c.lanes &&& ~~~w.absent) }))
      match c.trail with
      | none => go s c
      | some _ =>
        let due := match (s.shadowOf c.warp.uid).bind (fun w => w.trail.find? Trail.keyed) with
          | some h => h.exits && h.quads == quadSet c.quads
          | none => false
        if due then go (s.onTrail c.warp.uid (popThrough Trail.keyed)) c else .differ s)
    .exit x s

/-- JOIN (18 R384). -/
def execJoin (x : Fields) (s : State) : Out :=
  issue
    (fun s c =>
      let (k, s) := s.newUid
      quadEffect (fun c q => .go ((c.path q).pathEnd c.pc false) .running) (After.warp (endedPost k)) s c)
    .join x s

/-- The step of `rgang` on a quad: one that has arrived parks with its counter after the instruction. -/
def rgangOp (park : Park) (c : Ctx) (q : Nat) : QuadOut :=
  match (c.path q).rgangStep with
  | (p, true) => .go { p with pc := c.next } park
  | (p, false) => .go p .running

/-- The path that a parked quad held before its `rgang` (18 R394). -/
def rgangPost (seq : Nat) (c : Ctx) (qs : List Nat) (w : Warp) : Warp :=
  let w := endedPost seq c qs w
  qs.foldl
    (fun w q => w.onQuad q (fun x => if x.park == .rgang || x.park == .rgangHome then { x with before := some (c.path q) } else x)) w

/-- RGANG (05 R107). -/
def execRgang (x : Fields) (s : State) : Out :=
  issue (fun s c => let (k, s) := s.newUid; quadEffect (rgangOp .rgang) (After.warp (rgangPost k)) s c) .rgang x s

/-- RGANG_HOME (05 R113). -/
def execRgangHome (x : Fields) (s : State) : Out :=
  issue (fun s c => let (k, s) := s.newUid; quadEffect (rgangOp .rgangHome) (After.warp (rgangPost k)) s c) .rgangHome x s

/-! ### Waiting, traps and regions -/

/-- NOP (18 R388). -/
def execNop (x : Fields) (s : State) : Out := issue (fun s c => .ok (finishWarp s c true)) .nop x s

/-- The warp slots of a sequencer, other than one, that hold a ready gang (18 R388). -/
def State.readySlots (s : State) (core slot : Nat) : List Nat :=
  (((s.picks core (slot % hiddenSlot / 16)).map (fun p => p.slot)).eraseDups).filter (fun k => k != slot)

/-- YIELD (18 R388): with no other ready slot it lasts one clock. -/
def execYield (x : Fields) (s : State) : Out :=
  issue
    (warpEffect (fun s c =>
      let slots := if c.trail.isSome then [] else s.readySlots c.core (match s.cur with | some k => k.slot | none => c.warp.slot)
      let s := finishWarp s c true
      .ok (if slots == [] then s
           else s.onWarp c.warp.uid (fun w => w.onQuads c.quads (fun q => { q with park := .yield slots 16 })))))
    .yield x s

/-- SLEEP (18 R388). -/
def execSleep (x : Fields) (s : State) : Out :=
  issue
    (warpEffect (fun s c =>
      let n := c.b 0
      let wake := (s.coreOf c.core).clk + n + 1
      let s := finishWarp s c true
      .ok (if n == 0 || c.trail.isSome then s
           else s.onWarp c.warp.uid (fun w => w.onQuads c.quads (fun q => { q with park := .sleep, readyAt := max q.readyAt wake })))))
    .sleep x s

/-- `trap` and `bkpt` (18 R386): the quads record the address after the instruction. -/
def trapEffect (cause : Nat) (s : State) (c : Ctx) : Done :=
  let s := finishWarp s c true
  if c.real == 0 then .ok s
  else .trap (s.noteRest c (c.quads.filter (fun q => quadBits c.real q == 0))) c.warp.uid (Trap.of cause c.real c.pc.toNat (some 0) c.x.d.toNat)

/-- TRAP. -/
def execTrap (x : Fields) (s : State) : Out := issue (trapEffect 0x18) .trap x s

/-- BKPT. -/
def execBkpt (x : Fields) (s : State) : Out := issue (trapEffect 0x17) .bkpt x s

/-- REGION (11 R240). -/
def execRegion (x : Fields) (s : State) : Out :=
  issue
    (fun s c =>
      let valid := c.quads == c.warp.aliveQuads && c.quads.all (fun q => (c.path q).stack == [] && !(c.warp.quad q).packed)
      .ok ((finishWarp s c true).onWarp c.warp.uid (fun w => { w with region := regionAt c.next valid, rcount := 0 })))
    .region x s

/-- TRET (05 R122, 18 R387). -/
def execTret (x : Fields) (s : State) : Out :=
  issue (fun s c => .ok ((finishWarp s c false).returnFromTrap c.warp.uid)) .tret x s

end Sys2Proof.Machine
end

