-- ==== Sys2Proof/Machine/Jrf.lean ====
section
/-!
DEFINITION. The command set of the die control cores (02 R25 to R43): taking a block, every command, signals, killing a context and
portable checkpoints.
-/
namespace Sys2Proof.Machine

/-! ### Windows and save time (03 R55, R58) -/

/-- The device-memory range of a window register pair, if it is in use. -/
def windowRange (w : BitVec 64 × BitVec 64) : Option (Nat × Nat) :=
  if bitAt w.1 63 && bitField w.1 61 2 == 0 then some (bitField w.1 16 24 * 65536, bitField w.2 0 24 * 65536) else none

/-- The end of a memory window that an address lies in. -/
def VDev.windowEnd (v : VDev) (pa : Nat) : Option Nat :=
  v.windows.findSome? (fun w => match windowRange w with | some (base, len) => if base ≤ pa && pa < base + len then some (base + len) else none | none => none)

/-- Every byte lies within a memory window of a device, in one or in several that join. -/
def VDev.covers (v : VDev) : Nat → Nat → Nat → Bool
  | 0, _, n => n == 0
  | fuel + 1, pa, n =>
    n == 0 || match v.windowEnd pa with
      | some e => decide (pa + n ≤ e) || VDev.covers v fuel e (pa + n - e)
      | none => false
def VDev.inWindow (v : VDev) (pa n : Nat) : Bool := v.covers v.windows.length pa n

/-- The clusters of a partition. -/
def clustersOf (d : PartDesc) : List Nat := (List.range 32).filter (fun k => bitAt d.guar k || bitAt d.margin k)

/-- A partition holds a cluster of a die. -/
def onDie (d : PartDesc) (die : Nat) : Bool := (clustersOf d).any (fun k => k / 8 == die)

/-- The worst-case save time in µs (R58). -/
def State.saveTime (s : State) (d : PartDesc) : Nat :=
  let n := 14 * (clustersOf d).length - (s.cores.filter (fun c => c.withdrawn && (clustersOf d).contains (coreCluster c.id))).length
  10 + ceilDiv (n * (9240576 + 64 * 37248)) (1000 * max 1 d.saveBw)

/-! ### Taking a block (R29 to R31) -/

/-- The body fields of a command: offset and bytes (Table 2-3). -/
def bodyFields (code : Nat) : List (Nat × Nat) :=
  match code with
  | 1 => [(0, 8), (8, 8), (16, 8), (24, 4), (28, 1), (29, 1)]
  | 3 => [(0, 8), (8, 8), (16, 8), (24, 2), (26, 1), (27, 1)]
  | 4 => [(0, 8), (8, 8)]
  | 5 => [(0, 8)]
  | 6 => [(0, 8), (8, 8), (16, 8), (24, 1), (25, 2), (27, 2)]
  | 7 => [(0, 2)]
  | 8 => [(0, 1), (1, 1), (8, 8), (16, 2), (24, 8), (32, 8), (40, 8)]
  | 10 => [(0, 8), (8, 4), (16, 8), (24, 8)]
  | 11 => [(0, 8), (8, 8), (16, 4)]
  | 12 => [(0, 1), (1, 1), (4, 4)]
  | 13 => [(0, 2), (8, 8), (16, 4)]
  | _ => []

/-- LEN of a command; none for an unassigned code. -/
def bodyLen (code : Nat) : Option Nat :=
  if code > 13 then none else if code == 0 || code == 2 || code == 9 then some 0 else some 64

/-- A body byte that the table does not name is not zero. -/
def bodyReserved (code : Nat) (body : List Byte) : Bool :=
  (List.range 64).any (fun i => leAt body i 1 != 0 && !(bodyFields code).any (fun f => f.1 ≤ i && i < f.1 + f.2))

/-- Codes that `sysc` may hand over (20 R434). -/
def syscCode (code op : Nat) : Bool := [0, 3, 4, 5, 6, 13].contains code || (code == 8 && (op == 3 || op == 4))

/-- The status of a block that is not started. -/
def blockStatus (hdr body : List Byte) (sysc : Bool) : Option Nat :=
  let code := leAt hdr 8 2
  let len := leAt hdr 12 4
  if leAt hdr 10 2 / 4 != 0 || leAt hdr 28 4 != 0 || leAt hdr 48 1 > 63 || !allZero ((hdr.drop 49).take 15)
      || (match bodyLen code with | some n => len != n | none => len != 0 && len != 64) then some stReserved
  else if (bodyLen code).isNone || (sysc && !syscCode code (leAt body 0 1)) then some stBadCode
  else if bodyReserved code body then some stReserved
  else if (code == 8 && leAt body 0 1 > 4) || (code == 13 && leAt body 0 2 > 5) then some stBadCode
  else none

/-- Commands taken earlier whose completion a block waits for: those of its queue with ORDER, those of the named queues for FENCE. -/
def State.waitsFor (s : State) (vd : Nat) (queue : Option Nat) (flags code mask : Nat) : List Nat :=
  (s.commands.filter (fun c =>
    c.vd == vd && c.queue.isSome
      && ((natBit flags 1 && c.queue == queue)
        || (code == 7 && (c.queue == queue || match c.queue with | some q => natBit mask q | none => false))))).map (fun c => c.uid)

/-- The word that operation 4 of SIGNAL_ON watches from the moment its block is taken (R35): the address is a virtual one of CTX (DESIGN CHOICE: log 75). -/
def State.watched (s : State) (die ctx : Nat) (body : List Byte) : Option (Nat × BitVec 64 × Bool) :=
  match (s.checkDev (dieCore die) ctx (leAt body 32 8) 8 .r).2 with
  | .error _ => none
  | .ok (key, remote) => some (key, BitVec.ofNat 64 (leAt body 40 8), remote.isNone && s.dev.read key 8 == leAt body 40 8)

/-- A `.sys` store of JRF (R29): one to another package enters the channel toward it, and JRF waits for no response. -/
def State.storeSys (s : State) (key n v : Nat) : State :=
  match keyRemote key with
  | none => s.storeDev key n v none
  | some pkg =>
    match s.routeTo pkg 0 with
    | .error _ => s
    | .ok _ =>
      let (k, s) := s.newUid
      s.send k 0 (Access.asked (.engine 0) true [{ addr := key, bytes := n, data := BitVec.ofNat 64 v, name := key, laid := 0 }]) pkg

/-- A block taken: STATE 1, TAKEN, and the checks of its header. One that fails them waits only for what ORDER names. -/
def State.takeBlock (s : State) (vd : Nat) (queue : Option (Nat × Nat)) (die key : Nat) (ctx : Option Nat) (hdr body : List Byte) : State :=
  let (uid, s) := s.newUid
  let q := queue.map (fun x => x.1)
  let code := leAt hdr 8 2
  let flags := leAt hdr 10 2
  let bad := blockStatus hdr body ctx.isSome
  let after := s.waitsFor vd q flags (if bad.isNone then code else 0) (leAt body 0 2)
  let on := ctx.getD (leAt hdr 24 4)
  let s := s.storeSys (key + 32) 4 1
  let s := match queue with | some x => s.storeDev (x.2 + 8) 8 key none | none => s
  { s with
    commands := s.commands ++
      [{ uid, vd, queue := q, die, block := key, code, flags, ctx := on, sigvec := leAt hdr 48 1, body, after, copied := 0,
         phase := if code == 7 then 1 else 0, watch := if code == 8 && leAt body 0 1 == 4 && bad.isNone then s.watched die on body else none,
         outcome := bad.map (fun st => (st, 0)) }] }

/-- The body of a block, which only LEN = 64 gives it (R27, R31). -/
def State.bodyAt (s : State) (key : Nat) : List Byte := if s.dev.read (key + 12) 4 == 64 then s.dev.bytes (key + 64) 64 else []

/-- QUEUE_TAKE: the next block of a queue in service, once it is linked. A link to what is no block of the device's windows is not taken (R27). -/
def execQueueTake (vd queue : Nat) (s : State) : Out :=
  match s.vdOf vd with
  | none => .next s
  | some v =>
    match v.queues[queue]? with
    | none => .next s
    | some q =>
      let tail := s.dev.read q.desc 8
      let taken := s.dev.read (q.desc + 8) 8
      let key := s.dev.read taken 8
      if !q.enable || v.pausing || v.paused.isSome || tail == taken || key == 0 || key % 64 != 0 || !v.inWindow key 64
          || !v.inWindow key (64 + (s.bodyAt key).length) then .next s
      else .next (s.takeBlock vd (some (queue, q.desc)) q.die key none (s.dev.bytes key 64) (s.bodyAt key))

/-! ### The frame of a command -/

def State.onCmd (s : State) (uid : Nat) (f : JrfCommand → JrfCommand) : State :=
  { s with commands := s.commands.map (fun c => if c.uid == uid then f c else c) }
def State.cmdOf (s : State) (uid : Nat) : Option JrfCommand := s.commands.find? (fun c => c.uid == uid)

/-- Tasks whose counters reached zero during a checkpoint become ready in order once none runs (R39). -/
def State.releaseZeroed (s : State) : State :=
  s.zeroed.foldl
    (fun s z =>
      match s.taskOf z.1 z.2 with
      | some t => if s.checkpointing t.ctx then s else State.makeReady { s with zeroed := s.zeroed.filter (fun y => y != z) } z.1 z.2
      | none => { s with zeroed := s.zeroed.filter (fun y => y != z) })
    s

/-- A command has its status and result. -/
def State.endCmd (s : State) (uid status result : Nat) : State :=
  (s.onCmd uid (fun c => { c with outcome := some (status, BitVec.ofNat 64 result), phase := max 1 c.phase })).releaseZeroed

/-- The command that a row acts on, when it may: blocks of a queue start in queue order (R29). -/
def State.running (s : State) (code : Nat) : Option (JrfCommand × VDev) :=
  match s.cmdOf s.focus with
  | none => none
  | some c =>
    let earlier := s.commands.filter (fun d => d.vd == c.vd && d.queue == c.queue && c.queue.isSome && d.uid < c.uid)
    if c.code != code || c.outcome.isSome || c.after.any (fun u => (s.cmdOf u).isSome)
        || (c.phase == 0 && earlier.any (fun d => d.phase == 0 && d.outcome.isNone)) then none
    else (s.vdOf c.vd).map (fun v => (c, v))

/-- The status that the trusted interface and the context give a command before it does anything (03 R68, R69; R38). -/
def State.barred (s : State) (c : JrfCommand) (v : VDev) : Option Nat :=
  let locked := match v.iface with
    | .error => c.code != 13
    | .locked => c.code != 0 && c.code != 13
    | _ => false
  if locked then some stLocked
  else if [1, 12, 13].contains c.code || (c.code == 0 && v.iface == .locked) then none
  else
    match s.ctxOf c.ctx with
    | none => some stNoContext
    | some x =>
      if x.vd != v.num then some stNoContext
      else if (x.killing || x.killed) && c.code != 2 && c.code != 9 then some stKilled
      else none

/-- A command row: `f` gives the status and result, or none while the command goes on. -/
def jrf (code : Nat) (f : State → JrfCommand → VDev → State × Option (Nat × Nat)) (s : State) : Out :=
  match s.running code with
  | none => .next s
  | some (c, v) =>
    match s.barred c v with
    | some st => .next (s.endCmd c.uid st 0)
    | none =>
      match f (s.noteWork c.ctx) c v with
      | (s, some (st, r)) => .next (s.endCmd c.uid st r)
      | (s, none) => .next (s.onCmd c.uid (fun c => { c with phase := max 1 c.phase }))

/-- The status that a failed check, read or write gives a command (R32): one of R20 is FABRIC, and a malformed shape record CONFIG. -/
def jrfStatus (e : Bad) : Nat := if e.cause == 0x1C then stFabric else if e.cause == 0x16 then stConfig else stFault

/-- The unit that acts for a command. -/
def JrfCommand.asker (c : JrfCommand) : Asker := .engine c.uid

/-- What a command comes to that meets something: it asks for the bytes of another package and goes on with the response, or has its status. -/
def State.cmdMeets (s : State) (c : JrfCommand) (t : State) (e : Bad) : State × Option (Nat × Nat) :=
  if e.later then (s.askFor c.asker e, none) else (t.taken c.asker, some (jrfStatus e, 0))

/-- A field of a command's body, by its offset in the block. -/
def JrfCommand.field (c : JrfCommand) (off n : Nat) : Nat := leAt c.body (off - 64) n

/-- RESULT, STATUS and STATE written, SIGVEC raised, and the command gone (R29). -/
def State.postCmd (s : State) (c : JrfCommand) (status : Nat) (result : BitVec 64) : State :=
  let s := s.storeSys (c.block + 40) 8 result.toNat
  let s := s.storeSys (c.block + 36) 4 status
  let s := s.storeSys (c.block + 32) 4 2
  let s := if natBit c.flags 0 then s.raiseVector c.vd c.sigvec else s
  { s with commands := s.commands.filter (fun d => d.uid != c.uid) }

/-- COMMAND_COMPLETE: once what it was ordered after has completed (R29). -/
def execCommandComplete (cmd : Nat) (s : State) : Out :=
  match s.cmdOf cmd with
  | none => .next s
  | some c =>
    match c.outcome with
    | some (st, r) => if c.after.any (fun u => (s.cmdOf u).isSome) then .next s else .next (s.postCmd c st r)
    | none => .next s

/-! ### The commands (R33) -/

/-- NOP. -/
def execNopCmd (s : State) : Out := jrf 0 (fun s _ _ => (s, some (stOk, 0))) s

/-- CREATE_CONTEXT. A page-table root that is misaligned or lies beyond package memory gives RESERVED, and one outside the device's windows is accepted (DESIGN CHOICE:
log 75). -/
def execCreateContext (s : State) : Out :=
  jrf 1
    (fun s c v =>
      let root := c.field 64 8
      let base := c.field 72 8
      let size := c.field 80 8
      let flags := c.field 93 1
      if c.field 92 1 > 7 || flags / 4 != 0 || root % 65536 != 0 || root ≥ paLimit then (s, some (stReserved, 0))
      else if base ≥ 2 ^ 55 || base + size > 2 ^ 55 then (s, some (stFault, 0))
      else if s.contexts.length ≥ Config.contextCapacity then (s, some (stNoResource, 0))
      else
        let (k, s) := s.chooseNat
        let id := s.lastCtx + 1 + k % 65536
        let x : Context :=
          { id, vd := v.num, root, saveBase := base, saveSize := size, watchdog := c.field 88 4, count := 0, maxPrio := c.field 92 1,
            castOk := natBit flags 0, pairedOk := natBit flags 1, killing := false, killed := false, retiredSum := 0, activeHb := s.hb }
        ({ s with contexts := s.contexts ++ [x], lastCtx := id }, some (stOk, id)))
    s

/-- DESTROY_CONTEXT. A context whose kill record is still to come gives BUSY (DESIGN CHOICE: log 75). -/
def execDestroyContext (s : State) : Out :=
  jrf 2
    (fun s c _ =>
      let mine (t : Task) : Bool := t.ctx == c.ctx
      let busy := s.tasks.any (fun t => mine t && t.ready) || (match s.ctxOf c.ctx with | some x => x.killing && !x.killed | none => false)
      if busy then (s, some (stBusy, 0))
      else
        let gone (a : Arm) : Bool :=
          match a with | .task _ die idx => s.tasks.any (fun t => mine t && t.die == die && t.idx == idx) | .word _ _ _ => false
        let s : State :=
          { s with
            vdevs := s.vdevs.map (fun v => { v with arms := v.arms.filter (fun a => !gone a) }), tasks := s.tasks.filter (fun t => !mine t),
            zeroed := s.zeroed.filter (fun z => match s.taskOf z.1 z.2 with | some t => !mine t | none => false) }
        let s := s.dropLeaves (fun l => l.ctx != c.ctx)
        ({ s with contexts := s.contexts.filter (fun x => x.id != c.ctx), tables := s.tables.filter (fun t => t.1 != c.ctx) }, some (stOk, 0)))
    s

/-! #### Page tables (06 Table 6-9) -/

/-- The address of the entry for an address at a level, following the table pointers above it. -/
def State.entryAt (s : State) (root va : Nat) (level : Nat) : Option Nat :=
  let idx (l : Nat) : Nat := natField va (if l == 1 then 42 else if l == 2 then 29 else 16) 13
  let next (at' : Nat) : Option Nat :=
    let e := BitVec.ofNat 64 (s.dev.read at' 8)
    if bitAt e 0 && !bitAt e 1 then some (bitField e 16 24 * 65536) else none
  match level with
  | 1 => some (root + 8 * idx 1)
  | 2 => (next (root + 8 * idx 1)).map (fun t => t + 8 * idx 2)
  | _ => ((next (root + 8 * idx 1)).bind (fun t => next (t + 8 * idx 2))).map (fun t => t + 8 * idx 3)

/-- A page for a new table: the highest granule of package memory that no partition holds and that no table uses. -/
def State.tablePage (s : State) : Option Nat :=
  ((List.range 4096).map (fun i => paLimit / 65536 - 1 - i)).find? (fun g =>
    !s.tables.any (fun t => t.2 == g) && !s.parts.any (fun p => p.desc.hbm.any (fun r => r.1 ≤ g && g < r.1 + r.2)))

/-- A zeroed table hung below an entry that has none. -/
def State.growTable (s : State) (ctx entry : Nat) : Option State :=
  if natBit (s.dev.read entry 8) 0 then some s
  else
    (s.tablePage).map (fun g =>
      let s := { s with tables := s.tables ++ [(ctx, g)], dev := s.dev.zero (65536 * g) 65536 }
      s.storeDev entry 8 (0x3FF * 2 ^ 40 + 65536 * g + 1) none)

/-- One page mapped; none when no table can be added. -/
def State.mapPage (s : State) (ctx root va leaf : Nat) (big : Bool) : Option State :=
  match (s.entryAt root va 1).bind (s.growTable ctx) with
  | none => none
  | some s =>
    if big then (s.entryAt root va 2).map (fun e => s.storeDev e 8 leaf none)
    else
      match (s.entryAt root va 2).bind (s.growTable ctx) with
      | none => none
      | some s => (s.entryAt root va 3).map (fun e => s.storeDev e 8 leaf none)

/-- Pages mapped in turn. -/
def State.mapPages (s : State) (ctx root va pa size attr : Nat) (big : Bool) : Nat → Option State
  | 0 => some s
  | n + 1 => (s.mapPage ctx root va (pa + attr) big).bind (fun s => State.mapPages s ctx root (va + size) (pa + size) size attr big n)

/-- A leaf for an address, with its level. -/
def State.leafAt (s : State) (root va : Nat) : Option Nat := match s.walk va 3 root 1 with | .ok (_, level) => some level | .error _ => none

/-- MAP. A range of another package's memory has no window of this device's to lie in: it is checked only against the frozen windows in RUN (03 R69), where it lies in none, and
is accepted otherwise (DESIGN CHOICE: log 75). -/
def execMap (s : State) : Out :=
  jrf 3
    (fun s c v =>
      let va := c.field 64 8
      let pa := c.field 72 8
      let len := c.field 80 8
      let pkg := c.field 88 2
      let big := c.field 90 1 == 1
      let size : Nat := if big then 2 ^ 29 else 65536
      let here := pkg == 0x3FF || pkg == s.pkg.toNat
      if pkg > 0x3FF || c.field 90 1 > 1 || c.field 91 1 > 7 then (s, some (stReserved, 0))
      else if v.iface == .run && !(here && v.inWindow pa len) then (s, some (stLocked, 0))
      else if va + len > 2 ^ 55 then (s, some (stFault, 0))
      else
        match s.ctxOf c.ctx with
        | none => (s, some (stNoContext, 0))
        | some x =>
          if va % size != 0 || pa % size != 0 || len % size != 0 || len == 0
              || (List.range (len / 65536)).any (fun i => (s.leafAt x.root (va + 65536 * i)).isSome) then (s, some (stConfig, 0))
          else if (here && !v.inWindow pa len) || pa + len > 2 ^ 40 then (s, some (stFault, 0))
          else
            match s.mapPages c.ctx x.root va pa size (pkg * 2 ^ 40 + 4 * c.field 91 1 + 3) big (len / size) with
            | none => (s, some (stNoResource, 0))
            | some s => (s, some (stOk, 0)))
    s

/-- A command has begun and touches a range of device addresses with what it has still to do: the accesses of a copy, or a feed some of whose entries have been read. -/
def Command.touches (x : Command) (va len : Nat) : Bool :=
  let at' (e : Elem) : Bool := e.space == .dev && overlap e.name 8 va len
  match x.work with
  | .feed _ base off count _ _ => off != 0 && !x.done && x.fault.isNone && overlap base (off + 16 * count) va len
  | _ => x.works.any (fun y =>
      y.dsts.any (fun d => at' d.2) || y.accs.any (fun a =>
        a.space == .dev && (a.reads.any (fun e => at' e.2) || a.write.any (fun c => overlap c.2.name 8 va len))))

/-- Copies, ladle feeds, atomics and held writes that translated through a range have not all been performed; an operation that an engine of the context has asked another package
for counts with them. -/
def State.rangeBusy (s : State) (ctx va len : Nat) : Bool :=
  let hit (a : Access) : Bool :=
    a.space == .dev && a.parts.any (fun p => overlap p.name p.bytes va len) && match a.kind with | .atom _ _ _ _ _ => true | _ => false
  s.warps.any (fun w => w.ctx == ctx && w.pending.any hit)
    || s.channels.any (fun o => match o.access.kind with
        | .ask (.engine k) _ => s.askerCtx (.engine k) == ctx
        | _ => hit o.access && match s.warpOf o.warp with | some w => w.ctx == ctx | none => false)
    || s.cores.any (fun c => c.sprues.any (fun q => q.any (fun x => x.ctx == ctx && x.touches va len)))
    || s.heldWrites.any (fun h => h.ctx == ctx)

/-- The mapping of every page in a range removed. -/
def State.unmapPages (s : State) (root va : Nat) : Nat → State
  | 0 => s
  | n + 1 =>
    let s := match s.leafAt root va with
      | some level => (match s.entryAt root va level with | some e => s.storeDev e 8 0 none | none => s)
      | none => s
    State.unmapPages s root (va + 65536) n

/-- UNMAP: it removes the mappings at once, and completes when what translated through them has been performed. -/
def execUnmap (s : State) : Out :=
  jrf 4
    (fun s c _ =>
      let va := c.field 64 8
      let len := c.field 72 8
      match s.ctxOf c.ctx with
      | none => (s, some (stNoContext, 0))
      | some x =>
        let part (i : Nat) : Bool :=
          let a := va + 65536 * i
          s.leafAt x.root a == some 2 && (a / 2 ^ 29 * 2 ^ 29 < va || va + len < a / 2 ^ 29 * 2 ^ 29 + 2 ^ 29)
        if c.phase != 0 then (s, if s.rangeBusy c.ctx va len then none else some (stOk, 0))
        else if va + len > 2 ^ 55 then (s, some (stFault, 0))
        else if va % 65536 != 0 || len % 65536 != 0 || len == 0 || (List.range (len / 65536)).any part then (s, some (stConfig, 0))
        else
          let s := s.unmapPages x.root va (len / 65536)
          let s := s.dropLeaves (fun l =>
            let size : Nat := if l.level == 2 then 2 ^ 29 else 65536
            l.ctx != c.ctx || !overlap (l.page * size) size va len)
          let s := match s.partOfCtx c.ctx with | some p => s.dropCode (fun k => s.holdsCore p k) | none => s
          (s, if s.rangeBusy c.ctx va len then none else some (stOk, 0)))
    s

/-- A task record read and entered (04 R75): a status and an index, or what the read meets. A record that is not 64-byte aligned gives FAULT (DESIGN CHOICE: log 75). -/
def State.launchAt (s : State) (who : Asker) (die ctx va : Nat) : State × Except Bad (Nat × Nat) :=
  if va % 64 != 0 then (s, .ok (stFault, 0))
  else
    match s.readRange who (dieCore die) ctx va 256 with
    | (s, .error e) => (s, .error e)
    | (s, .ok bs) => let (s, st, idx) := s.enterTask die ctx (TaskRec.ofBytes bs); (s, .ok (st, idx))

/-- LAUNCH_TASK. -/
def execLaunchTask (s : State) : Out :=
  jrf 5
    (fun s c _ =>
      match s.launchAt c.asker c.die c.ctx (c.field 64 8) with
      | (t, .error e) => s.cmdMeets c t e
      | (s, .ok (st, idx)) => (s.taken c.asker, some (st, if st == stOk then 4096 * c.die + idx else 0)))
    s

/-- HOST_COPY begins. -/
def execHostCopy (s : State) : Out :=
  jrf 6
    (fun s c _ =>
      if c.field 88 1 > 2 || c.field 89 2 > 0x3FF || c.field 91 2 > 0x3FF then (s, some (stReserved, 0))
      else (s, if c.field 80 8 == 0 then some (stOk, 0) else none))
    s

/-- The pages of a range of virtual addresses are of a package; 0x3FF names this one. -/
def State.pagesOf (s : State) (core ctx pkg : Nat) : Nat → Nat → Nat → Bool
  | 0, _, _ => true
  | fuel + 1, va, n =>
    n == 0 || match (s.translate core ctx va .r).2 with
      | .ok key =>
        (match keyRemote key with | none => pkg == 0x3FF || pkg == s.pkg.toNat | some k => k.toNat == pkg)
          && State.pagesOf s core ctx pkg fuel (va / 65536 * 65536 + 65536) (n - (65536 - va % 65536))
      | .error _ => true

/-- One piece of a HOST_COPY performed: what is written, or what it meets. `data` are the bytes that the host supplies. The device side is a range of virtual addresses whose
pages are of the package that its field names (DESIGN CHOICE: log 75). -/
def State.copyPiece (s : State) (c : JrfCommand) (n : Nat) (data : List Byte) : State × Option Bad :=
  let core := dieCore c.die
  let src := c.field 64 8 + c.copied
  let dst := c.field 72 8 + c.copied
  let dir := c.field 88 1
  if (dir != 0 && !s.pagesOf core c.ctx (c.field 89 2) 20 src n) || (dir != 1 && !s.pagesOf core c.ctx (c.field 91 2) 20 dst n) then
    (s, some ⟨0x05, none, none⟩)
  else if dir == 0 then s.writeRange c.asker core c.ctx dst data
  else
    match s.readRange c.asker core c.ctx src n with
    | (s, .error e) => (s, some e)
    | (s, .ok bs) =>
      if dir == 1 then ({ s with out := s.out ++ [.hostData (BitVec.ofNat 10 (c.field 91 2)) (BitVec.ofNat 64 dst) bs] }, none)
      else s.writeRange c.asker core c.ctx dst bs

/-- Bytes of the current piece of a HOST_COPY have been asked of another package. -/
def State.midPiece (s : State) (c : JrfCommand) : Bool := s.asking c.asker || s.answers.any (fun a => a.who == c.asker)

/-- HOST_COPY_PIECE: in a pause the current piece still ends (03 R61). -/
def execHostCopyPiece (cmd : Nat) (data : List Byte) (fails : Option FabricAnswer) (s : State) : Out :=
  match s.cmdOf cmd with
  | none => .next s
  | some c =>
    let n := min (2 ^ 20) (c.field 80 8 - c.copied)
    let held := match s.vdOf c.vd with | some v => v.paused.isSome || (v.pausing && !s.midPiece c) | none => true
    if c.code != 6 || c.phase == 0 || c.outcome.isSome || held || (c.field 88 1 == 0 && data.length != n) then .next s
    else if fails.isSome then .next (s.endCmd cmd stFabric c.copied)
    else
      match s.copyPiece c n data with
      | (_, some e) => .next (if e.later then s.askFor c.asker e else (s.taken c.asker).endCmd cmd (jrfStatus e) c.copied)
      | (s, none) =>
        let s := (s.taken c.asker).onCmd cmd (fun c => { c with copied := c.copied + n })
        .next (if c.copied + n ≥ c.field 80 8 then s.endCmd cmd stOk (c.copied + n) else s)

/-- FENCE: the blocks it waits for have all completed. -/
def execFence (s : State) : Out := jrf 7 (fun s _ _ => (s, some (stOk, 0))) s

/-! #### SIGNAL_ON (R35) -/

/-- A SIGNAL_ON operation on a vector in range. -/
def signalOn (op : Nat) (f : State → JrfCommand → VDev → State × Nat) (s : State) : Out :=
  match s.running 8 with
  | none => .next s
  | some (c, _) =>
    if c.field 64 1 != op then .next s
    else jrf 8 (fun s c v => if c.field 65 1 > 63 then (s, some (stReserved, 0)) else let (s, st) := f s c v; (s, some (st, 0))) s

/-- A vector of a device changed. -/
def State.onVector (s : State) (vd vec : Nat) (f : Vector → Vector) : State :=
  s.onVd vd (fun v => { v with vectors := modifyAt f vec v.vectors })

/-- Operation 0: target and cookie. -/
def execSignalOnSetTarget (s : State) : Out :=
  signalOn 0
    (fun s c v =>
      if v.iface != .unlocked then (s, stLocked)
      else if c.field 80 2 > 0x3FF || c.field 88 8 ≥ 2 ^ 56 then (s, stReserved)
      else
        (s.onVector v.num (c.field 65 1) (fun x =>
          { x with target := BitVec.ofNat 64 (c.field 72 8), pkg := BitVec.ofNat 10 (c.field 80 2), cookie := BitVec.ofNat 56 (c.field 88 8) }),
         stOk))
    s

/-- Operation 1: the mask bit set. -/
def execSignalOnSetMask (s : State) : Out :=
  signalOn 1 (fun s c v => (s.onVector v.num (c.field 65 1) (fun x => { x with mask := true }), stOk)) s

/-- Operation 2: the mask bit cleared. -/
def execSignalOnClearMask (s : State) : Out :=
  signalOn 2 (fun s c v => (s.onVector v.num (c.field 65 1) (fun x => { x with mask := false }), stOk)) s

/-- An arm of a device. -/
def State.addArm (s : State) (v : VDev) (a : Arm) : State × Nat :=
  if v.arms.length ≥ 256 then (s, stNoResource) else (s.onVd v.num (fun v => { v with arms := v.arms ++ [a] }), stOk)

/-- Operation 3: the vector is raised when a task completes. -/
def execSignalOnTaskArm (s : State) : Out :=
  signalOn 3
    (fun s c v =>
      let r := c.field 96 8
      if r ≥ 2 ^ 14 then (s, stReserved) else s.addArm v (.task (c.field 65 1) (r / 4096) (r % 4096)))
    s

/-- What operation 4 comes to with the word as it was when the block was taken, or as another package holds it, which is asked for once. -/
def State.armWord (s : State) (c : JrfCommand) (v : VDev) : State × Option (Nat × Nat) :=
  let va := c.field 96 8
  let vec := c.field 65 1
  if vec > 63 || va % 8 != 0 then (s, some (stReserved, 0))
  else
    match c.watch with
    | none => (s, some (stFault, 0))
    | some (key, value, met) =>
      if v.arms.length ≥ 256 then (s.taken c.asker, some (stNoResource, 0))
      else if met then (s.raiseVector v.num vec, some (stOk, 0))
      else
        match (if (keyRemote key).isNone then .ok [] else s.bytesFor c.asker va key 8) with
        | .error e => s.cmdMeets c s e
        | .ok bs =>
          let s := s.taken c.asker
          if bs != [] && leAt bs 0 8 == value.toNat then (s.raiseVector v.num vec, some (stOk, 0))
          else let (s, st) := s.addArm v (.word vec key value); (s, some (st, 0))

/-- Operation 4: the vector is raised when a device-memory word equals the compare value. A word address that is not 8-byte aligned gives RESERVED (DESIGN CHOICE: log 75). -/
def execSignalOnWordArm (s : State) : Out :=
  match s.running 8 with
  | none => .next s
  | some (c, _) => if c.field 64 1 != 4 then .next s else jrf 8 (fun s c v => s.armWord c v) s

/-- SIGNAL_WRITE (R36): a store to this package's memory, or a message to another node; held while the device is paused and while a
layout changes. Package 0x3FF in a target is this package (DESIGN CHOICE: log 75). -/
def execSignalWrite (vd vector : Nat) (s : State) : Out :=
  match s.vdOf vd with
  | none => .next s
  | some v =>
    match v.vectors[vector]? with
    | none => .next s
    | some x =>
      if !x.pending || x.mask || x.target == 0 || v.paused.isSome || s.change.isSome then .next s
      else
        let value := x.cookie.toNat * 256 + vector
        let s := if x.pkg == 0x3FF || x.pkg == s.pkg then s.storeDev x.target.toNat 8 value none
          else { s with out := s.out ++ [.signal x.pkg x.target (BitVec.ofNat 64 value)] }
        .next (s.onVector vd vector (fun x => { x with pending := false }))

/-! #### Killing a context (R37, R38) -/

/-- KILL_CONTEXT: steps 1 and 2; it completes with the kill record. -/
def execKillContext (s : State) : Out :=
  jrf 9
    (fun s c _ =>
      match s.ctxOf c.ctx with
      | none => (s, some (stNoContext, 0))
      | some x => if x.killed then (s, some (stOk, 0)) else if x.killing then (s, none) else (s.killContext c.ctx, none))
    s

/-- No engine holds an outstanding write of a context (R37 step 3). -/
def State.quiescent (s : State) (ctx : Nat) : Bool :=
  !s.warps.any (fun w => w.ctx == ctx && w.pending.any (fun a => a.kind.writes))
    && !s.channels.any (fun o => match s.warpOf o.warp, o.access.kind with | some w, _ => w.ctx == ctx | none, .ask who _ => s.askerCtx who == ctx | none, _ => false)
    && !s.cores.any (fun k => k.sprues.any (fun q => q.any (fun x => x.ctx == ctx && !x.done && x.fault.isNone)))
    && !s.heldWrites.any (fun h => h.ctx == ctx) && !s.jobs.any (fun j => j.ctx == ctx && (j.status == 1 || j.writes != []))

/-- Everything of a killed context is free, its translations are dropped, and the commands that kill it complete. -/
def State.postKill (s : State) (ctx : Nat) : State :=
  let mine (b : Nat) : Bool := match s.warps.find? (fun w => w.block == b) with | some w => w.ctx == ctx | none => false
  let gone := (s.blocks.filter (fun b => mine b.uid)).map (fun b => b.uid)
  let s : State :=
    { s with
    warps := s.warps.filter (fun w => w.ctx != ctx), shadows := s.shadows.filter (fun w => w.ctx != ctx), blocks := s.blocks.filter (fun b => !gone.contains b.uid),
    reserves := s.reserves.filter (fun r => match s.taskOf r.die r.task with | some t => t.ctx != ctx | none => false),
    tasks := s.tasks.filter (fun t => t.ctx != ctx), jobs := s.jobs.filter (fun j => j.ctx != ctx),
    cores := s.cores.map (fun k =>
      { k with
        sprues := k.sprues.map (fun q => q.filter (fun x => x.ctx != ctx)), windows := k.windows.filter (fun w => !gone.contains w.block),
        shapes := k.shapes.filter (fun r => r.ctx != ctx),
        idleSince := if s.blocks.any (fun b => gone.contains b.uid && b.cores.contains k.id) then s.hb else k.idleSince }) }
  let s := (s.dropLeaves (fun l => l.ctx != ctx)).onCtx ctx (fun x => { x with killing := true, killed := true })
  let s := (s.commands.filter (fun c => c.code == 9 && c.ctx == ctx && c.phase != 0)).foldl (fun s c => s.postCmd c stOk 0) s
  s.wakeLadle .mnopen

/-- WRITE_QUIESCENCE. -/
def execWriteQuiescence (ctx : Nat) (s : State) : Out :=
  match s.ctxOf ctx with
  | none => .next s
  | some x => if !x.killing || x.killed || !s.quiescent ctx then .next s else .next (s.postKill ctx)

/-! #### Checkpoints (R39 to R41) -/

/-- The coordinate of element `i`, dimension 0 running fastest. -/
def elemCoord (dims : List Nat) (i : Nat) : List Int :=
  let d (k : Nat) : Nat := max 1 (dims.getD k 1)
  let s1 := d 0
  let s2 := s1 * d 1
  let s3 := s2 * d 2
  let s4 := s3 * d 3
  let s5 := s4 * d 4
  [(i % d 0 : Nat), (i / s1 % d 1 : Nat), (i / s2 % d 2 : Nat), (i / s3 % d 3 : Nat), (i / s4 % d 4 : Nat), (i / s5 % d 5 : Nat)].map Int.ofNat

/-- The value of an element, which another package may hold. -/
def State.valueFor (s : State) (who : Asker) (e : Elem) (esz : Nat) : State × Except Bad Nat :=
  if e.near then s.readElem e esz
  else
    match s.bytesFor who e.name e.key esz with
    | .error b => (s, .error b)
    | .ok l => (s, .ok (if e.half == 0 then leAt l 0 esz else natField (leAt l 0 1) (4 * (e.half - 1)) 4))

/-- The values of the elements of a tensor from element `i` on. -/
def State.gather (s : State) (who : Asker) (core ctx : Nat) (sh : Shape) (i : Nat) : Nat → State × Except Bad (List Nat)
  | 0 => (s, .ok [])
  | n + 1 =>
    match s.elemAt who core ctx none sh (elemCoord sh.dims i) false 0 with
    | (s, .error e) => (s, .error e)
    | (s, .ok e) =>
      match (match e with | some e => s.valueFor who e sh.esz | none => (s, .ok 0)) with
      | (s, .error e) => (s, .error e)
      | (s, .ok v) =>
        match State.gather s who core ctx sh (i + 1) n with
        | (s, .ok vs) => (s, .ok (v :: vs))
        | r => r

/-- Values packed, and padded to a multiple of 64 bytes. -/
def packValues (sh : Shape) (vs : List Nat) : List Byte :=
  let bs := if sh.nibble then (List.range (vs.length / 2)).map (fun i => BitVec.ofNat 8 (vs.getD (2 * i) 0 + 16 * vs.getD (2 * i + 1) 0))
    else vs.flatMap (leBytes sh.esz)
  bs ++ leBytes ((64 - bs.length % 64) % 64) 0

/-- An image's entry for a tensor (Table 2-5). -/
def entryBytes (sh : Shape) : List Byte :=
  leBytes 1 sh.ty.toNat ++ leBytes 1 sh.rank ++ leBytes 6 0 ++ (List.range 6).flatMap (fun i => leBytes 8 (sh.dims.getD i 1))
    ++ leBytes 8 (sh.bytesOf (boxElems sh.dims))

/-- The shape records of a tensor list; a record that R142 rejects, a misaligned one, or one in a block's memory meets cause 0x16. -/
def State.tensors (s : State) (who : Asker) (core ctx list : Nat) : Nat → State × Except Bad (List Shape)
  | 0 => (s, .ok [])
  | n + 1 =>
    match s.readRange who core ctx list 8 with
    | (s, .error e) => (s, .error e)
    | (s, .ok p) =>
      match s.readRange who core ctx (leAt p 0 8) 192 with
      | (s, .error e) => (s, .error e)
      | (s, .ok l) =>
        if leAt p 0 8 % 64 != 0 || shapeBad l false || (Shape.ofBytes l).space == 1 then (s, .error ⟨0x16, none, none⟩)
        else
          match State.tensors s who core ctx (list + 8) n with
          | (s, .ok shs) => (s, .ok (Shape.ofBytes l :: shs))
          | r => r

/-- Bytes of a tensor in an image. -/
def tensorBytes (sh : Shape) : Nat := let n := sh.bytesOf (boxElems sh.dims); 64 + (n + 63) / 64 * 64

/-- The entries and data of tensors. -/
def State.tensorData (s : State) (who : Asker) (core ctx : Nat) : List Shape → State × Except Bad (List Byte)
  | [] => (s, .ok [])
  | sh :: shs =>
    match s.gather who core ctx sh 0 (boxElems sh.dims) with
    | (s, .error e) => (s, .error e)
    | (s, .ok vs) =>
      match State.tensorData s who core ctx shs with
      | (s, .ok rest) => (s, .ok (entryBytes sh ++ packValues sh vs ++ rest))
      | r => r

/-- A context has a task that is ready, running or saved. -/
def State.ctxBusy (s : State) (ctx : Nat) : Bool := s.tasks.any (fun t => t.ctx == ctx && t.ready)

/-- CHECKPOINT_EXPORT: the data, then the header. -/
def execCheckpointExport (s : State) : Out :=
  jrf 10
    (fun s c v =>
      let core := dieCore c.die
      if s.ctxBusy c.ctx then (s, some (stBusy, 0))
      else
        match s.tensors c.asker core c.ctx (c.field 64 8) (c.field 72 4) with
        | (t, .error e) => s.cmdMeets c t e
        | (t, .ok shs) =>
          let len := shs.foldl (fun n sh => n + tensorBytes sh) 128
          if len > c.field 88 8 then (t.taken c.asker, some (stNoResource, 0))
          else
            match t.tensorData c.asker core c.ctx shs with
            | (t, .error e) => s.cmdMeets c t e
            | (t, .ok data) =>
              let header := leBytes 4 1 ++ leBytes 4 shs.length ++ leBytes 8 len ++ leBytes 8 (t.guestTime v).toNat ++ leBytes 40 0 ++ sha512 data
              match t.writeRange c.asker core c.ctx (c.field 80 8 + 128) data with
              | (t, some e) => s.cmdMeets c t e
              | (t, none) =>
                match t.writeRange c.asker core c.ctx (c.field 80 8) header with
                | (t, some e) => s.cmdMeets c t e
                | (t, none) => (t.taken c.asker, some (stOk, len)))
    s

/-- The values of a tensor's data. -/
def unpackValues (sh : Shape) (l : List Byte) : List Nat :=
  (List.range (boxElems sh.dims)).map (fun i => if sh.nibble then natField (leAt l (i / 2) 1) (4 * (i % 2)) 4 else leAt l (sh.esz * i) sh.esz)

/-- Where the elements of a tensor are placed, from element `i` on. -/
def State.placeElems (s : State) (who : Asker) (core ctx : Nat) (sh : Shape) (i : Nat) :
    List Nat → Cells OutByte → State × Except Bad (Cells OutByte)
  | [], m => (s, .ok m)
  | v :: vs, m =>
    match s.elemAt who core ctx none sh (elemCoord sh.dims i) true 0 with
    | (s, .error e) => (s, .error e)
    | (s, .ok e) => State.placeElems s who core ctx sh (i + 1) vs (match e with | some e => putElemAt m e sh.esz v | none => m)

/-- Runs of bytes written in turn, those of other packages by their operations. -/
def State.putRuns (s : State) (who : Asker) (space : Space) : List (Cells OutByte) → State × Option Bad
  | [] => (s, none)
  | m :: ms =>
    let r := match m with
      | (k, v) :: _ => if space == .dev && (keyRemote k).isSome then s.putFor who v.name k (m.map (fun c => c.2.value)) else s.writeRun space m
      | [] => (s, none)
    match r with
    | (s, none) => State.putRuns s who space ms
    | r => r

/-- The tensors of an image placed in turn. -/
def State.placeTensors (s : State) (who : Asker) (core ctx : Nat) : List Shape → List Byte → State × Option Bad
  | [], _ => (s, none)
  | sh :: shs, l =>
    match s.placeElems who core ctx sh 0 (unpackValues sh (l.drop 64)) [] with
    | (s, .error e) => (s, some e)
    | (s, .ok m) =>
      match s.putRuns who sh.spaceOf (runsOf sh.spaceOf.unit m) with
      | (s, some e) => (s, some e)
      | (s, none) => State.placeTensors s who core ctx shs (l.drop (tensorBytes sh))

/-- Every entry of an image has the type, rank and dimensions of its target. -/
def entriesMatch : List Shape → List Byte → Bool
  | [], _ => true
  | sh :: shs, l => l.take 56 == (entryBytes sh).take 56 && entriesMatch shs (l.drop (tensorBytes sh))

/-- CHECKPOINT_IMPORT. An image whose length is not that of the list's tensors, or an entry of which has a reserved byte that is not zero, gives BAD_IMAGE too (DESIGN CHOICE:
log 75). -/
def execCheckpointImport (s : State) : Out :=
  jrf 11
    (fun s c _ =>
      let core := dieCore c.die
      if s.ctxBusy c.ctx then (s, some (stBusy, 0))
      else
        match s.tensors c.asker core c.ctx (c.field 72 8) (c.field 80 4) with
        | (t, .error e) => s.cmdMeets c t e
        | (t, .ok shs) =>
          match t.readRange c.asker core c.ctx (c.field 64 8) 128 with
          | (t, .error e) => s.cmdMeets c t e
          | (t, .ok h) =>
            let len := leAt h 8 8
            if leAt h 0 4 != 1 || leAt h 4 4 != shs.length || len != shs.foldl (fun n sh => n + tensorBytes sh) 128 then
              (t.taken c.asker, some (stBadImage, 0))
            else
              match t.readRange c.asker core c.ctx (c.field 64 8 + 128) (len - 128) with
              | (t, .error e) => s.cmdMeets c t e
              | (t, .ok data) =>
                if sha512 data != h.drop 64 || !entriesMatch shs data then (t.taken c.asker, some (stBadImage, 0))
                else
                  match t.placeTensors c.asker core c.ctx shs data with
                  | (t, some e) => s.cmdMeets c t e
                  | (t, none) => (t.taken c.asker, some (stOk, 0)))
    s

/-! #### Slices and queries -/

/-- A layout change is in progress that names a partition (03 R52). -/
def State.changes (s : State) (pid : Nat) : Bool := match s.change with | some c => c.parts.any (fun d => d.pid == pid) | none => false

/-- SET_SLICE (03 R58); it waits while the layout of its partition changes (03 R52). -/
def execSetSlice (s : State) : Out :=
  jrf 12
    (fun s c v =>
      let quantum := c.field 68 4
      let least := match s.partOf v.pid with | some p => s.saveTime p.desc | none => 0
      if s.changes v.pid then (s, none)
      else if c.field 65 1 > 1 then (s, some (stReserved, 0))
      else if quantum == 0 || quantum < least then (s, some (stConfig, 0))
      else (s.onVd v.num (fun v => { v with weight := c.field 64 1, quantum, wall := c.field 65 1 == 1 }), some (stOk, 0)))
    s

/-- The bytes that QUERY writes for an item (R33). Item 4 is the 8 bytes that the interface report holds at +8 (R72) and item 5 the 64-bit TIME; the layout
of the others is a free value of at most 2²⁰ bytes (log entry 42). -/
def queryBytes (item : Nat) (figures : List Nat) : List Byte :=
  if item == 4 || item == 5 then leBytes 8 (figures.headD 0) else (Config.queryLayout item figures).take (2 ^ 20)

/-- A QUERY item written to a buffer in the device's windows. -/
def query (item : Nat) (figures : State → VDev → List Nat) (s : State) : Out :=
  match s.running 13 with
  | none => .next s
  | some (c, _) =>
    if c.field 64 2 != item then .next s
    else
      jrf 13
        (fun s c v =>
          let bs := queryBytes item (figures s v)
          if bs.length > c.field 80 4 then (s, some (stNoResource, 0))
          else if !v.inWindow (c.field 72 8) bs.length then (s, some (stFault, 0))
          else (s.writeDev (c.field 72 8) bs none, some (stOk, bs.length)))
        s

/-- The figures of Table 0-1 (00 R2), rates in bytes or operations per second. -/
def packageFigures : List Nat :=
  [4, 8, 14, 448, 1800000000, 64, 2048, 917504, 262144, 255, 64, 8, 262144, 64, 4096, 7, 262144, 32, 8, 67108864, 268435456, 32, 65536, 64, 12,
   768000000000, 24600000000000, 55, 65536, 536870912, 16, 1600000000000, 1500000000000, 1024, 412900000000000, 1650000000000000, 3300000000000000,
   6610000000000000, 13200000000000000, 206000000000000, 84, 3000]
def execQueryFigures (s : State) : Out := query 0 (fun _ _ => packageFigures) s

/-- Item 1: the width of each port. -/
def State.portWidths (s : State) : List Nat :=
  (List.range 16).map (fun i => match s.ports.find? (fun p => p.id == i) with | some p => if p.up then p.width else 0 | none => 4)
def execQueryPortWidth (s : State) : Out := query 1 (fun s _ => s.portWidths) s

/-- Item 2: the partition's worst-case save time; it waits while the layout of that partition changes. -/
def execQuerySaveTime (s : State) : Out :=
  match s.running 13 with
  | none => .next s
  | some (_, v) => if s.changes v.pid then .next s else query 2 (fun s v => [match s.partOf v.pid with | some p => s.saveTime p.desc | none => 0]) s

/-- Item 3: retired banks (space, home, group, bank) and withdrawn cores. -/
def State.retiredList (s : State) : List Nat :=
  (s.groups.flatMap (fun g => g.retired.flatMap (fun b => [boolNat (g.id.space == .spad), g.id.home, g.id.group, b])))
    ++ (s.cores.filter (fun c => c.withdrawn)).map (fun c => c.id)
def execQueryRetired (s : State) : Out := query 3 (fun s _ => s.retiredList) s

/-- Item 4: revision and stepping. -/
def execQueryRevision (s : State) : Out := query 4 (fun _ _ => [Config.revision.toNat]) s

/-- Item 5: the guest TIME. -/
def execQueryTime (s : State) : Out := query 5 (fun s v => [(s.guestTime v).toNat]) s

/-! ### The event queue (08 R470) -/

/-- EVENT_RECORD: the oldest record of a die's ring acts, and its entry is free. -/
def execEventRecord (die : Nat) (s : State) : Out :=
  match s.events.find? (fun e => e.1 == die) with
  | none => .next s
  | some (_, r) =>
    let rec drop : List (Nat × EventRecord) → List (Nat × EventRecord)
      | [] => []
      | e :: es => if e.1 == die then es else e :: drop es
    let s := { s with events := drop s.events }
    if r.cause != 0 then
      .next (s.logCtx r.ctx { ErrorRecord.ofKind 8 with cause := r.cause.toNat, core := r.core.toNat, die, taddr := r.faddr })
    else
      let tag := r.tag.toNat
      match natField tag 62 2 with
      | 1 =>
        let d := natField tag 12 2
        match s.partOfCtx r.ctx with
        | some p => .next (if onDie p.desc d then s.decrement d (tag % 4096) (natField tag 16 32) else s)
        | none => .next s
      | 2 => match s.ctxOf r.ctx with | some x => .next (s.raiseVector x.vd (tag % 64)) | none => .next s
      | _ => .next s

end Sys2Proof.Machine
end

