-- ==== Sys2Proof/Machine/Place.lean ====
section
/-!
DEFINITION. A machine made ready to run one instruction: a context whose page tables map the first 512 MiB one to one, a task with one
resident block of one warp on core 0, and the instruction's bytes at the warp's address. It stands for what CREATE_CONTEXT, MAP,
HOST_COPY, LAUNCH_TASK and the start of a block bring about (02 R33; 04 R75, R81; log entry 3).
-/
namespace Sys2Proof.Machine

/-- Where the tables and the code of a placed program lie. -/
def placeRoot : Nat := 0x10000
def placeTable : Nat := 0x20000
def placeCode : Nat := 0x40000

/-- The context of a placed program. -/
def placeContext : Context :=
  { id := 1, vd := 0, root := placeRoot, saveBase := 0, saveSize := 0, watchdog := 0, count := 0, maxPrio := 3, castOk := false,
    pairedOk := false, killing := false, killed := false, retiredSum := 0, activeHb := 0 }

/-- Its task: one stage of one block of 32 threads (04 Tables 4-1 and 4-2). -/
def placeStage : StageDesc :=
  { entry := 0, gx := 1, gy := 1, gz := 1, bx := 32, by' := 1, bz := 1, cores := 1, vregs := 32, uregs := 64, rsv25 := 0, slots := 1,
    bmem := 262144, stackBase := 0x100000, stackLen := 4096, queue := 0 }
def placeTask : Task :=
  { die := 0, idx := 0, ctx := 1, order := 0,
    rec' := { code := placeCode, param := 0, save := 0, saveLen := 0, dep := 0, nparam := 0, nstage := 1, prio := 0, flags := 0, nsucc := 0,
              lcores := 1, succ := [], stages := [placeStage], reserved := 0 },
    counter := 0, ready := true, params := [],
    stages := [{ next := 1, done := 0, slots := [], stuck := false, cores := [] }], hosts := [], evalHb := 0 }

/-- Its block. -/
def placeBlock (uid : Nat) : Block :=
  { uid, die := 0, task := 0, stage := 0, index := 0, cores := [0], bases := [0], bmem := 262144, saveSlot := 0, lcore := 0, nwarp := 1,
    tags := [], banks := [0], leaving := false }

/-- Its warp: as 05 R118 gives it at the start of a block. -/
def Warp.fresh (uid core slot block ctx wid : Nat) (helper absent : LaneMask) (nreg nureg : Nat) (pc : BitVec 55) (wctl : Word) (clk : Nat) :
    Warp :=
  { uid, core, slot, block, ctx, wid, ended := false, helper, absent, exited := 0, nreg, nureg, regs := { v := [], u := [], p := [] },
    quads := quads8.map (fun q =>
      { Quad.empty with
        path := { pc, active := quadBits (~~~absent) q, living := quadBits (~~~absent) q, stack := [] },
        gang := gangId uid 0, readyAt := clk }),
    wctl, wstat := 0, region := 0, rcount := 0,
    trap := { tbase := 0, tcause := 0, tmask := 0, taddr := 0, tfirst := 0, tinfo := 0, tqpc := [0, 0, 0, 0, 0, 0, 0, 0] },
    inTrap := false, trapWait := none, handler := 0, heldFault := none, slots := [none, none, none, none, none, none, none],
    mstep := { active := false, slot := 0, opnd := 0, total := 0, done := 0, acc := [] },
    pending := [], scored := [], late := [], waits := [], spec := none, barrier := none, tick := none, errors := [], lines := [], cache := [],
    dirty := [], badLines := [], retired := 0, startClk := clk, pours := 0, steps := 0, offered := false, trail := [], agreed := [], trapGiven := false, offer := none }

/-- The tables and the code: a level 1 entry that names the level 2 table, and a level 2 leaf for physical address 0 with all
rights (06 Table 6-9). -/
def placeMemory (m : Memory) (nbits w : Nat) : Memory :=
  ((m.write placeRoot 8 (0x3FF * 2 ^ 40 + placeTable + 1)).write placeTable 8 (0x3FF * 2 ^ 40 + 0x1F)).write placeCode 16 (w % 2 ^ nbits)

/-- The machine with an instruction placed where the next step fetches. -/
def State.place (s : State) (nbits w : Nat) : State :=
  let uid := s.uids
  { s with
    agenda := [], here := (0, 0), tripped := false, uids := uid + 2,
    contexts := s.contexts.filter (fun c => c.id != 1) ++ [placeContext],
    tasks := s.tasks.filter (fun t => !(t.die == 0 && t.idx == 0)) ++ [placeTask],
    warps := s.warps.filter (fun v => v.core != 0) ++ [Warp.fresh (uid + 1) 0 0 uid 1 0 0 0 255 64 (BitVec.ofNat 55 placeCode) 0 0],
    shadows := s.shadows.filter (fun v => v.core != 0),
    blocks := s.blocks.filter (fun b => !b.cores.contains 0) ++ [placeBlock uid],
    cores := s.cores.filter (fun c => c.id != 0),
    dieLeaves := s.dieLeaves.filter (fun l => l.2.ctx != 1),
    answers := [],
    badLines := s.badLines.filter (fun l => !([placeRoot / 64, placeTable / 64, placeCode / 64].contains l.1)),
    dev := placeMemory s.dev nbits w }

end Sys2Proof.Machine
end

