-- ==== Sys2Proof/Machine/Placement.lean ====
section
/-!
DEFINITION. Where the scheduler may place a block (04 R84 to R91; 06 R467; 03 R46, R56): room on a core, core sets, what a stage wants to
start or restore next, and which block makes room.
-/
namespace Sys2Proof.Machine

/-! ### Room on a core -/

/-- The `k`-element sublists of a list, the earliest elements first. -/
def choose {α : Type} : Nat → List α → List (List α)
  | 0, _ => [[]]
  | _ + 1, [] => []
  | k + 1, x :: xs => (choose k xs).map (fun l => x :: l) ++ choose (k + 1) xs

/-- The warps of a block that run on the core at a place in its set, and the block memory that it provides (04 R77, 05 R120). -/
def StageDesc.warpsAt (d : StageDesc) (j : Nat) : List Nat := (List.range d.nwarp).filter (fun w => w % max 1 d.cores == j)
def shareAt (bmem j : Nat) : Nat := min 262144 (bmem - 262144 * j)

/-- What a warp takes of a core: itself, and its shadow in paired mode (11 R243). -/
def Warp.load (w : Warp) : Nat := if w.paired then 2 else 1

/-- The warps on a core but for those of blocks that are to go. -/
def State.staying (s : State) (gone : List Nat) (core : Nat) : List Warp := s.warps.filter (fun w => w.core == core && !gone.contains w.block)

/-- The lowest free slots for `n` warps of a load: sixteen places belong to each sequencer (05 R108, 11 R243). -/
def takeSlots (load : Nat) : Nat → List Nat → List (Nat × Nat) → Option (List Nat)
  | 0, _, _ => some []
  | _ + 1, [], _ => none
  | n + 1, k :: ks, used =>
    let there := (used.filter (fun u => u.1 / 16 == k / 16)).foldl (fun t u => t + u.2) 0
    if used.any (fun u => u.1 == k) || decide (there + load > 16) then takeSlots load (n + 1) ks used
    else (takeSlots load n ks (used ++ [(k, load)])).map (fun l => k :: l)
def State.slotsFor (s : State) (gone : List Nat) (core load n : Nat) : Option (List Nat) :=
  takeSlots load n (List.range 64) ((s.staying gone core).map (fun w => (w.slot, w.load)))

/-- The placement bases at which a share fits (06 R467). -/
def State.basesFor (s : State) (gone : List Nat) (core share : Nat) : List Nat :=
  let used := (s.blocks.filter (fun b => !gone.contains b.uid)).flatMap (fun b =>
    (List.range b.cores.length).filterMap (fun j => if b.cores.getD j 0 == core then some (b.bases.getD j 0, shareAt b.bmem j) else none))
  ((List.range 257).map (fun i => 1024 * i)).filter (fun a => decide (a + share ≤ 262144) && !used.any (fun u => overlap a share u.1 u.2))

/-- The banks of a core that no staying block holds. -/
def State.banksLeft (s : State) (gone : List Nat) (core : Nat) : BitVec 64 :=
  ~~~((s.blocks.filter (fun b => !gone.contains b.uid)).foldl (fun m b => m ||| b.banksOn core) 0)

/-- The table of descriptors after a change (03 R51), and the partition that holds a cluster in a table. -/
def mergeParts (old new : List PartDesc) : List PartDesc := old.filter (fun d => !new.any (fun e => e.pid == d.pid)) ++ new
def holderOf (ds : List PartDesc) (k : Nat) : Option Nat := (ds.find? (fun d => bitAt d.guar k || bitAt d.margin k)).map (fun d => d.pid)

/-- A cluster that the change in progress passes from one partition to another, a lent one included that its owner no longer lends. -/
def State.leaving (s : State) (k : Nat) : Bool :=
  match s.change with
  | none => false
  | some c =>
    let old := s.parts.map (fun p => p.desc)
    let new := mergeParts old c.parts
    holderOf old k != holderOf new k || (s.margins.any (fun m => m.cluster == k && m.lentTo.isSome) && !new.any (fun d => bitAt d.margin k))

/-- A lent cluster that its owner claims (03 R47). -/
def State.claimed (s : State) (k : Nat) : Bool := s.margins.any (fun m => m.cluster == k && m.claimed)

/-- A core has room for its place in a block, with the banks that a saved block needs. -/
def State.fits (s : State) (gone : List Nat) (d : StageDesc) (paired : Bool) (core j : Nat) (banks : BitVec 64) : Bool :=
  let n := (d.warpsAt j).length
  let load := if paired then 2 else 1
  let regs := (s.staying gone core).foldl (fun t w => t + 32 * w.nreg * w.load) 0
  !(s.coreOf core).withdrawn && !(s.coreOf core).withdrawing && !s.leaving (coreCluster core) && !s.claimed (coreCluster core) && (s.slotsFor gone core load n).isSome && decide (regs + 256 * d.vregs * n * load ≤ 65536)
    && s.basesFor gone core (shareAt d.bmem j) != [] && (banks &&& ~~~(s.banksLeft gone core)) == 0

/-! ### What a stage wants -/

/-- The next start or restore of a stage: the block, the banks that it held, and the core that hosts it in cast mode. -/
structure Want where
  task  : Task
  stage : Nat
  desc  : StageDesc
  index : Nat
  saved : Option SavedBlock
  banks : List (BitVec 64)
  host  : Option Nat
deriving DecidableEq, Repr

/-- The virtual device of a context, when its slice runs and it is not paused (03 R56, R61). -/
def State.served (s : State) (ctx : Nat) : Bool :=
  match s.ctxOf ctx with
  | some c =>
    match s.vdOf c.vd with
    | some v => !c.killing && !c.killed && !v.pausing && v.paused.isNone && (match s.partOf v.pid with | some p => p.running == some v.num | none => false)
    | none => false
  | none => false

/-- A task whose blocks may start (04 R80; 03 R73; 11 R257; 01 R23). -/
def State.serves (s : State) (t : Task) : Bool :=
  t.ready && !t.rec'.marker && s.served t.ctx && !s.tripped && s.joined && (s.life == .deployed || s.life == .manufacturing)

/-- The tile queue that feeds a stage: DEPTH, FLAGS, PRODUCED and CONSUMED (04 Table 4-4). -/
def State.queueOf (s : State) (t : Task) (d : StageDesc) : Option (Nat × Nat × Nat × Nat) :=
  let q := spadKey t.die (s.window t.ctx t.die).1 d.queue
  match (s.readAt .spad (q + 4) 4).2, (s.readAt .spad (q + 16) 8).2, (s.readAt .spad (q + 24) 8).2, (s.readAt .spad (q + 32) 8).2 with
  | .ok depth, .ok flags, .ok produced, .ok consumed => some (depth, flags, produced, consumed)
  | _, _, _, _ => none

/-- The flag of a consuming block's slot holds its tile (04 R83). -/
def State.tileReady (s : State) (t : Task) (d : StageDesc) (index : Nat) : Bool :=
  match s.queueOf t d with
  | none => false
  | some (depth, flags, _, _) =>
    match (s.readRange noAsker (dieCore t.die) t.ctx (flags + 8 * (index % max 1 depth)) 8).2 with
    | .ok bs => leAt bs 0 8 == 2 ^ 63 + index % 2 ^ 32
    | .error _ => false

/-- The host of a logical core while a block of it is resident or saved, and so fixed (04 R86). -/
def State.hostOf (s : State) (t : Task) (lcore : Nat) : Option Nat :=
  let mine (die task index : Nat) : Bool := die == t.die && task == t.idx && index % max 1 t.rec'.lcores == lcore
  if t.rec'.cast && (s.blocks.any (fun b => mine b.die b.task b.index) || s.saved.any (fun b => mine b.die b.task b.index)) then
    (t.hosts.find? (fun h => h.1 == lcore)).map (fun h => h.2)
  else none

/-- The logical core of a block (04 R86). -/
def Task.lcore (t : Task) (index : Nat) : Nat := if t.rec'.cast then index % max 1 t.rec'.lcores else 0

/-- The saved block of a stage with the lowest index (04 R94). -/
def lowestSaved : List SavedBlock → Option SavedBlock
  | [] => none
  | b :: bs => match lowestSaved bs with | some c => if c.index < b.index then some c else some b | none => some b
def State.savedIn (s : State) (t : Task) (stage : Nat) : Option SavedBlock :=
  lowestSaved (s.saved.filter (fun b => b.die == t.die && b.task == t.idx && b.stage == stage))

/-- The BANKMAP words of a saved block's slot; none where the slot cannot be read. -/
def State.savedBanks (s : State) (b : SavedBlock) : List (BitVec 64) :=
  match (s.readRange noAsker (dieCore b.die) b.ctx (s.slotAddr b.die b.task b.stage b.slot + 64) 64).2 with
  | .ok l => (List.range 8).map (fun k => BitVec.ofNat 64 (leAt l (8 * k) 8))
  | .error _ => []

/-- What a stage of a task starts or restores next: a saved block before any that has not started; nothing after a restore of it failed. -/
def State.wantOf (s : State) (t : Task) (stage : Nat) : Option Want :=
  match t.rec'.stages[stage]?, t.stages[stage]? with
  | some d, some g =>
    if g.stuck then none
    else
      match s.savedIn t stage with
      | some b => some { task := t, stage, desc := d, index := b.index, saved := some b, banks := s.savedBanks b, host := s.hostOf t (t.lcore b.index) }
      | none =>
        if decide (g.next < d.blocks) && decide (g.slots.length < d.slots) && (stage == 0 || s.tileReady t d g.next) then
          some { task := t, stage, desc := d, index := g.next, saved := none, banks := [], host := s.hostOf t (t.lcore g.next) }
        else none
  | _, _ => none

/-- Everything that a task wants. -/
def State.wantsOf (s : State) (t : Task) : List Want := (List.range t.rec'.nstage).filterMap (s.wantOf t)

/-! ### Core sets (04 R84, R85) -/

/-- The cores that a partition holds, by number. -/
def State.heldCores (s : State) (ctx : Nat) : List Nat :=
  match s.partOfCtx ctx with
  | some p => (List.range 448).filter (fun c => s.holdsCore p c)
  | none => []

/-- The cores that a stage of a pipeline takes when its first block may start: those of the die that no stage holds where it is stage 0 or no stage holds any, else as
many as a block needs of the last cluster of the nearest stage before that holds some. -/
def State.firstCores (s : State) (t : Task) (stage : Nat) : List Nat :=
  let free := (s.heldCores t.ctx).filter (fun c => coreDie c == t.die && !t.stages.any (fun g => g.cores.contains c))
  match ((t.stages.take stage).reverse ++ t.stages.drop stage).find? (fun g => g.cores != []), t.rec'.stages[stage]? with
  | some g, some d =>
    if stage == 0 && free != [] then free
    else
      match g.cores.getLast? with
      | some last => ((g.cores.filter (fun c => coreCluster c == coreCluster last)).reverse.take d.cores).reverse
      | none => []
  | none, _ => free
  | _, none => []

/-- The cores on which a stage starts blocks: in a pipeline its own, without those that still hold a block of another stage. -/
def State.stageCores (s : State) (t : Task) (stage : Nat) : List Nat :=
  let held := s.heldCores t.ctx
  if t.rec'.nstage ≤ 1 then held
  else
    let own := match t.stages[stage]? with | some g => if g.cores == [] then s.firstCores t stage else g.cores | none => []
    own.filter (fun c =>
      held.contains c && !s.blocks.any (fun b => b.die == t.die && b.task == t.idx && b.stage != stage && b.cores.contains c))

/-- The core sets of one cluster on which a block can be placed once some blocks are gone. -/
def State.setsFor (s : State) (gone : List Nat) (w : Want) : List (List Nat) :=
  let cores := s.stageCores w.task w.stage
  let paired := w.task.rec'.paired
  let n := w.desc.cores
  (List.range 32).flatMap (fun k =>
    let here := cores.filter (fun c => coreCluster c == k && (s.fits gone w.desc paired c (n - 1) 0))
    (choose n here).filter (fun set =>
      (w.host.isNone || set.head? == w.host)
        && (List.range n).all (fun j => s.fits gone w.desc paired (set.getD j 0) j (w.banks.getD j 0))))

/-- The warps resident on a set. -/
def State.warpsOn (s : State) (set : List Nat) : Nat := (s.warps.filter (fun w => set.contains w.core && !w.ended)).length

/-- The set with the least weight; the first of those that tie. -/
def leastSet (weight : List Nat → Nat) : List (List Nat) → Option (List Nat)
  | [] => none
  | c :: cs => match leastSet weight cs with | some d => if weight d < weight c then some d else some c | none => some c

/-- The set on which a block is placed with the room there is (R85). -/
def State.placeOf (s : State) (w : Want) : Option (List Nat) := leastSet s.warpsOn (s.setsFor [] w)

/-- The virtual device of a context. -/
def State.vdNum (s : State) (ctx : Nat) : Nat := match s.ctxOf ctx with | some c => c.vd | none => 0

/-- Ready tasks of a task's virtual device other than itself. -/
def State.rivals (s : State) (t : Task) : List Task :=
  s.tasks.filter (fun u => s.serves u && s.vdNum u.ctx == s.vdNum t.ctx && !(u.die == t.die && u.idx == t.idx))

/-! ### Partial eviction (04 R91; 20 R435) -/

/-- A resident block may be evicted for a task: it belongs to another virtual device of the partition, whose slice is over, or to a task of
lower priority, or to one of the same priority once a warp of it has offered it. -/
def State.yields (s : State) (t : Task) (b : Block) : Bool :=
  match s.taskOf b.die b.task with
  | none => false
  | some u =>
    let same := s.vdNum u.ctx == s.vdNum t.ctx
    let offered := s.warps.any (fun w => w.block == b.uid && w.offered)
    let shared := match s.partOfCtx u.ctx, s.partOfCtx t.ctx with | some p, some q => p.desc.pid == q.desc.pid | _, _ => false
    if same then decide (u.rec'.prio < t.rec'.prio) || (offered && u.rec'.prio == t.rec'.prio) else shared

/-- A block comes before another as a victim: of another virtual device, of lower priority, entered later, of a higher stage, of a higher
index. -/
def State.victimKey (s : State) (t : Task) (b : Block) : List Nat :=
  match s.taskOf b.die b.task with
  | some u =>
    [if s.vdNum u.ctx == s.vdNum t.ctx then 1 else 0, u.rec'.prio, 2 ^ 64 - u.order, 4 - b.stage, 2 ^ 32 - b.index]
  | none => [2]
def lexLt : List Nat → List Nat → Bool
  | a :: as, b :: bs => a < b || (a == b && lexLt as bs)
  | [], _ :: _ => true
  | _, [] => false
def insertVictim (key : Block → List Nat) (b : Block) : List Block → List Block
  | [] => [b]
  | c :: cs => if lexLt (key b) (key c) then b :: c :: cs else c :: insertVictim key b cs

/-- The victims on a set in order, as many as make room. -/
def State.untilRoom (s : State) (w : Want) (set : List Nat) : List Block → List Nat → Option (List Nat)
  | bs, gone =>
    if (s.setsFor gone w).contains set then some gone
    else match bs with
      | [] => none
      | b :: bs => State.untilRoom s w set bs (gone ++ [b.uid])

/-- What a stage wants and the set that is reserved for it meet. -/
def Reserve.isFor (r : Reserve) (w : Want) : Bool := r.die == w.task.die && r.task == w.task.idx && r.stage == w.stage

/-- The set on which blocks are to be evicted for what a stage wants, with those blocks in order, when no set has room: the reserved set once one is, else the set that needs
the fewest warps evicted, the lowest core number breaking ties (04 R91). -/
def State.planFor (s : State) (w : Want) : Option (List Nat × List Nat) :=
  if s.placeOf w != none then none
  else
    let all := s.blocks.filter (s.yields w.task)
    let plan (set : List Nat) : Option (List Nat × List Nat) :=
      let bs := (all.filter (fun b => b.cores.any (fun c => set.contains c))).foldl (fun l b => insertVictim (s.victimKey w.task) b l) []
      (s.untilRoom w set bs []).map (fun gone => (set, gone))
    let sets := s.setsFor (all.map (fun b => b.uid)) w
    let cost (p : List Nat × List Nat) : Nat := (s.warps.filter (fun v => p.2.contains v.block && !v.ended)).length
    match (s.reserves.find? (fun r => r.isFor w)).bind (fun r => if sets.contains r.set then plan r.set else none) with
    | some p => some p
    | none => leastBy cost (sets.filterMap plan)

/-- The block to evict first for what a stage wants. -/
def State.victimFor (s : State) (w : Want) : Option Nat := (s.planFor w).bind (fun p => p.2.head?)

/-- What a task wants that a block is the next victim of. -/
def State.wantOver (s : State) (block : Nat) : Option Want :=
  (s.tasks.filter s.serves).findSome? (fun t => (s.wantsOf t).find? (fun w => s.victimFor w == some block))

/-- The room that is being made for a want is reserved for it (04 R90). -/
def State.reserve (s : State) (w : Want) : State :=
  match s.planFor w with
  | some (set, _) =>
    { s with reserves := s.reserves.filter (fun r => !r.isFor w) ++ [{ die := w.task.die, task := w.task.idx, stage := w.stage, set }] }
  | none => s

/-- What is reserved for a task is free again. -/
def State.release (s : State) (die idx : Nat) (stages : List Nat) : State :=
  { s with reserves := s.reserves.filter (fun r => !(r.die == die && r.task == idx && stages.contains r.stage)) }

/-! ### Priorities (04 R90) -/

/-- Two sets share a core. -/
def meetsSet (a b : List Nat) : Bool := a.any (fun c => b.contains c)

/-- A task could place a block on a set that meets one, with the room there is. -/
def State.couldUse (s : State) (t : Task) (set : List Nat) : Bool := (s.wantsOf t).any (fun w => (s.setsFor [] w).any (fun cs => meetsSet cs set))

/-- A task of higher priority could place a block there, by free room or by the eviction on the set that is chosen or reserved for it. -/
def State.outranked (s : State) (t : Task) (set : List Nat) : Bool :=
  (s.rivals t).any (fun u => decide (t.rec'.prio < u.rec'.prio)
    && (s.couldUse u set || (s.wantsOf u).any (fun w => match s.planFor w with | some (cs, _) => meetsSet cs set | none => false)))

/-- The place of a task in the rotation after the task of its level served last: `last` is the place of that one. -/
def turnOf (last : Option Nat) (t : Task) : Nat :=
  match last with | some l => (t.die * 4096 + t.idx + 16384 - l - 1) % 16384 | none => t.die * 4096 + t.idx

/-- Another task of the level comes first on the set. -/
def State.outturned (s : State) (t : Task) (set : List Nat) : Bool :=
  let last := ((s.coreOf (set.headD 0)).lastTask.find? (fun l => l.1 == t.rec'.prio)).map (fun l => l.2.1)
  (s.rivals t).any (fun u => u.rec'.prio == t.rec'.prio && decide (turnOf last u < turnOf last t) && s.couldUse u set)

end Sys2Proof.Machine
end

