-- ==== Sys2Proof/Machine/Scheduler.lean ====
section
/-!
DEFINITION. The events of the task scheduler (04 R81 to R100): blocks started, evicted and restored, tasks completed, the balance of a
pipeline, and the watchdog. Eviction and restore are single steps, enabled once what they wait for is over. An event that is not enabled
changes nothing.
-/
namespace Sys2Proof.Machine

/-! ### Starting a block (04 R85 to R88; 05 R115, R118, R119) -/

/-- The helper and the absent lanes of a warp of a block (05 R115). -/
def StageDesc.strangers (d : StageDesc) (wid : Nat) : LaneMask × LaneMask :=
  let n := d.threads - 32 * wid
  if n ≥ 32 then (0, 0)
  else
    let quadEnd := 4 * ceilDiv n 4
    (maskOf (fun l => decide (n ≤ l) && decide (l < quadEnd)), maskOf (fun l => decide (quadEnd ≤ l)))

/-- WCTL at the start of a block. -/
def startWctl (r : TaskRec) : Word := BitVec.ofNat 32 (boolNat r.cast * 32 + boolNat r.paired * 64)

/-- A placement base chosen by the scheduler among those where the share fits (06 R467). -/
def State.chooseBases (s : State) (d : StageDesc) (set : List Nat) : Nat → State × List Nat
  | 0 => (s, [])
  | n + 1 =>
    let (s, bases) := State.chooseBases s d set n
    let fit := s.basesFor [] (set.getD n 0) (shareAt d.bmem n)
    let (k, s) := s.chooseNat
    (s, bases ++ [fit.getD (k % max 1 fit.length) 0])

/-- The slot of each warp of a block on its set. -/
def State.warpSlots (s : State) (d : StageDesc) (paired : Bool) (set : List Nat) : List (Nat × Nat) :=
  (List.range d.cores).flatMap (fun j =>
    (d.warpsAt j).zip ((s.slotsFor [] (set.getD j 0) (if paired then 2 else 1) (d.warpsAt j).length).getD []))

/-- The parameters in the uniform registers of a warp. -/
def Warp.withParams (w : Warp) (params : List Word) : Warp :=
  { w with regs := (List.range (min 16 params.length)).foldl (fun r i => r.setUni i (params.getD i 0)) w.regs }

/-- The paired warps of a block get shadows in the state that they are in (11 R243, 04 R95). -/
def State.addShadows (s : State) (block : Nat) : State :=
  { s with shadows := s.shadows ++ (s.warps.filter (fun w => w.block == block && w.paired && !w.ended)).map Warp.asShadow }

/-- Block memory at the start: the parameter words from the seventeenth on, then zeros. -/
def State.startMemory (s : State) (b : Block) (params : List Word) : State :=
  (List.range (b.bmem / 4)).foldl (fun s i => (s.storeBank .block (b.key (4 * i)) 4 (params.getD (i + 16) 0).toNat none).1) s

/-- The pipeline cores that a stage takes with its first block. -/
def State.takeCores (s : State) (t : Task) (stage : Nat) : State :=
  match t.stages[stage]? with
  | some g =>
    if t.rec'.nstage ≤ 1 || g.cores != [] then s
    else
      let mine := s.firstCores t stage
      s.onTask t.die t.idx (fun t =>
        let rest (g : Stage) : Stage :=
          let left := g.cores.filter (fun c => !mine.contains c)
          { g with cores := if left == [] then g.cores else left }
        { t with stages := modifyAt (fun g => { g with cores := mine }) stage (t.stages.map rest) })
  | none => s

/-- A core starts a block of a task: that task is the one served last, and the instruction cache is invalidated where the block before was of another task (12 R275). -/
def Core.serve (t : Task) (c : Core) : Core :=
  let me : Nat × Nat × Nat := (t.rec'.prio, t.die * 4096 + t.idx, t.order)
  { c with
    lastTask := me :: c.lastTask.filter (fun l => l.1 != me.1),
    icache := if (c.lastTask.head?.map (fun l => l.2)) == some me.2 then c.icache else [] }

/-- What a placement notes: the save slot, the host of the logical core, the task served last, that nothing is reserved for it any more, and that a margin cluster serves its
owner (03 R46). -/
def State.notePlace (s : State) (w : Want) (slot uid : Nat) (set : List Nat) : State :=
  let t := w.task
  let s := (s.takeCores t w.stage).onTask t.die t.idx (fun t =>
    { t with
      hosts := if t.rec'.cast then t.hosts.filter (fun h => h.1 != t.lcore w.index) ++ [(t.lcore w.index, set.headD 0)] else t.hosts,
      stages := modifyAt (fun g => { g with slots := g.slots.filter (fun x => x.1 != slot) ++ [(slot, uid)] }) w.stage t.stages })
  let s := set.foldl (fun s c => s.onCore c (Core.serve t)) (s.release t.die t.idx [w.stage])
  { s with margins := s.margins.map (fun m => if set.any (fun c => coreCluster c == m.cluster) && m.lentTo.isNone then { m with busy := true } else m) }

/-- The block that a want places on a set. -/
def Want.block (w : Want) (uid slot : Nat) (set bases : List Nat) (banks : List (BitVec 64)) : Block :=
  { uid, die := w.task.die, task := w.task.idx, stage := w.stage, index := w.index, cores := set, bases, bmem := w.desc.bmem, saveSlot := slot,
    lcore := w.task.lcore w.index, nwarp := w.desc.nwarp, tags := [], banks, leaving := false }

/-- A block started on a set. -/
def State.startBlock (s : State) (w : Want) (set : List Nat) : State :=
  let t := w.task
  let d := w.desc
  let places := s.warpSlots d t.rec'.paired set
  let (uid, s) := s.newUid
  let (s, bases) := s.chooseBases d set d.cores
  let taken := (t.stages.getD w.stage { next := 0, done := 0, slots := [], stuck := false, cores := [] }).slots
  let slot := ((List.range d.slots).find? (fun j => !taken.any (fun x => x.1 == j))).getD 0
  let b := w.block uid slot set bases ((List.range d.cores).map (fun _ => 0))
  let fresh (i : Nat × Nat) (k : Nat) : Warp :=
    let core := set.getD (i.1 % max 1 d.cores) 0
    let (helper, absent) := d.strangers i.1
    (Warp.fresh k core i.2 uid t.ctx i.1 helper absent (8 * d.vregs) d.uregs (BitVec.ofNat 55 (t.rec'.code + d.entry)) (startWctl t.rec')
      (s.coreOf core).clk).withParams t.params
  let s := { s with
    uids := s.uids + places.length, blocks := s.blocks ++ [b],
    warps := s.warps ++ (List.range places.length).filterMap (fun i => (places[i]?).map (fun p => fresh p (s.uids + i))) }
  let s := (((s.startMemory b t.params).addShadows uid).notePlace w slot uid set).noteWork t.ctx
  let s := s.onTask t.die t.idx (fun t => { t with stages := modifyAt (fun g => { g with next := g.next + 1 }) w.stage t.stages })
  s.setSlotState t.die t.idx w.stage slot 1

/-- The set on which a want may be placed now: every core of it is awake, and no other task comes first there. -/
def State.placement (s : State) (w : Want) : Option (List Nat) :=
  match s.placeOf w with
  | some set =>
    if set.any (fun c => (s.coreOf c).gated) || s.outranked w.task set || s.outturned w.task set then none else some set
  | none => none

/-- The want of a stage, when its task is served. -/
def State.wanted (s : State) (die idx stage : Nat) : Option Want :=
  match s.taskOf die idx with
  | some t => if s.serves t then s.wantOf t stage else none
  | none => none

/-- A start of a stage's next block. -/
def State.tryStart (s : State) (die idx stage : Nat) : State :=
  match s.wanted die idx stage with
  | some w => if w.saved.isSome then s else match s.placement w with | some set => s.startBlock w set | none => s
  | none => s

/-- BLOCK_START: of a stage that consumes no tiles. -/
def execBlockStart (die idx stage : Nat) (s : State) : Out := .next (if stage == 0 then s.tryStart die idx stage else s)

/-- CONSUMER_BLOCK_START (04 R83): the flag of its slot holds its tile, and the read of it is an acquire. -/
def execConsumerBlockStart (die idx stage : Nat) (s : State) : Out := .next (if stage == 0 then s else s.tryStart die idx stage)

/-! ### Tasks (04 R79, R81) -/

/-- Every block of every stage has completed. -/
def Task.finished (t : Task) : Bool :=
  t.ready && (t.rec'.marker || (List.range t.rec'.nstage).all (fun k =>
    match t.rec'.stages[k]?, t.stages[k]? with | some d, some g => g.done == d.blocks | _, _ => false))

/-- A copy, job or `cpc` of a task has still to perform. -/
def State.taskBusy (s : State) (die idx : Nat) : Bool :=
  s.cores.any (fun c => c.sprues.any (fun q => q.any (fun x => x.task == (die, idx))))
    || s.cpcs.any (fun o => o.cmd.task == (die, idx)) || s.jobs.any (fun j => j.task == (die, idx) && j.status != 2)

/-- The arms of SIGNAL_ON operation 3 on a task fire (02 R35). -/
def State.fireTask (s : State) (vd die idx : Nat) : State :=
  match s.vdOf vd with
  | none => s
  | some v =>
    let hit (a : Arm) : Option Nat := match a with | .task vec d i => if d == die && i == idx then some vec else none | .word _ _ _ => none
    let s := (v.arms.filterMap hit).foldl (fun s vec => s.raiseVector vd vec) s
    s.onVd vd (fun v => { v with arms := v.arms.filter (fun a => (hit a).isNone) })

/-- TASK_COMPLETE: the successors are decremented, the arms fire, and the entry is free. -/
def execTaskComplete (die idx : Nat) (s : State) : Out :=
  match s.taskOf die idx with
  | none => .next s
  | some t =>
    let dying := match s.ctxOf t.ctx with | some c => c.killing || c.killed | none => true
    if dying || !t.finished || s.taskBusy die idx then .next s
    else
      let s := s.noteWork t.ctx
      let s := (t.rec'.succ.take t.rec'.nsucc).foldl (fun s v => s.decrement (bitField v 12 2) (bitField v 0 12) 1) s
      let s := s.fireTask (s.vdNum t.ctx) die idx
      .next { s.release die idx [0, 1, 2, 3] with tasks := s.tasks.filter (fun u => !(u.die == die && u.idx == idx && u.order == t.order)) }

/-! ### Pipelines (04 R84) -/

/-- One core that has not moved yet goes from a stage to another; the scheduler chooses which. -/
def State.moveCore (s : State) (die idx from' to' : Nat) (moved : List Nat) : State × List Nat :=
  match s.taskOf die idx with
  | none => (s, moved)
  | some t =>
    let free := (match t.stages[from']? with | some g => g.cores | none => []).filter (fun c => !moved.contains c)
    let (k, s) := s.chooseNat
    match free[k % max 1 free.length]? with
    | none => (s, moved)
    | some c =>
      (s.onTask die idx (fun t =>
        { t with
          stages := modifyAt (fun g => { g with cores := g.cores ++ [c] }) to'
            (modifyAt (fun g => { g with cores := g.cores.filter (fun x => x != c) }) from' t.stages) }), moved ++ [c])

/-- One queue evaluated: that which feeds a stage. -/
def State.balance (s : State) (die idx k : Nat) (moved : List Nat) : State × List Nat :=
  match s.taskOf die idx with
  | none => (s, moved)
  | some t =>
    match t.rec'.stages[k]?, t.rec'.stages[k - 1]?, t.stages[k]?, t.stages[k - 1]? with
    | some d, some e, some g, some p =>
      match s.queueOf t d with
      | none => (s, moved)
      | some (depth, _, produced, consumed) =>
        let occ := produced - consumed
        if 4 * occ ≥ 3 * depth && p.cores.length > 1 then s.moveCore die idx (k - 1) k moved
        else if 4 * occ ≤ depth && g.cores.length > 1 && p.next < e.blocks then s.moveCore die idx k (k - 1) moved
        else (s, moved)
    | _, _, _, _ => (s, moved)

/-- STAGE_REBALANCE: once at the first edge of every heartbeat whose number is a multiple of 64. -/
def execStageRebalance (die idx : Nat) (s : State) : Out :=
  match s.taskOf die idx with
  | none => .next s
  | some t =>
    if !t.ready || t.rec'.marker || t.rec'.nstage ≤ 1 || s.hb.toNat % 64 != 0 || t.evalHb == s.hb || s.ns != s.edgeNs then .next s
    else
      let s := s.onTask die idx (fun t => { t with evalHb := s.hb })
      .next ((List.range (t.rec'.nstage - 1)).foldl (fun (a : State × List Nat) i => a.1.balance die idx (i + 1) a.2) (s, [])).1

/-! ### Eviction (04 R92) -/

/-- Steps 1 to 4: the warps of a block have nothing pending, their shadows have come as far as they have, and what is compared has been released. -/
def State.quietBlock (s : State) (block : Nat) : Bool :=
  (s.warps.filter (fun w => w.block == block)).all (fun w =>
    let v := w.squash
    v.pending == [] && v.scored == [] && v.late == [] && v.trail == [] && v.tick.isNone && v.trapWait.isNone
      && !s.channels.any (fun o => o.warp == w.uid))

/-- A command that step 5 does not wait for: it is done, a `qfence`, or a `cpv` all of whose lines have been applied, have timed out or are held. -/
def Command.over (x : Command) : Bool :=
  x.done || match x.work with
    | .qfence _ => true
    | .copy (.cpv _) _ _ _ _ _ _ _ => x.begun && x.works == [] && x.heldWrites != 0
    | _ => false

/-- Step 5 goes on without a fault being discarded: some sprue that holds a command of the block to wait for has a head that is neither over nor faulted. -/
def State.goesOn (s : State) (block : Nat) : Bool :=
  s.cores.any (fun c => c.sprues.any (fun q =>
    q.any (fun x => x.block == block && !x.over && x.fault.isNone) && match q with | h :: _ => !h.over && h.fault.isNone | [] => false))

/-- No command of a block is left to wait for, and none is faulted. -/
def State.commandsOver (s : State) (block : Nat) : Bool :=
  s.cores.all (fun c => c.sprues.all (fun q => q.all (fun x => x.block != block || (x.over && x.fault.isNone))))

/-- The faulted head of a sprue becomes the held fault of its warp, or is discarded on route 3 (08 R186). -/
def State.holdHead (s : State) (block core q : Nat) : State :=
  match s.sprue core q with
  | [] => s
  | x :: _ =>
    match x.fault with
    | none => s
    | some f =>
      if x.block != block then s
      else
        match s.warpOf x.warp with
        | some w =>
          if w.ended || w.heldFault.isSome then (s.discardHead core q true).getD s
          else
            match s.discardHead core q false with
            | none => s
            | some s => s.onWarp w.uid (fun w => { w with heldFault := some { cause := f.cause, mask := w.realLanes, addr := f.addr, info := f.info } })
        | none => (s.discardHead core q true).getD s

/-- The faulted heads of a block, lowest sprue first: of a warp's, the first is held (R186). One that a command behind a discarded one records later counts after it (DEDUCED:
log 66). -/
def State.holdFaults (s : State) (b : Block) : State :=
  [0, 1, 2, 3, 4, 5, 6, 7].foldl (fun s q => b.cores.foldl (fun s c => s.holdHead b.uid c q) s) s

/-- What a warp's record says of its quads: a quad parked in `rgang` stands at it again, one in `malloc` at its `malloc`, and the quads of
a warp that gave a slice of a withdrawn `cpc` at that, whatever they have done since. -/
def State.headOf (s : State) (w : Warp) : RecordHead :=
  let req := (s.coreOf w.core).mallocs.find? (fun r => r.warp == w.uid)
  let slice (q : Nat) : Option (BitVec 55) := s.cpcs.findSome? (fun o =>
    if o.cmd.block == w.block then (o.given.find? (fun g => g.1 == w.uid && g.2.2.getLsbD q)).map (fun g => g.2.1) else none)
  let path (q : Nat) : Path :=
    let x := w.quad q
    let p := match x.park with
      | .rgang | .rgangHome => x.before.getD x.path
      | .malloc => match req with | some r => { x.path with pc := r.pc } | none => x.path
      | _ => x.path
    match slice q with | some pc => { p with pc } | none => p
  { paths := quads8.map path,
    park := if w.barrier.isSome then 1 else if w.quads.any (fun q => q.park == .waiting) then 2
            else if w.quads.any (fun q => q.park == .malloc) then 3 else 0,
    barw := match w.barrier with | some x => x.word | none => 0, barph := match w.barrier with | some x => x.gen.toNat | none => 0 }

/-- The record of a warp, in the slot. -/
def State.recordOf (s : State) (cores : Nat) (w : Warp) : Nat × List Byte :=
  (recordAt cores w.wid, w.ctrlImage (s.headOf w) ++ w.moldImage ++ w.vregImage)

/-- The block-memory image; the first word that cannot be rebuilt with its TINFO. -/
def State.imageOf (s : State) (b : Block) : Nat → State × Except (Nat × Nat) (List (Nat × List Byte))
  | 0 => (s, .ok [])
  | n + 1 =>
    match State.imageOf s b n with
    | (s, .error e) => (s, .error e)
    | (s, .ok l) =>
      match s.imageLine b (64 * n) 16 with
      | (s, e :: _, _) => (s, .error e)
      | (s, [], good) => (s, .ok (l ++ good.map (fun c => (256 + c.1, c.2))))

/-- What is kept of a saved warp beside its record. -/
def State.keepWarp (s : State) (w : Warp) : SavedWarp :=
  { uid := w.uid, wid := w.wid, handler := w.handler, retired := w.retired, clocks := (s.coreOf w.core).clk - w.startClk, pours := w.pours,
    steps := w.steps }

/-- Everything that a block holds on its cores is freed (R92 step 7). -/
def State.freeBlock (s : State) (b : Block) : State :=
  let mine (u : Nat) : Bool := s.warps.any (fun w => w.uid == u && w.block == b.uid)
  { s with
    warps := s.warps.filter (fun w => w.block != b.uid), shadows := s.shadows.filter (fun w => w.block != b.uid),
    blocks := s.blocks.filter (fun x => x.uid != b.uid),
    cpcs := s.cpcs.filter (fun o => o.cmd.block != b.uid),
    cores := s.cores.map (fun c =>
      { c with
        windows := c.windows.filter (fun v => v.block != b.uid), shapes := c.shapes.filter (fun r => r.block != some b.uid),
        mallocs := c.mallocs.filter (fun r => !mine r.warp), idleSince := if b.cores.contains c.id then s.hb else c.idleSince }) }

/-- A block evicted whole: its stack lines are written back, its slot is written, and its room is free. A word of the image that cannot be
rebuilt, or a part of the slot that cannot be written, ends the context. -/
def State.evict (s0 : State) (uid : Nat) : State :=
  match s0.blockOf uid with
  | none => s0
  | some b =>
    match s0.taskOf b.die b.task with
    | none => s0
    | some t =>
      let core := dieCore b.die
      let base := s0.slotAddr b.die b.task b.stage b.saveSlot
      let s : State := { s0 with warps := s0.warps.map (fun (w : Warp) => if w.block == uid then w.squash else w) }
      let ws := s.warps.filter (fun w => w.block == uid)
      let s := ws.foldl (fun s w => s.writeBackAll w.uid) (s.noteWork t.ctx)
      if (match s.ctxOf t.ctx with | some c => c.killing | none => true) then s
      else
        match s.imageOf b (b.bmem / 64) with
        | (s, .error (o, info)) => s.failContext t.ctx (coreDie (b.cores.headD 0)) (s.coreNumber (b.cores.headD 0)) ⟨0x0D, o, info⟩
        | (s, .ok image) =>
          let n := b.cores.length
          let chunks := (0, b.header 2 s.hb) :: image ++ (tagsAt n, b.tagBytes) :: s.bankImages b ++ ws.map (s.recordOf n)
          match s.writeChunks noAsker core t.ctx base chunks with
          | (s, some e) => s.failContext t.ctx b.die 0xFFFF e
          | (s, none) =>
            let kept : SavedBlock :=
              { uid, ctx := t.ctx, die := b.die, task := b.task, stage := b.stage, index := b.index, slot := b.saveSlot,
                warps := ws.map s.keepWarp }
            ({ s with saved := s.saved ++ [kept] } : State).freeBlock b

/-- A block evicted as far as can be: issue stops (step 1); once its warps are quiet and its commands go on no further, its faults are held or discarded, for which the event
queue may have to have room; and once nothing is left to wait for it is saved. -/
def State.tryEvict (s : State) (uid : Nat) : State :=
  let s := s.onBlock uid (fun b => { b with leaving := true })
  match s.blockOf uid with
  | none => s
  | some b =>
    if !s.quietBlock uid || s.goesOn uid then s
    else
      let s := s.holdFaults b
      if s.commandsOver uid then s.evict uid else s

/-- A block stands on a cluster that changes partition (03 R51) or that its owner claims (03 R47), or on a core that is to be withdrawn (11 R253). -/
def State.mustGo (s : State) (block : Nat) : Bool :=
  match s.blockOf block with
  | some b => b.cores.any (fun c => s.leaving (coreCluster c) || s.claimed (coreCluster c) || (s.coreOf c).withdrawing)
  | none => false

/-- BLOCK_EVICT: the next victim that makes room for a block (R91), for which that room is reserved (R90); a block on a cluster that changes hands; or one whose eviction has
begun. -/
def execBlockEvict (block : Nat) (s : State) : Out :=
  match s.wantOver block with
  | some w => .next ((s.reserve w).tryEvict block)
  | none => .next (if s.mustGo block || (match s.blockOf block with | some b => b.leaving | none => false) then s.tryEvict block else s)

/-! ### Restore (04 R94, R95, R99) -/

/-- Every resident warp of a context takes a trap at once, parked warps included; false where it has none. -/
def State.trapAll (s : State) (ctx cause addr info : Nat) : Option State :=
  match s.warps.filter (fun w => w.ctx == ctx && !w.ended) with
  | [] => none
  | ws =>
    some (ws.foldl
      (fun s w =>
        let s := (s.squashPair w.uid).unpark w.uid
        match s.warpOf w.uid with
        | some v => (s.takeTrapOf true w.uid (Trap.of cause v.realLanes (v.quad (v.handlerQuads.headD 0)).path.pc.toNat addr info)).settle w.uid
        | none => s)
      s)

/-- TINFO of cause 0x1A (04 Table 4-9). -/
def watchInfo (reason cause : Nat) : Nat := reason * 2 ^ 24 + cause

/-- A restore that failed (R99): the stage restores and starts nothing more. -/
def State.restoreFails (s : State) (b : SavedBlock) (reason cause : Nat) : State :=
  let s := s.onTask b.die b.task (fun t => { t with stages := modifyAt (fun g => { g with stuck := true }) b.stage t.stages })
  let base := s.slotAddr b.die b.task b.stage b.slot
  match s.trapAll b.ctx 0x1A base (watchInfo reason cause) with
  | some s => s
  | none => s.failContext b.ctx b.die 0xFFFF ⟨0x1A, base, watchInfo reason cause⟩

/-- The header of a slot does not fit its stage. -/
def headerBad (d : StageDesc) (h : List Byte) : Bool :=
  leAt h 0 4 != 1 || leAt h 13 1 != d.cores || leAt h 14 2 != d.nwarp || leAt h 16 4 != d.bmem

/-- A warp from its record: its quads resume as R95 gives. -/
def Warp.ofRecord (w : Warp) (kept : SavedWarp) (clk k : Nat) (l : List Byte) : Warp :=
  let w := (w.applyCtrl (BitVec.ofNat 32 (leAt l 36 4)) clk k l).applyVregs (l.drop 4480)
  let at' := leAt l 7 1 == 1
  let handler : BitVec 8 := if w.inTrap then kept.handler else 0
  let quads := quads8.map (fun q =>
    let x := w.quad q
    if at' && x.alive && !handler.getLsbD q then { x with park := .barrier } else x)
  { w with
    quads, handler, barrier := if at' then some { word := leAt l 44 4, gen := BitVec.ofNat 16 (leAt l 48 2) } else none,
    ended := !quads.any (fun q => q.alive), retired := kept.retired, startClk := clk - kept.clocks, pours := kept.pours, steps := kept.steps }

/-- The warps of a saved block restored one by one: REASON and CAUSE where a record cannot be. -/
def State.restoreWarps (s : State) (b : Block) (d : StageDesc) (ctx base : Nat) (places : List (Nat × Nat)) :
    List SavedWarp → State × Option (Nat × Nat)
  | [] => (s, none)
  | k :: ks =>
    let core := b.cores.getD (k.wid % max 1 b.cores.length) 0
    let slot := ((places.find? (fun p => p.1 == k.wid)).map (fun p => p.2)).getD 0
    match s.readRange noAsker (dieCore b.die) ctx (base + recordAt b.cores.length k.wid) (4480 + 1024 * d.vregs) with
    | (s, .error e) => (s, some (2, e.cause))
    | (s, .ok l) =>
      if leAt l 0 4 != 1 then (s, some (1, 0))
      else
        let (helper, absent) := d.strangers k.wid
        let clk := (s.coreOf core).clk
        let (g, s) := s.newUid
        let w := (Warp.fresh k.uid core slot b.uid ctx k.wid helper absent (8 * d.vregs) d.uregs 0 0 clk).ofRecord k clk g l
        match ({ s with warps := s.warps ++ [w] } : State).applyImage k.uid b core 3 (l.drop 1600) with
        | (s, some e) => (s, some (3, e.cause))
        | (s, none) => State.restoreWarps s b d ctx base places ks

/-- Where a job goes on when a block has been restored (03 R49): at the ladle of the cluster where its first pushing warp of the block runs, or with none its opener, unless another
warp that pushes to it runs where it is. -/
def State.moveJobs (s : State) (b : Block) : State :=
  s.jobs.foldl
    (fun s j =>
      let pushers := if j.pushers == [] then [j.warp] else j.pushers
      let mine := s.warps.find? (fun w => w.block == b.uid && pushers.contains w.uid)
      let stays := s.warps.any (fun w => w.block != b.uid && pushers.contains w.uid && coreCluster w.core == j.cluster)
      match mine with
      | some w => if stays || j.cluster == coreCluster w.core then s else s.moveJob j.uid (coreCluster w.core)
      | none => s)
    s

/-- Warps parked at barrier words see the generations there; held faults of the others are delivered. -/
def State.wakeRestored (s : State) (b : Block) : State :=
  let mine (s : State) : List Warp := s.warps.filter (fun w => w.block == b.uid && !w.ended)
  let s := (mine s).foldl
    (fun s w =>
      match w.barrier with
      | some x =>
        match s.readSpace .block (b.key x.word) 9 8 with
        | (s, .ok v) => s.showGen b.uid x.word (BarWord.ofNat v).gen
        | (s, .error _) => s
      | none => s)
    s
  (mine s).foldl (fun s w => if w.inTrap then s else s.deliverHeld w.uid) s

/-- A saved block restored on a set: block memory, tags, banks and records in that order, and then its warps are released. -/
def State.restore (s0 : State) (w : Want) (k : SavedBlock) (set : List Nat) (header : List Byte) : State :=
  let d := w.desc
  let base := s0.slotAddr k.die k.task k.stage k.slot
  let places := s0.warpSlots d w.task.rec'.paired set
  let (s, bases) := s0.chooseBases d set d.cores
  let b := w.block k.uid k.slot set bases ((List.range d.cores).map (fun j => BitVec.ofNat 64 (leAt header (64 + 8 * j) 8)))
  match ({ s with blocks := s.blocks ++ [b] } : State).applyBlock noAsker (dieCore k.die) k.ctx b base header with
  | (_, some e) => s0.restoreFails k 2 e.cause
  | (s, none) =>
    match s.restoreWarps (s.blockAt k.uid) d k.ctx base places k.warps with
    | (_, some (reason, cause)) => s0.restoreFails k reason cause
    | (s, none) =>
      let s := State.addShadows { s with saved := s.saved.filter (fun x => x.uid != k.uid) } k.uid
      let s := ((s.notePlace w k.slot k.uid set).noteWork k.ctx).setSlotState k.die k.task k.stage k.slot 1
      (s.moveJobs b).wakeRestored b

/-- BLOCK_RESTORE: the saved block of a stage with the lowest index. -/
def execBlockRestore (die idx stage : Nat) (s : State) : Out :=
  match s.wanted die idx stage with
  | none => .next s
  | some w =>
    match w.saved with
    | none => .next s
    | some k =>
      match s.readRange noAsker (dieCore k.die) k.ctx (s.slotAddr k.die k.task k.stage k.slot) 256 with
      | (s, .error e) => .next (s.restoreFails k 2 e.cause)
      | (s, .ok header) =>
        if headerBad w.desc header then .next (s.restoreFails k 1 0)
        else match s.placement w with | some set => .next (s.restore w k set header) | none => .next s

/-! ### The watchdog (04 R100) -/

/-- WATCHDOG_FIRE: the count of a context has reached its interval. -/
def execWatchdogFire (ctx : Nat) (s : State) : Out :=
  match s.ctxOf ctx with
  | none => .next s
  | some c =>
    if c.watchdog == 0 || c.count < c.watchdog then .next s
    else .next (((s.onCtx ctx (fun c => { c with count := 0 })).trapAll ctx 0x1A 0 (watchInfo 0 0)).getD (s.onCtx ctx (fun c => { c with count := 0 })))

/-- What the resident warps of a context have retired. -/
def State.retiredBy (s : State) (ctx : Nat) : BitVec 64 :=
  (s.warps.filter (fun w => w.ctx == ctx)).foldl (fun n w => n + w.retired) 0

/-- A quad is parked by `wait.ext`. -/
def Warp.waitsOutside (w : Warp) (q : Nat) : Bool := (w.quad q).park == .waiting && w.waits.any (fun x => x.ext && x.quads.getLsbD q)

/-- The watchdog count of a context at a heartbeat edge. -/
def State.watch (s : State) (c : Context) : Context :=
  let ws := s.warps.filter (fun w => w.ctx == c.id && !w.ended)
  let counts := ws != [] && s.retiredBy c.id == c.retiredSum && c.activeHb != s.hb
    && ws.any (fun w => w.aliveQuads.any (fun q => !w.waitsOutside q)) && !s.saved.any (fun b => b.ctx == c.id)
  { c with count := if c.watchdog != 0 && counts then c.count + 1 else 0, retiredSum := s.retiredBy c.id }

/-- Every watchdog at a heartbeat edge. -/
def State.watchAll (s : State) : State := { s with contexts := s.contexts.map s.watch }

end Sys2Proof.Machine
end

