-- ==== Sys2Proof/Machine/Partitions.lean ====
section
/-!
DEFINITION. Partitions (03 R44 to R60): changing the layout, lending and claiming margin clusters, scrubbing, and the time slices of
virtual devices. An event that is not enabled changes nothing.
-/
namespace Sys2Proof.Machine

/-! ### Descriptors (R45) -/

/-- A run of units lies within a list of ranges, taken together. -/
def covered (ranges : List (Nat × Nat)) : Nat → Nat → Nat → Bool
  | 0, _, n => n == 0
  | fuel + 1, lo, n =>
    if n == 0 then true
    else
      match ranges.find? (fun r => r.1 ≤ lo && lo < r.1 + r.2) with
      | none => false
      | some r => let k := r.1 + r.2 - lo; if n ≤ k then true else covered ranges fuel (lo + k) (n - k)
def within (ranges : List (Nat × Nat)) (lo n : Nat) : Bool := covered ranges (ranges.length + 1) lo n

/-- Two lists of ranges share a unit. -/
def rangesMeet (a b : List (Nat × Nat)) : Bool := a.any (fun x => b.any (fun y => x.2 != 0 && y.2 != 0 && overlap x.1 x.2 y.1 y.2))

/-- Two partitions share a cluster, a granule or a megabyte of scratchpad. -/
def partsMeet (a b : PartDesc) : Bool :=
  ((a.guar ||| a.margin) &&& (b.guar ||| b.margin)) != 0 || rangesMeet a.hbm b.hbm
    || [0, 1, 2, 3].any (fun d => rangesMeet [a.spad.getD d (0, 0)] [b.spad.getD d (0, 0)])

/-- A descriptor that is refused by itself. -/
def partBad (d : PartDesc) : Bool :=
  d.guar == 0 || (d.guar &&& d.margin) != 0 || d.reserved != 0 || d.pid > 31 || d.saveBw == 0 || d.saveBw > 24600
    || d.hbm.any (fun r => decide (r.2 != 0 && (r.1 + r.2) * 65536 > paLimit)) || d.spad.any (fun r => decide (r.2 != 0 && r.1 + r.2 > 64))

/-- A table that is refused. -/
def tableBad : List PartDesc → Bool
  | [] => false
  | d :: ds => partBad d || ds.any (fun e => e.pid == d.pid || partsMeet d e) || tableBad ds

/-! ### Mapped memory (R53) -/

/-- The entries of a page table that hold anything: their places and values. -/
def State.tableEntries (s : State) (table : Nat) : List (Nat × BitVec 64) :=
  (((s.dev.filter (fun c => decide (table ≤ c.1 ∧ c.1 < table + 65536))).map (fun c => c.1 / 8)).eraseDups).map
    (fun k => (k - table / 8, BitVec.ofNat 64 (s.dev.read (8 * k) 8)))

/-- The pages that a page table maps, from an address on: their addresses, entries, and whether they are of 512 MiB. -/
def State.leavesOf (s : State) : Nat → Nat → Nat → Nat → List (Nat × BitVec 64 × Bool)
  | 0, _, _, _ => []
  | fuel + 1, table, level, va =>
    (s.tableEntries table).flatMap (fun x =>
      let a := va + x.1 * 2 ^ (if level == 1 then 42 else if level == 2 then 29 else 16)
      if !bitAt x.2 0 || entryReserved x.2 level then []
      else if bitAt x.2 1 then (if level == 1 then [] else [(a, x.2, level == 2)])
      else State.leavesOf s fuel (bitField x.2 16 24 * 65536) (level + 1) a)

/-- The granules of this package's memory that a page table maps, as ranges. -/
def State.mappedBy (s : State) (root : Nat) : List (Nat × Nat) :=
  (s.leavesOf 3 root 1 0).filterMap (fun x =>
    let pkg := bitField x.2.1 40 10
    if pkg == 0x3FF || pkg == s.pkg.toNat then some (bitField x.2.1 16 24, if x.2.2 then 8192 else 1) else none)

/-- A change takes memory away that a context of its partition maps. -/
def State.unmapsMemory (s : State) (new : List PartDesc) : Bool :=
  s.contexts.any (fun c =>
    match s.partOfCtx c.id with
    | none => false
    | some p =>
      let after := match new.find? (fun d => d.pid == p.desc.pid) with | some d => d.hbm | none => []
      (s.mappedBy c.root).any (fun r => within p.desc.hbm r.1 r.2 && !within after r.1 r.2))

/-- A change raises a partition's worst-case save time above a quantum. -/
def State.outgrowsSlice (s : State) (parts : List PartDesc) : Bool :=
  parts.any (fun d => s.vdevs.any (fun v => v.pid == d.pid && decide (v.quantum < s.saveTime d)))

/-! ### Scrubbing (R49, R50) -/

/-- A core of a cluster. -/
def inCluster (k core : Nat) : Bool := coreCluster core == k

/-- A cluster's storage zeroed and its caches and parity state cleared; the departing partition's entries leave the die's translation
cache. Retired banks stay retired. -/
def State.scrub (s : State) (k : Nat) (departing : Option Nat) : State :=
  let here (id : GroupId) : Bool := id.space == .block && inCluster k id.home
  let gone (l : Nat × CachedLeaf) : Bool :=
    l.1 == k / 8 && match departing, s.partOfCtx l.2.ctx with | some pid, some p => p.desc.pid == pid | _, _ => false
  { s with
    banks := s.banks.zero (bankBase (14 * k) 0) (14 * 262144), badBankWords := s.badBankWords.filter (fun e => !inCluster k (4 * e.1 / 262144)),
    bmem := s.bmem.zero (14 * k * 262144) (14 * 262144),
    parity := s.parity.filter (fun e => !inCluster k (e.1 / 2 ^ 22)),
    groups := (s.groups.map (fun g => if here g.id then { Group.reset g.id with retired := g.retired, reports := g.reports } else g)).filter
      (fun g => g != Group.reset g.id),
    bankErrors := s.bankErrors.filter (fun e => !here e.id),
    dieLeaves := s.dieLeaves.filter (fun l => !gone l),
    cores := s.cores.map (fun c => if inCluster k c.id then { c with leaves := [], shapes := [], icache := [] } else c) }

/-- The ladle of a cluster writes the entries of every open job to its spill area. -/
def State.emptyLadle (s : State) (k : Nat) : State := (s.jobs.filter (fun j => j.cluster == k)).foldl (fun s j => s.spillOut j.uid) s

/-- Nothing is resident on a cluster and its engines have finished; a `cpv` all of whose lines are held stays (04 R92 step 5). -/
def State.clusterIdle (s : State) (k : Nat) : Bool :=
  !s.blocks.any (fun b => b.cores.any (inCluster k))
    && !s.cores.any (fun c => inCluster k c.id && c.sprues.any (fun q => q.any (fun x => !(x.over && x.heldWrites != 0))))
    && !s.jobs.any (fun j => j.cluster == k && j.status == 1)

/-! ### Changing the layout (R51 to R53) -/

/-- LAYOUT_COMMIT: a change that R45 or R53 refuses, or whose tick would be named less than 16 ahead, commits nothing; one that comes during
another waits. -/
def execLayoutCommit (parts : List PartDesc) (ahead : BitVec 64) (s : State) : Out :=
  let new := mergeParts (s.parts.map (fun p => p.desc)) parts
  if s.change.isSome || s.life == .retired then .next s
  else if tableBad new || ahead.toNat < 16 || s.unmapsMemory new || s.outgrowsSlice parts then .next { s with out := s.out ++ [.error] }
  else .next { s with change := some { parts, ahead, since := s.ns, tick := none }, out := s.out ++ [.ok] }

/-- A context belongs to a partition that a change names. -/
def State.changing (s : State) (c : LayoutChange) (ctx : Nat) : Bool :=
  match s.partOfCtx ctx with | some p => c.parts.any (fun d => d.pid == p.desc.pid) | none => false

/-- Step 2 of a change is over: the clusters that change partition are empty, and what home slices and ports have accepted for the changed
partitions is done. -/
def State.changeQuiet (s : State) (c : LayoutChange) : Bool :=
  (List.range 32).all (fun k => !s.leaving k || s.clusterIdle k)
    && !s.channels.any (fun o => match s.warpOf o.warp with | some w => s.changing c w.ctx | none => false)
    && !s.heldWrites.any (fun h => s.changing c h.ctx)

/-- The units that a partition gains. -/
def gained (old new : List (Nat × Nat)) : List (Nat × Nat) :=
  new.flatMap (fun r => ((List.range r.2).filter (fun i => !within old (r.1 + i) 1)).map (fun i => (r.1 + i, 1)))

/-- A megabyte of a die's scratchpad zeroed, with its parity: 64 rows of every group. -/
def State.zeroSpad (s : State) (die mb : Nat) : State :=
  let inside (row : Nat) : Bool := row / 64 == mb
  let mine (id : GroupId) : Bool := id.space == .spad && id.home == die
  let clear (g : Group) : Group :=
    ({ g with
      queue := g.queue.filter (fun e => !inside e.1), lost := g.lost.filter (fun l => !inside l.1),
      recompute := g.recompute.filter (fun r => !inside r) } : Group).restale
  { s with
    spad := s.spad.zero (die * 2 ^ 26 + mb * 2 ^ 20) (2 ^ 20),
    parity := s.parity.filter (fun e => !(e.1 / 2 ^ 22 == 512 + die && inside (e.1 % 4096))),
    groups := (s.groups.map (fun g => if mine g.id then clear g else g)).filter (fun g => g != Group.reset g.id),
    bankErrors := s.bankErrors.filter (fun e => !(mine e.id && inside e.row)) }

/-- The memory and scratchpad that a partition gains set to zero. -/
def State.zeroGained (s : State) (d : PartDesc) : State :=
  let old := s.partOf d.pid
  let hbm := gained (match old with | some p => p.desc.hbm | none => []) d.hbm
  let s : State := hbm.foldl
    (fun s r =>
      { s with
        dev := s.dev.zero (65536 * r.1) (65536 * r.2),
        badLines := s.badLines.filter (fun e => !(1024 * r.1 ≤ e.1 && e.1 < 1024 * (r.1 + r.2))) })
    s
  [0, 1, 2, 3].foldl
    (fun s die =>
      let was := match old with | some p => [p.desc.spad.getD die (0, 0)] | none => []
      (gained was [d.spad.getD die (0, 0)]).foldl (fun s r => s.zeroSpad die r.1) s)
    s

/-- The new tables in use at once. -/
def State.swapTables (s : State) (c : LayoutChange) : State :=
  let old := s.parts.map (fun p => p.desc)
  let new := mergeParts old c.parts
  let moved := (List.range 32).filter s.leaving
  let departs (k : Nat) : Option Nat := ((s.margins.find? (fun m => m.cluster == k)).bind (fun m => m.lentTo)).or (holderOf old k)
  let s := moved.foldl (fun s k => (s.emptyLadle k).scrub k (departs k)) s
  let s := (c.parts.foldl State.zeroGained s).dropLeaves (fun l => !s.changing c l.ctx)
  { s with
    parts := new.map (fun d =>
      match s.partOf d.pid with | some p => { p with desc := d } | none => { desc := d, running := none, since := s.ns, turn := none }),
    margins := ((List.range 32).filter (fun k => new.any (fun d => bitAt d.margin k))).map (fun k =>
      match s.margins.find? (fun m => m.cluster == k && !moved.contains k) with
      | some m => m
      | none => { cluster := k, quiet := 0, busy := false, idle := false, lentTo := none, claimed := false }),
    change := none }

/-- Step 2 has taken more than 1 ms (R52). -/
def State.late (s : State) (c : LayoutChange) : Bool := decide ((s.ns - c.since).toNat > 1000000)

/-- LAYOUT_SWAP: once step 2 is over, within 1 ms, the tick of the swap is named; the tables swap at the first edge of that tick (`State.edge`). -/
def execLayoutSwap (s : State) : Out :=
  match s.change with
  | none => .next s
  | some c =>
    .next (if c.tick.isNone && !s.late c && s.changeQuiet c then { s with change := some { c with tick := some (s.hb + c.ahead) } } else s)

/-- LAYOUT_ABANDON: step 2 has not finished within 1 ms. -/
def execLayoutAbandon (s : State) : Out :=
  match s.change with
  | none => .next s
  | some c => .next (if c.tick.isNone && s.late c then { s with change := none } else s)

/-! ### Margin clusters (R46 to R49) -/

/-- The partition that owns a margin cluster. -/
def State.marginOwner (s : State) (k : Nat) : Option Partition := s.parts.find? (fun p => bitAt p.desc.margin k)
def State.marginOf (s : State) (k : Nat) : Option MarginState := s.margins.find? (fun m => m.cluster == k)
def State.onMargin (s : State) (k : Nat) (f : MarginState → MarginState) : State :=
  { s with margins := s.margins.map (fun m => if m.cluster == k then f m else m) }

/-- A task belongs to a partition. -/
def State.taskIn (s : State) (pid : Nat) (t : Task) : Bool := match s.partOfCtx t.ctx with | some p => p.desc.pid == pid | none => false

/-- A block belongs to a partition. -/
def State.blockIn (s : State) (pid : Nat) (b : Block) : Bool := match s.taskOf b.die b.task with | some t => s.taskIn pid t | none => false

/-- The scheduler would place a block of a partition on a cluster. -/
def State.wouldPlace (s : State) (pid k : Nat) : Bool :=
  s.tasks.any (fun t => s.serves t && s.taskIn pid t && (s.wantsOf t).any (fun w =>
    match s.placeOf w with | some set => set.any (inCluster k) | none => false))

/-- The owner has a block on a margin cluster, or would place one there. -/
def State.ownerBusy (s : State) (k : Nat) : Bool :=
  match s.marginOwner k with
  | some p => s.blocks.any (fun b => s.blockIn p.desc.pid b && b.cores.any (inCluster k)) || s.wouldPlace p.desc.pid k
  | none => true

/-- Every margin cluster at a heartbeat edge: one with work of its owner at either edge of the heartbeat, or started in it, has not been quiet in it. -/
def State.watchMargins (s : State) : State :=
  { s with margins := s.margins.map (fun m =>
      let now := s.ownerBusy m.cluster
      if m.lentTo.isSome then m
      else if m.busy || now then { m with quiet := 0, busy := now, idle := false }
      else { m with quiet := m.quiet + 1 }) }

/-- MARGIN_IDLE. -/
def execMarginIdle (cluster : Nat) (s : State) : Out :=
  match s.marginOf cluster with
  | none => .next s
  | some m =>
    .next (if m.lentTo.isNone && decide (m.quiet ≥ 64) && !m.busy && !s.ownerBusy cluster then
        s.onMargin cluster (fun m => { m with idle := true })
      else s)

/-- The save time of one cluster for a partition (R48). -/
def clusterSaveTime (d : PartDesc) : Nat := 10 + ceilDiv (14 * (9240576 + 64 * 37248)) (1000 * max 1 d.saveBw)

/-- A partition may borrow a margin cluster now. -/
def State.mayBorrow (s : State) (owner : PartDesc) (k : Nat) (q : Partition) : Bool :=
  q.desc.pid != owner.pid && bitAt owner.lendTo q.desc.pid && (List.range 32).any (fun c => bitAt q.desc.guar c && c / 8 == k / 8)
    && clusterSaveTime q.desc ≤ 230 && s.tasks.any (fun t => s.serves t && s.taskIn q.desc.pid t && s.wantsOf t != [])

/-- The partition with the lowest number. -/
def lowestPart : List Partition → Option Partition
  | [] => none
  | p :: ps => match lowestPart ps with | some q => if q.desc.pid < p.desc.pid then some q else some p | none => some p

/-- CLUSTER_LEND. -/
def execClusterLend (cluster : Nat) (s : State) : Out :=
  match s.marginOf cluster, s.marginOwner cluster with
  | some m, some p =>
    if !m.idle || m.busy || m.lentTo.isSome || s.ownerBusy cluster || !s.clusterIdle cluster || s.leaving cluster then .next s
    else
      match lowestPart (s.parts.filter (s.mayBorrow p.desc cluster)) with
      | none => .next s
      | some q =>
        .next (((s.emptyLadle cluster).scrub cluster (some p.desc.pid)).onMargin cluster (fun m => { m with idle := false, lentTo := some q.desc.pid, claimed := false }))
  | _, _ => .next s

/-- The owner's scheduler would place a block on a lent cluster if it had it back. -/
def State.wouldClaim (s : State) (owner k : Nat) : Bool :=
  let mine (b : Nat) : Bool := match s.blockOf b with | some b => b.cores.any (inCluster k) | none => false
  let s' := ({ s with warps := s.warps.filter (fun w => !mine w.block), blocks := s.blocks.filter (fun b => !b.cores.any (inCluster k)) } : State)
  (s'.onMargin k (fun m => { m with lentTo := none, claimed := false })).wouldPlace owner k

/-- CLUSTER_CLAIM: from the claim on nothing of the borrower starts on the cluster and its blocks there leave; once they are gone the cluster is scrubbed and returns to its
owner. -/
def execClusterClaim (cluster : Nat) (s : State) : Out :=
  match s.marginOf cluster, s.marginOwner cluster with
  | some m, some p =>
    if m.lentTo.isNone || !(m.claimed || s.wouldClaim p.desc.pid cluster) then .next s
    else
      let s := s.onMargin cluster (fun m => { m with claimed := true })
      let s := (s.blocks.filter (fun b => b.cores.any (inCluster cluster))).foldl (fun s b => s.tryEvict b.uid) s
      .next (if !s.clusterIdle cluster then s
        else
          ((s.emptyLadle cluster).scrub cluster m.lentTo).onMargin cluster (fun m =>
            { m with lentTo := none, claimed := false, idle := false, quiet := 0, busy := false }))
  | _, _ => .next s

/-! ### Time slices (R56, R57) -/

/-- Virtual time is counted in parts of a nanosecond that every weight divides. -/
def vtimeUnit : Nat := (List.range 256).foldl (fun a k => Nat.lcm a (max 1 k)) 1

/-- The device of least virtual time, then of least number. -/
def leastTime : List VDev → Option VDev
  | [] => none
  | v :: vs =>
    match leastTime vs with
    | some u => if u.vtime < v.vtime || (u.vtime == v.vtime && decide (u.num < v.num)) then some u else some v
    | none => some v

/-- The device of weight 0 whose turn comes next: the lowest number above the last, else the lowest. -/
def leastNum : List VDev → Option VDev
  | [] => none
  | v :: vs => match leastNum vs with | some u => if u.num < v.num then some u else some v | none => some v
def nextTurn (last : Option Nat) (vs : List VDev) : Option VDev :=
  match leastNum (vs.filter (fun v => match last with | some n => decide (n < v.num) | none => true)) with
  | some v => some v
  | none => leastNum vs

/-- The time that the running device has run, charged to it: by the weight that it has at the end of the slice (DESIGN CHOICE: log 67). -/
def State.charge (s : State) (p : Partition) : State :=
  match p.running with
  | none => s
  | some n => s.onVd n (fun v => if v.weight == 0 then v else { v with vtime := v.vtime + (s.ns - p.since).toNat * vtimeUnit / v.weight })

/-- The device that runs next. -/
def State.nextDevice (s : State) (p : Partition) : Option VDev :=
  let ready := s.vdevs.filter (fun v => v.pid == p.desc.pid && s.hasWork v)
  match leastTime (ready.filter (fun v => v.weight != 0)) with
  | some v => some v
  | none => nextTurn p.turn ready

/-- The slice of the running device is over: its quantum has passed, it has no work, or it has weight 0 and a device of weight 1 or more has work. -/
def State.sliceOver (s : State) (p : Partition) : Bool :=
  match p.running.bind s.vdOf with
  | none => true
  | some v =>
    !s.hasWork v || decide ((s.ns - p.since).toNat ≥ 1000 * v.quantum)
      || (v.weight == 0 && s.vdevs.any (fun u => u.pid == v.pid && u.weight != 0 && s.hasWork u))

/-- TIME_SLICE_SWITCH. -/
def execTimeSliceSwitch (pid : Nat) (s : State) : Out :=
  match s.partOf pid with
  | none => .next s
  | some p =>
    if !s.sliceOver p then .next s
    else
      let s := s.charge p
      let next := s.nextDevice p
      let turn := match next with | some v => if v.weight == 0 then some v.num else p.turn | none => p.turn
      .next { s with parts := s.parts.map (fun q =>
        if q.desc.pid == pid then { q with running := next.map (fun v => v.num), since := s.ns, turn } else q) }

/-! ### An edge of the heartbeat (01 R22) -/

/-- The counter advances: the watchdogs count, the margin clusters are watched, and at the tick named for it a layout is swapped. -/
def State.edge (s : State) : State :=
  let s : State := { s.watchAll.watchMargins with hb := s.hb + 1, edgeNs := s.ns }
  match s.change with
  | some c => (match c.tick with | some t => if t.toNat ≤ s.hb.toNat then s.swapTables c else s | none => s)
  | none => s

end Sys2Proof.Machine
end

