-- ==== Sys2Proof/Machine/Devices.lean ====
section
/-!
DEFINITION. Virtual devices (03 R54 to R64), trusted interfaces (R66 to R69), attestation (R70 to R72) and the error log (11 R258): what the
management processor does. Requests without an operand act on the virtual device that `focus` names; an answer goes to `out`. An event
that is not enabled changes nothing.
-/
namespace Sys2Proof.Machine

/-- An answer on the management channel. -/
def State.answer (s : State) (m : Message) : State := { s with out := s.out ++ [m] }

/-! ### The configuration region (R54, R72; 02 R26) -/

/-- A queue descriptor as after creation: TAIL and TAKEN point at the sentinel block. -/
def State.placeQueue (s : State) (q : QueueInfo) : State :=
  let s := s.writeDev q.desc (leBytes 8 (q.desc + 64) ++ leBytes 8 (q.desc + 64) ++ leBytes 1 q.die ++ leBytes 1 (boolNat q.enable) ++ leBytes 46 0) none
  s.writeDev (q.desc + 64) (leBytes 32 0 ++ leBytes 4 2 ++ leBytes 28 0) none

/-- The windows, the queue descriptors and the signal targets and cookies of a device, as the interface report lists them. -/
def State.configBytes (s : State) (v : VDev) : List Byte :=
  v.windows.flatMap (fun w => leBytes 8 w.1.toNat ++ leBytes 8 w.2.toNat)
    ++ (List.range 16).flatMap (fun i => match v.queues[i]? with | some q => s.dev.bytes q.desc 128 | none => leBytes 128 0)
    ++ v.vectors.flatMap (fun x => leBytes 8 x.target.toNat ++ leBytes 8 x.cookie.toNat)

/-- CREATE_VIRTUAL_DEVICE (R59; 02 R26, R34): the host is given the address of each queue descriptor. Every queue is in service at creation (DESIGN CHOICE: log 70). -/
def execCreateVirtualDevice (spec : VDevSpec) (s : State) : Out :=
  let num := 16 * spec.pid + spec.num
  match s.partOf spec.pid with
  | none => .next (s.answer .error)
  | some p =>
    if s.life == .retired || spec.num > 15 || (s.vdOf num).isSome || spec.dies.length > 16 || spec.dies.any (fun d => decide (d > 3))
        || spec.configAt % 64 != 0 || spec.configAt + 2048 > paLimit then .next (s.answer .error)
    else
      let queues := (List.range spec.dies.length).map (fun i => { desc := spec.configAt + 128 * i, die := spec.dies.getD i 0, enable := true : QueueInfo })
      let v : VDev :=
        { num, pid := spec.pid, host := spec.host, configAt := spec.configAt, windows := (List.range 16).map (fun _ => (0, 0)), queues,
          vectors := (List.range 64).map (fun _ => { target := 0, pkg := 0, cookie := 0, mask := false, pending := false }),
          arms := [], weight := 1, quantum := max 1000 (s.saveTime p.desc), wall := false, vtime := 0, timeOff := 0, pausing := false, paused := none,
          pausedHb := 0, away := none, gained := false,
          iface := .unlocked, digest := leBytes 64 0, session := false, exchanged := false, log := [], logSeq := 0 }
      let s := queues.foldl (fun (s : State) q => s.placeQueue q) { s with vdevs := s.vdevs ++ [v] }
      .next ((s.answer (.queues v.host (queues.map (fun q => q.desc)))).answer .ok)

/-! ### Writes to the configuration region (R54, R55, R67, R68) -/

/-- Every context of a device is killed as far as KILL_CONTEXT does before write quiescence. -/
def State.killDevice (s : State) (num : Nat) : State :=
  (s.contexts.filter (fun c => c.vd == num)).foldl (fun s c => s.killContext c.id) s

/-- Entry to ERROR (R68). -/
def State.enterError (s : State) (num : Nat) : State :=
  (s.killDevice num).onVd num (fun v => { v with iface := .error, vectors := v.vectors.map (fun x => { x with pending := false }) })

/-- A write to a register that freezes at lock: it has no effect on a frozen register, and brings a locked or running interface to ERROR. -/
def State.freely (s : State) (v : VDev) (f : State) : State :=
  match v.iface with
  | .unlocked => f
  | .error => s
  | .locked | .run => s.enterError v.num

/-- A window lies inside its partition (R54). -/
def windowInside (d : PartDesc) (w : BitVec 64 × BitVec 64) : Bool :=
  let base := bitField w.1 16 24
  let len := bitField w.2 0 24
  if !bitAt w.1 63 then true
  else if bitField w.1 61 2 == 0 then within d.hbm base len
  else
    let r := d.spad.getD (bitField w.1 59 2) (0, 0)
    within [(16 * r.1, 16 * r.2)] base len

/-- WINDOW_REGISTER_WRITE. -/
def execWindowRegisterWrite (vd win : Nat) (len : Bool) (value : BitVec 64) (s : State) : Out :=
  match s.vdOf vd with
  | none => .next s
  | some v =>
    let old := v.windows.getD win (0, 0)
    let new := if len then (old.1, value) else (value, old.2)
    let reserved := if len then bitField value 24 40 != 0 else bitField value 40 19 != 0 || bitField value 0 16 != 0 || bitField value 61 2 > 1
    let inside := match s.partOf v.pid with | some p => windowInside p.desc new | none => false
    .next (s.freely v (if win > 15 || reserved || !inside then s
      else s.onVd vd (fun v => { v with windows := modifyAt (fun _ => new) win v.windows })))

/-- CONFIG_REGION_WRITE: a queue's DIE and ENABLE, its address, or a signal target and cookie. -/
def execConfigRegionWrite (vd : Nat) (write : ConfigWrite) (s : State) : Out :=
  match s.vdOf vd with
  | none => .next s
  | some v =>
    .next (s.freely v (match write with
      | .queue k die enable =>
        match v.queues[k]? with
        | none => s
        | some q =>
          if die > 3 then s
          else
            let s := s.onVd vd (fun v => { v with queues := modifyAt (fun q => { q with die, enable }) k v.queues })
            s.writeDev (q.desc + 16) (leBytes 1 die ++ leBytes 1 (boolNat enable)) none
      | .queueAddress k pa =>
        match v.queues[k]? with
        | none => s
        | some q =>
          if pa % 64 != 0 || pa + 128 > paLimit then s
          else (s.onVd vd (fun v => { v with queues := modifyAt (fun q => { q with desc := pa }) k v.queues })).placeQueue { q with desc := pa }
      | .target k addr pkg cookie => s.onVector vd k (fun x => { x with target := addr, pkg, cookie })))

/-! ### Pausing, resuming, migrating (R61 to R63) -/

/-- A context belongs to a device; its blocks. -/
def State.ofDevice (s : State) (num ctx : Nat) : Bool := match s.ctxOf ctx with | some c => c.vd == num | none => false
def State.deviceBlocks (s : State) (num : Nat) : List Block :=
  s.blocks.filter (fun b => match s.taskOf b.die b.task with | some t => s.ofDevice num t.ctx | none => false)

/-- A running slice of a device ended. -/
def State.endSlice (s : State) (v : VDev) : State :=
  match s.partOf v.pid with
  | none => s
  | some p =>
    if p.running != some v.num then s
    else
      let s := s.charge p
      { s with parts := s.parts.map (fun q => if q.desc.pid == v.pid then { q with running := none, since := s.ns } else q) }

/-- PAUSE_DEVICE: no block of its queues is taken and nothing of it starts from then on; its resident blocks are evicted, and once they are gone and no piece of a HOST_COPY is under
way the ladles spill, and T is recorded. -/
def execPauseDevice (vd : Nat) (s : State) : Out :=
  match s.vdOf vd with
  | none => .next (s.answer .error)
  | some v =>
    if v.paused.isSome then .next (s.answer .error)
    else
      let s := s.onVd vd (fun v => { v with pausing := true })
      let s := (s.deviceBlocks vd).foldl (fun s b => s.tryEvict b.uid) s
      .next (if s.deviceBlocks vd != [] || s.commands.any (fun c => c.vd == vd && c.code == 6 && s.midPiece c) then s
        else
          let s := (s.jobs.filter (fun j => s.ofDevice vd j.ctx && j.status == 0)).foldl (fun s j => s.spillOut j.uid) s
          ((s.endSlice v).onVd vd (fun v => { v with paused := some (s.guestTime v), pausedHb := s.hb, pausing := false })).answer .ok)

/-- How long a device has been paused, in ns: by heartbeats, or as another package's management processor says (02 R43). -/
def State.pauseLength (s : State) (v : VDev) : BitVec 64 := v.away.getD ((s.hb - v.pausedHb) * 128)

/-- TIME at which a device resumes (02 R43). -/
def State.resumeTime (s : State) (v : VDev) (t : BitVec 64) : BitVec 64 :=
  let d := s.pauseLength v
  if v.wall && t.toNat < (t + d).toNat then t + d else t + 1

/-- A paused device resumes (R62); one that gained work meanwhile takes its virtual time now (R56). -/
def State.resumeDevice (s : State) (v : VDev) (t : BitVec 64) : State :=
  let s := if v.gained then s.raiseTime v else s
  s.onVd v.num (fun v => { v with paused := none, timeOff := s.resumeTime v t - s.ns, away := none, gained := false })

/-- RESUME_DEVICE. -/
def execResumeDevice (vd : Nat) (s : State) : Out :=
  match s.vdOf vd with
  | none => .next (s.answer .error)
  | some v => match v.paused with | none => .next (s.answer .error) | some t => .next ((s.resumeDevice v t).answer .ok)

/-- Bytes of windows of a kind: of device memory, or of a die's scratchpad. -/
def VDev.holdsKey (v : VDev) (spad : Bool) (key : Nat) : Bool :=
  v.windows.any (fun w =>
    bitAt w.1 63 && (bitField w.1 61 2 == 1) == spad
      && (let base := (if spad then bitField w.1 59 2 * 2 ^ 26 else 0) + bitField w.1 16 24 * 65536
          decide (base ≤ key ∧ key < base + bitField w.2 0 24 * 65536)))

/-- What leaves with a device that migrates. -/
def State.deviceImage (s : State) (v : VDev) (part : PartDesc) : Moving :=
  let mine := s.contexts.filter (fun c => c.vd == v.num)
  let described (a : Nat) : Bool := v.queues.any (fun q => decide (q.desc ≤ a ∧ a < q.desc + 128))
  { src := s.pkg, part, vd := v, mem := s.dev.filter (fun c => v.holdsKey false c.1 || described c.1), spad := s.spad.filter (fun c => v.holdsKey true c.1),
    versions := s.versions.filter (fun c => v.holdsKey false (64 * c.1)), contexts := mine,
    tasks := s.tasks.filter (fun t => s.ofDevice v.num t.ctx), saved := s.saved.filter (fun b => s.ofDevice v.num b.ctx),
    jobs := s.jobs.filter (fun j => s.ofDevice v.num j.ctx),
    maps := mine.flatMap (fun c => (s.leavesOf 3 c.root 1 0).map (fun x => (c.id, x.1, x.2.1, x.2.2))),
    commands := s.commands.filter (fun c => c.vd == v.num), pause := s.pauseLength v }

/-- A device discarded with everything of its contexts (R63 step 5). -/
def State.discardDevice (s : State) (v : VDev) : State :=
  let mine := s.ofDevice v.num
  let s := s.dropLeaves (fun l => !mine l.ctx)
  { s with
    reserves := s.reserves.filter (fun r => !s.tasks.any (fun t => mine t.ctx && t.die == r.die && t.idx == r.task)),
    tasks := s.tasks.filter (fun t => !mine t.ctx), saved := s.saved.filter (fun b => !mine b.ctx), jobs := s.jobs.filter (fun j => !mine j.ctx),
    commands := s.commands.filter (fun c => c.vd != v.num), vdevs := s.vdevs.filter (fun u => u.num != v.num),
    contexts := s.contexts.filter (fun c => c.vd != v.num), tables := s.tables.filter (fun t => !mine t.1),
    cores := s.cores.map (fun c => { c with shapes := c.shapes.filter (fun r => !mine r.ctx) }) }

/-- Ranges that moved: where each began, its bytes, and where it begins now; and where an address of one is now. -/
abbrev Moves := List (Nat × Nat × Nat)
def moved (m : Moves) (a : Nat) : Option Nat := m.findSome? (fun r => if r.1 ≤ a && a < r.1 + r.2.1 then some (r.2.2 + (a - r.1)) else none)

/-- Room for a range in a partition's memory beside what is taken: where it was, if that is free, else the first place that fits (DESIGN CHOICE: log 69). -/
def findRoom (d : PartDesc) (taken : List (Nat × Nat)) (old n : Nat) : Option Nat :=
  (old :: d.hbm.map (fun r => 65536 * r.1) ++ taken.map (fun r => ceilDiv (r.1 + r.2) 65536 * 65536)).find? (fun a =>
    within d.hbm (a / 65536) (ceilDiv (a % 65536 + n) 65536) && !taken.any (fun r => overlap a n r.1 r.2))

/-- Ranges placed in turn; one that an earlier one holds goes with it. -/
def placeRanges (d : PartDesc) : List (Nat × Nat) → Moves → List (Nat × Nat) → Option Moves
  | _, done, [] => some done
  | taken, done, (a, n) :: l =>
    match done.find? (fun r => decide (r.1 ≤ a ∧ a + n ≤ r.1 + r.2.1)) with
    | some r => placeRanges d taken (done ++ [(a, n, r.2.2 + (a - r.1))]) l
    | none => (findRoom d taken a n).bind (fun b => placeRanges d ((b, n) :: taken) (done ++ [(a, n, b)]) l)

/-- Scratchpad windows keep their places in the partition's window of their die, which must hold them. -/
def placeSpad (old new : PartDesc) (w : BitVec 64 × BitVec 64) : Option (Nat × Nat × Nat) :=
  let die := bitField w.1 59 2
  let from' := (old.spad.getD die (0, 0)).1 * 2 ^ 20
  let to' := new.spad.getD die (0, 0)
  let base := bitField w.1 16 24 * 65536
  let n := bitField w.2 0 24 * 65536
  if base - from' + n ≤ to'.2 * 2 ^ 20 then some (die * 2 ^ 26 + base, n, die * 2 ^ 26 + to'.1 * 2 ^ 20 + (base - from')) else none

/-- A window that a device uses, of device memory or of a scratchpad. -/
def spadWindow (w : BitVec 64 × BitVec 64) : Bool := bitAt w.1 63 && bitField w.1 61 2 == 1

/-- A window register pair with its base where the range is now. -/
def moveWindow (m sp : Moves) (w : BitVec 64 × BitVec 64) : BitVec 64 × BitVec 64 :=
  let base := bitField w.1 16 24 * 65536
  let new := if spadWindow w then (moved sp (bitField w.1 59 2 * 2 ^ 26 + base)).map (fun k => k % 2 ^ 26) else moved m base
  if !bitAt w.1 63 then w else (w.1 - BitVec.ofNat 64 base + BitVec.ofNat 64 (new.getD base), w.2)

/-- The identifiers of what moves are set apart from those of this package: shifted by `k`. -/
def Moving.shift (k : Nat) (x : Moving) : Moving :=
  { x with
    tasks := x.tasks.map (fun t =>
      { t with order := t.order + k, hosts := [], stages := t.stages.map (fun g => { g with cores := [], slots := g.slots.map (fun p => (p.1, p.2 + k)) }) }),
    saved := x.saved.map (fun b => { b with uid := b.uid + k, warps := b.warps.map (fun w => { w with uid := w.uid + k }) }),
    jobs := x.jobs.map (fun j => { j with uid := j.uid + k, warp := j.warp + k, block := j.block + k, pushers := j.pushers.map (· + k) }),
    commands := x.commands.map (fun c => { c with uid := c.uid + k, after := c.after.map (· + k) }) }

/-- The largest identifier of what moves. -/
def Moving.top (x : Moving) : Nat :=
  (x.tasks.map (fun t => t.order) ++ x.saved.flatMap (fun b => b.uid :: b.warps.map (fun w => w.uid)) ++ x.jobs.flatMap (fun j => [j.uid, j.warp, j.block])
    ++ x.commands.map (fun c => c.uid)).foldl max 0

/-- A page mapped as it was: to the copied byte where it mapped one of the device's, else to the byte of the package that it named; a large page that has been split is mapped in
pieces. -/
def State.mapMoved (s : State) (ctx root : Nat) (src : BitVec 10) (m : Moves) (va : Nat) (e : BitVec 64) (big : Bool) : Option State :=
  let pa := bitField e 16 24 * 65536
  let n : Nat := if big then 8192 else 1
  let named := bitField e 40 10
  let page (i : Nat) : Nat :=
    let (a, pkg) := match moved m (pa + 65536 * i) with
      | some b => if named == 0x3FF || named == src.toNat then (b, 0x3FF) else (pa + 65536 * i, named)
      | none => (pa + 65536 * i, if named == 0x3FF then src.toNat else named)
    pkg * 2 ^ 40 + a + bitField e 0 16
  let whole := match m.find? (fun r => decide (r.1 ≤ pa ∧ pa + 65536 * n ≤ r.1 + r.2.1)) with
    | some r => (r.2.2 + (pa - r.1)) % (65536 * n) == 0
    | none => !m.any (fun r => overlap pa (65536 * n) r.1 r.2.1)
  if whole then s.mapPage ctx root va (page 0) big
  else (List.range n).foldl (fun (s : Option State) i => s.bind (fun s => s.mapPage ctx root (va + 65536 * i) (page i) false)) (some s)

/-- A context enters with new page tables. -/
def State.enterContext (s : State) (x : Moving) (m : Moves) (num : Nat) (c : Context) : Option State :=
  match s.tablePage with
  | none => none
  | some g =>
    let root := 65536 * g
    let s : State := { s with
      tables := s.tables ++ [(c.id, g)], dev := s.dev.zero root 65536,
      contexts := s.contexts ++ [{ c with vd := num, root, retiredSum := 0, activeHb := s.hb }] }
    (x.maps.filter (fun l => l.1 == c.id)).foldl
      (fun (s : Option State) l => s.bind (fun s => s.mapMoved c.id root x.src m l.2.1 l.2.2.1 l.2.2.2)) (some s)

/-- The bytes of ranges of device memory with the line versions, and those of scratchpad windows, copied to where they are now (step 3). -/
def State.copyIn (s : State) (x : Moving) (m sp : Moves) : State :=
  let inside (r : Nat × Nat × Nat) (a : Nat) : Bool := decide (r.1 ≤ a ∧ a < r.1 + r.2.1)
  let s := m.foldl
    (fun (s : State) r =>
      { s with
        dev := (x.mem.filter (fun c => inside r c.1)).foldl (fun d c => d.setByte (r.2.2 + (c.1 - r.1)) c.2) (s.dev.zero r.2.2 r.2.1),
        badLines := s.badLines.filter (fun e => !(decide (r.2.2 ≤ 64 * e.1 ∧ 64 * e.1 + 64 ≤ r.2.2 + r.2.1))),
        versions := (x.versions.filter (fun c => inside r (64 * c.1))).foldl (fun vs c => Cells.put 0 vs ((r.2.2 + (64 * c.1 - r.1)) / 64) c.2)
          (s.versions.filter (fun e => !(decide (r.2.2 ≤ 64 * e.1 ∧ 64 * e.1 + 64 ≤ r.2.2 + r.2.1)))) })
    s
  sp.foldl
    (fun s r =>
      let s := (s.spad.filter (fun c => decide (r.2.2 ≤ c.1 ∧ c.1 < r.2.2 + r.2.1))).foldl (fun s c => (s.storeBank .spad c.1 1 0 none).1) s
      (x.spad.filter (fun c => inside r c.1)).foldl (fun s c => (s.storeBank .spad (r.2.2 + (c.1 - r.1)) 1 c.2.toNat none).1) s)
    s

/-- A device arrives under a number of this package (R63 steps 2 to 4 and 6), or is refused: no room, no clusters where it has tasks, or an index or a context identifier that is
taken (DESIGN CHOICE for the last, and for the blocks taken from its queues, which go on: log 69). -/
def State.arrive (s : State) (num : Nat) (x : Moving) : Option State :=
  match s.partOf (num / 16) with
  | none => none
  | some p =>
    let d := p.desc
    let taken := s.vdevs.flatMap (fun v => (v.configAt, 2048) :: v.windows.filterMap windowRange ++ v.queues.map (fun q => (q.desc, 128)))
    let clash := (s.vdOf num).isSome || x.tasks.any (fun t => !onDie d t.die || s.tasks.any (fun u => u.die == t.die && u.idx == t.idx))
      || x.contexts.any (fun c => (s.ctxOf c.id).isSome)
    match placeRanges d taken [] ((x.vd.configAt, 2048) :: x.vd.windows.filterMap windowRange),
        (x.vd.windows.filter spadWindow).mapM (placeSpad x.part d) with
    | some m, some sp =>
      if clash then none
      else
        let x := x.shift s.uids
        let configAt := (moved m x.vd.configAt).getD x.vd.configAt
        let queues : List QueueInfo := List.zipWith (fun i (q : QueueInfo) => { q with desc := configAt + 128 * i }) (List.range x.vd.queues.length) x.vd.queues
        let m := m.drop 1 ++ List.zipWith (fun (a b : QueueInfo) => (a.desc, 128, b.desc)) x.vd.queues queues
        let arm (a : Arm) : Arm := match a with | .word v k value => .word v ((moved m k).getD k) value | .task v die i => .task v die i
        let v : VDev := { x.vd with
          num, pid := num / 16, configAt, windows := x.vd.windows.map (moveWindow m sp), queues, arms := x.vd.arms.map arm, vtime := 0, away := some x.pause,
          session := false, exchanged := false, log := [], logSeq := 0 }
        let s : State := { s with uids := s.uids + x.top + 1, vdevs := s.vdevs ++ [v] }
        let s := s.copyIn x m sp
        let s := queues.foldl
          (fun s q => [q.desc, q.desc + 8].foldl (fun s a => s.storeDev a 8 ((moved m (s.dev.read a 8)).getD (s.dev.read a 8)) none) s) s
        match x.contexts.foldl (fun (s : Option State) c => s.bind (fun s => s.enterContext x m num c)) (some s) with
        | none => none
        | some s =>
          let command (c : JrfCommand) : JrfCommand :=
            { c with vd := num, block := (moved m c.block).getD c.block, watch := c.watch.map (fun w => ((moved m w.1).getD w.1, w.2)) }
          let s : State := { s with
            tasks := s.tasks ++ x.tasks, saved := s.saved ++ x.saved, jobs := s.jobs ++ x.jobs, commands := s.commands ++ x.commands.map command }
          some ((match v.paused with | some t => s.resumeDevice v t | none => s).answer (.queues v.host (queues.map QueueInfo.desc)))
    | _, _ => none

/-- MIGRATE_DEVICE to this package: the device that another package has sent arrives; to another: it waits until nothing of the device is held at a home slice, and the device
leaves. -/
def execMigrateDevice (vd : Nat) (dest : MigrationDest) (s : State) : Out :=
  if dest.pkg == s.pkg then
    match s.arrived with
    | [] => .next (s.answer .error)
    | x :: xs => match ({ s with arrived := xs } : State).arrive vd x with | some s => .next (s.answer .ok) | none => .next (s.answer .error)
  else
    match s.vdOf vd with
    | none => .next (s.answer .error)
    | some v =>
      match s.partOf v.pid with
      | none => .next (s.answer .error)
      | some p =>
        if v.paused.isNone || dest.stepping != Config.stepping || v.iface == .locked || v.iface == .run || !dest.room || !dest.tasksFree then
          .next (s.answer .error)
        else if s.contexts.any (fun c => c.vd == vd && !s.quiescent c.id) then .next s
        else .next (((s.discardDevice v).answer (.device dest.pkg (s.deviceImage v p.desc))).answer .ok)

/-! ### Virtual-device reset (R64) -/

/-- Steps 2 to 4. -/
def State.clearDevice (s : State) (v : VDev) : State :=
  (v.queues.foldl (fun s q => s.placeQueue q) s).onVd v.num (fun v =>
    { v with
      arms := [], vectors := v.vectors.map (fun x => { x with mask := false, pending := false }), iface := .unlocked, digest := leBytes 64 0 })

/-- A reset: the contexts are killed, and once every kill record is posted the rest follows; `done` says whether it has. -/
def State.resetDevice (s : State) (v : VDev) : State × Bool :=
  let s := s.killDevice v.num
  let mine := s.contexts.filter (fun c => c.vd == v.num)
  if mine.any (fun c => !c.killed && !s.quiescent c.id) then (s, false)
  else ((((mine.filter (fun c => !c.killed)).foldl (fun s c => s.postKill c.id) s).clearDevice v), true)

/-- A reset requested by a management request, which is answered once it is done; it waits while a layout changes. -/
def State.requestReset (s : State) (v : VDev) : State :=
  if s.change.isSome then s else match s.resetDevice v with | (s, true) => s.answer .ok | (s, false) => s

/-- VIRTUAL_DEVICE_RESET. -/
def execVirtualDeviceReset (vd : Nat) (s : State) : Out :=
  match s.vdOf vd with | none => .next (s.answer .error) | some v => .next (s.requestReset v)

/-! ### The trusted interface (R66 to R69) -/

/-- A request to the device in focus. -/
def onFocus (f : State → VDev → State) (s : State) : Out :=
  match s.vdOf s.focus with | none => .next (s.answer .error) | some v => .next (f s v)

/-- LOCK_INTERFACE_REQUEST. -/
def execLockInterfaceRequest (s : State) : Out :=
  onFocus
    (fun s v =>
      if v.iface != .unlocked || s.contexts.any (fun c => c.vd == v.num) then s.answer .error
      else (s.onVd v.num (fun v => { v with iface := .locked, digest := sha512 (s.configBytes v) })).answer .ok)
    s

/-- START_INTERFACE_REQUEST. -/
def execStartInterfaceRequest (s : State) : Out :=
  onFocus (fun s v => if v.iface != .locked then s.answer .error else (s.onVd v.num (fun v => { v with iface := .run })).answer .ok) s

/-- STOP_INTERFACE_REQUEST. -/
def execStopInterfaceRequest (s : State) : Out := onFocus (fun s v => if v.iface == .unlocked then s.answer .error else s.requestReset v) s

/-- GET_DEVICE_INTERFACE_STATE. -/
def execGetDeviceInterfaceState (s : State) : Out := onFocus (fun s v => s.answer (.state v.iface)) s

/-- The number of an interface state (R72). -/
def Iface.number : Iface → Nat
  | .unlocked => 0
  | .locked => 1
  | .run => 2
  | .error => 3

/-- A partition descriptor as Table 3-1 lays it out. -/
def partBytes (d : PartDesc) : List Byte :=
  leBytes 1 d.pid ++ leBytes 1 0 ++ leBytes 2 d.saveBw ++ leBytes 4 d.guar.toNat ++ leBytes 4 d.margin.toNat ++ leBytes 4 d.lendTo.toNat
    ++ (List.range 8).flatMap (fun i => let r := d.hbm.getD i (0, 0); leBytes 4 r.1 ++ leBytes 4 r.2)
    ++ (List.range 4).flatMap (fun i => let r := d.spad.getD i (0, 0); leBytes 2 r.1 ++ leBytes 2 r.2)
    ++ (List.range 16).flatMap (fun i => leBytes 1 (d.ports.getD i 0)) ++ leBytes 16 0

/-- The six measurement blocks (Table 3-6). -/
def State.measurements (s : State) (v : VDev) : List Byte :=
  sha512 Config.romImage ++ sha512 Config.mgmtImage ++ sha512 Config.fuses
    ++ sha512 (match s.partOf v.pid with | some p => partBytes p.desc | none => []) ++ v.digest ++ sha512 (queryBytes 3 s.retiredList)

/-- The interface report. -/
def State.report (s : State) (v : VDev) : List Byte :=
  leBytes 4 3728 ++ leBytes 1 v.iface.number ++ leBytes 3 0 ++ leBytes 8 Config.revision.toNat ++ s.configBytes v ++ s.measurements v

/-- GET_DEVICE_INTERFACE_REPORT: signed with the identity key over its digest, within the secured session. -/
def execGetDeviceInterfaceReport (s : State) : Out :=
  onFocus
    (fun s v => if s.identity && v.session then s.answer (.report (s.report v) (Config.sign (sha512 (s.report v)))) else s.answer .error)
    s

/-- The end of the secured session (Table 3-5). -/
def State.endSession (s : State) (v : VDev) : State :=
  let s := s.onVd v.num (fun v => { v with session := false, exchanged := false })
  if v.iface == .locked || v.iface == .run then s.enterError v.num else s

/-- SECURED_SESSION_FAIL. -/
def execSecuredSessionFail (s : State) : Out := match s.vdOf s.focus with | none => .next s | some v => .next (s.endSession v)

/-! ### Attestation (R70, R71) -/

/-- The body that SPDM 1.3 gives an answer: by request, and whether a key exchange is under way or a session stands. -/
def spdmAnswer (request : Nat) (v : VDev) : List Byte := Config.spdmBody request [BitVec.ofNat 8 (boolNat v.exchanged), BitVec.ofNat 8 (boolNat v.session)]

/-- The two requests that a retired package answers too (R74). -/
def State.always (s : State) (request : Nat) : State :=
  if s.life == .retired then s.answer (.bytes (Config.spdmBody request []))
  else match s.vdOf s.focus with | none => s.answer .error | some v => s.answer (.bytes (spdmAnswer request v))

/-- GET_VERSION. -/
def execGetVersion (s : State) : Out := .next (s.always 0)

/-- GET_CAPABILITIES. -/
def execGetCapabilities (s : State) : Out := .next (s.always 1)

/-- NEGOTIATE_ALGORITHMS: the only ones offered. -/
def execNegotiateAlgorithms (s : State) : Out := onFocus (fun s _ => s.answer (.algorithms [.ed25519, .sha512, .ecdhP384, .aes256Gcm])) s

/-- A request that needs the identity key (R73). -/
def withIdentity (f : State → VDev → State) (s : State) : Out := onFocus (fun s v => if s.identity then f s v else s.answer .error) s

/-- GET_DIGESTS: of the certificate chain in slot 0. -/
def execGetDigests (s : State) : Out := withIdentity (fun s _ => s.answer (.digests (sha512 Config.certificates))) s

/-- GET_CERTIFICATE. -/
def execGetCertificate (s : State) : Out := withIdentity (fun s _ => s.answer (.bytes Config.certificates)) s

/-- An answer signed with the identity key over its digest. -/
def State.signedAnswer (s : State) (data : List Byte) : State := s.answer (.signed data (Config.sign (sha512 data)))

/-- CHALLENGE. -/
def execChallenge (s : State) : Out := withIdentity (fun s v => s.signedAnswer (spdmAnswer 5 v)) s

/-- GET_MEASUREMENTS. -/
def execGetMeasurements (s : State) : Out := onFocus (fun s v => s.answer (.digests (s.measurements v))) s

/-- KEY_EXCHANGE. -/
def execKeyExchange (s : State) : Out :=
  withIdentity (fun s v => (s.onVd v.num (fun v => { v with exchanged := true })).signedAnswer (spdmAnswer 7 v)) s

/-- FINISH: the session stands. -/
def execFinish (s : State) : Out :=
  onFocus
    (fun s v =>
      if !v.exchanged then s.answer .error
      else (s.onVd v.num (fun v => { v with exchanged := false, session := true })).answer (.bytes (spdmAnswer 8 v)))
    s

/-- END_SESSION. -/
def execEndSession (s : State) : Out :=
  onFocus (fun s v => if !v.session then s.answer .error else (s.endSession v).answer (.bytes (spdmAnswer 9 v))) s

/-- KEY_UPDATE. -/
def execKeyUpdate (s : State) : Out := onFocus (fun s v => if !v.session then s.answer .error else s.answer (.bytes (spdmAnswer 10 v))) s

/-! ### The error log, and a retired package -/

/-- ERROR_LOG_READ (11 R258). -/
def execErrorLogRead (s : State) : Out := onFocus (fun s v => s.answer (.log v.log)) s

/-- QUERY_ITEM (R74). -/
def execQueryItem (item : Nat) (s : State) : Out :=
  .next (if s.life != .retired then s.answer .error
    else match item with
      | 0 => s.answer (.bytes (queryBytes 0 packageFigures))
      | 3 => s.answer (.bytes (queryBytes 3 s.retiredList))
      | 4 => s.answer (.bytes (queryBytes 4 [Config.revision.toNat]))
      | _ => s.answer .error)

/-! ### Life cycle and wiping (R73, R74) -/

/-- Every memory wiped; partitions, virtual devices and all that belongs to them are gone. Cores keep their power and withdrawal, and
bank groups their retirement. -/
def State.wipe (s : State) : State :=
  let core (c : Core) : Core := { Core.reset c.id with clk := c.clk, gated := c.gated, withdrawing := c.withdrawing, withdrawn := c.withdrawn, idleSince := s.hb, regErrors := c.regErrors }
  { State.reset with
    agenda := s.agenda, here := s.here, focus := s.focus, fresh := s.fresh, uids := s.uids, hb := s.hb, ns := s.ns, edgeNs := s.edgeNs, pkg := s.pkg, root := s.root,
    rootHb := s.rootHb, locked := s.locked, routed := s.routed, joined := s.joined, routes := s.routes, ports := s.ports, life := s.life, identity := s.identity,
    groups := (s.groups.filter (fun g => g.retired != [])).map (fun g => { Group.reset g.id with retired := g.retired, reports := g.reports }),
    cores := s.cores.map core, setpoints := s.setpoints, stretched := s.stretched, cap := s.cap, powerHb := s.powerHb, tripped := s.tripped,
    out := s.out }

/-- A transition that Table 3-7 has. -/
def lifeStep : LifeCycle → LifeCycle → Bool
  | .manufacturing, .provisioned => true
  | .provisioned, .deployed => true
  | .provisioned, .retired => true
  | .deployed, .provisioned => true
  | .deployed, .retired => true
  | _, _ => false

/-- LIFE_CYCLE_TRANSITION: the identity key is made at provisioning and erased at retirement. -/
def execLifeCycleTransition (dest : LifeCycle) (s : State) : Out :=
  .next (if lifeStep s.life dest then { s.wipe with life := dest, identity := dest != .retired } else s.answer .error)

end Sys2Proof.Machine
end

