-- ==== Sys2Proof/Machine/Fabric.lean ====
section
/-!
DEFINITION. The fabric (01 R12 to R23; 02 R25): flits and link-level retry, ports, failed `.sys` operations and how they settle, host
requests, and the heartbeat. An event that is not enabled changes nothing.
-/
namespace Sys2Proof.Machine

/-! ### Flits (R14) -/

/-- One bit of a CRC-64 with the ECMA-182 polynomial, the highest bit first. -/
def crcBit (c : BitVec 64) (b : Bool) : BitVec 64 :=
  let d := c <<< 1
  if xor (bitAt c 63) b then d ^^^ 0x42F0E1EBA9EA3693 else d
def crcByte (c : BitVec 64) (b : Byte) : BitVec 64 := [7, 6, 5, 4, 3, 2, 1, 0].foldl (fun c k => crcBit c (b.getLsbD k)) c
def crc64 (bs : List Byte) : BitVec 64 := bs.foldl crcByte 0

/-- The header of a flit (Table 1-2). -/
def flitHeader (f : Flit) : Nat :=
  f.seq.toNat * 2 ^ 54 + f.ack.toNat * 2 ^ 44 + boolNat f.nak * 2 ^ 43 + f.cls.toNat * 2 ^ 40 + f.kind.toNat * 2 ^ 36 + f.dst.toNat * 2 ^ 26
    + f.src.toNat * 2 ^ 16 + f.credit.toNat * 2 ^ 8 + f.low.toNat
def flitSum (f : Flit) : BitVec 64 := crc64 (leBytes 8 (flitHeader f) ++ f.payload)

/-- A flit that a receiver treats as bad, whatever its place (R15). -/
def flitBad (f : Flit) : Bool := f.crc != flitSum f || f.cls.toNat > 3 || f.kind.toNat > 2 || f.low != 0 || f.payload.length != 240

/-! ### Ports (R13 to R16) -/

/-- The number of the next flit that a port sends. -/
def Port.nextSeq (p : Port) : BitVec 10 := p.acked + 1 + BitVec.ofNat 10 p.retry.length

/-- A flit goes out: it gets the next number, acknowledges what was received, and stays in the retry buffer. -/
def Port.emit (p : Port) (f : Flit) : Port :=
  let g := { f with seq := p.nextSeq, ack := p.expect - 1 }
  let g := { g with crc := flitSum g }
  { p with retry := p.retry ++ [g], sent := p.sent ++ [g] }

/-- A flit sent. The retry buffer holds 512: while it is full a flit waits at the port, in order (DESIGN CHOICE: log 71). -/
def Port.push (p : Port) (f : Flit) : Port :=
  if p.retry.length ≥ 512 || p.waiting != [] then { p with waiting := p.waiting ++ [f] } else p.emit f

/-- Flits that waited go out while there is room. -/
def Port.flush (p : Port) : Port :=
  let n := 512 - p.retry.length
  (p.waiting.take n).foldl Port.emit { p with waiting := p.waiting.drop n }

/-- An acknowledgement frees the flits up to it. -/
def Port.acknowledge (p : Port) (ack : BitVec 10) : Port :=
  let n := (ack - p.acked).toNat
  if n ≤ p.retry.length then ({ p with acked := ack, retry := p.retry.drop n } : Port).flush else p

/-- A NAK: what is left of the retry buffer is sent again in order, and what waited for room after it; those for one number in a row are counted (R16). -/
def Port.replay (p : Port) : Port := { p with sent := p.sent ++ p.retry }
def Port.nakked (p : Port) (ack : BitVec 10) : Port :=
  let want := ack + 1
  let n := (ack - p.acked).toNat
  let q : Port := if n ≤ p.retry.length then { p with acked := ack, retry := p.retry.drop n } else p
  { q.replay.flush with naks := if p.nakSeq == want then p.naks + 1 else 1, nakSeq := want }

/-- An idle flit that answers with NAK. -/
def nakFlit (dst src : BitVec 10) : Flit :=
  { seq := 0, ack := 0, nak := true, cls := 2, kind := 0, dst, src, credit := 0, low := 0, payload := leBytes 240 0, crc := 0 }

/-- A flit sent toward its destination (R18); one that has no route comes back to its sender as a fabric error. -/
def State.forward (s : State) (f : Flit) : State :=
  match s.routeTo f.dst f.cls.toNat with
  | .ok port => s.putPort ((s.portOf port).push f)
  | .error _ => s.answer (.fabricError f.src)

/-- The ports of a package are CL0 to CL15 (R12). -/
def isPort (port : Nat) : Bool := port < 16

/-- A `fence.tick` that waits for an edge of a locked package waits for another once the package is locked again; each time that a package comes to be unlocked, or turns to
correcting, it reports (R23). -/
def State.unlock (s : State) : State :=
  let s : State :=
    { s with
      locked := false, warps := s.warps.map (fun w => { w with tick := w.tick.map (fun t => { t with edge := none }) }) }
  s.answer (.lockReport false)

/-- A value of the root's counter arrives (R22, R23): a package that joins adopts it and is locked; a locked one, never ahead of its root and at most one behind, goes on following
it; one that meets its root again with another value begins to correct. -/
def State.hearRoot (s : State) (root : BitVec 64) : State :=
  if s.pkg == s.root then s
  else
    let s := if s.joined && s.locked && s.hb.toNat + 1 == s.rootHb.toNat && s.rootHb != root then s.edge else s
    let again := s.joined && !s.routed
    let s : State := { s with rootHb := root, routed := true }
    if !s.joined then { s with hb := root, edgeNs := s.ns, joined := true, locked := true }
    else if s.hb == root then { s with locked := true }
    else if (s.locked && s.hb + 1 != root) || again then s.unlock
    else s

/-- FLIT_RECEIVE: a good flit is delivered upward, or goes on toward its destination; a tick flit from the root carries its counter, in the first eight bytes of the payload
(DESIGN CHOICE: log 72). A bad one is discarded and answered with a NAK, and so is every later one until the replay arrives: one that is bad only by its number gets no second NAK
(DESIGN CHOICE: log 73). -/
def execFlitReceive (port : Nat) (flit : Flit) (s : State) : Out :=
  let p := s.portOf port
  if !isPort port || !p.up then .next s
  else if flitBad flit || flit.seq != p.expect then
    .next (if p.nakOut && !flitBad flit then s else s.putPort { p.push (nakFlit flit.src s.pkg) with nakOut := true })
  else
    let p := { p with expect := p.expect + 1, nakOut := false }
    let p := if flit.nak then p.nakked flit.ack else { p.acknowledge flit.ack with naks := 0 }
    if flit.kind == 0 then .next (s.putPort p)
    else if flit.dst == s.pkg then
      .next (if flit.kind == 2 && flit.cls == 3 && flit.src == s.root then (s.putPort p).hearRoot (BitVec.ofNat 64 (leAt flit.payload 0 8))
        else s.putPort { p with inbox := p.inbox ++ [flit] })
    else .next ((s.putPort p).forward flit)

/-- The width at which a port trains on the lanes that work (R13). -/
def trainedWidth (lanes : BitVec 4) : Nat :=
  if lanes == 0xF then 4 else if bitField lanes 0 2 == 3 || bitField lanes 2 2 == 3 then 2 else if lanes != 0 then 1 else 0

/-- A partition holds a share of a port (03 R65). -/
def holdsPort (port : Nat) (p : Partition) : Bool := p.desc.ports.getD port 0 != 0

/-- A record of a port's change of width or fall (11 Table 11-6). -/
def State.logPort (s : State) (port : Nat) : State :=
  s.logPart (holdsPort port) { ErrorRecord.ofKind 4 with die := port / 4, detail := port }

/-- The destinations of failed operations that are within reach of some port now can be asked (R21): for 65,536 heartbeats after the failure. -/
def State.reachNow (s : State) : State :=
  { s with channels := s.channels.map (fun o =>
      if o.failed.isSome && !o.reached && decide ((s.hb - o.since).toNat < 65536) then
        { o with reached := match s.routeTo o.pkg 2 with | .ok _ => true | .error _ => false }
      else o) }

/-- A port trained: its retry buffer is kept and replayed; with no lane its training has failed at every width. -/
def State.train (s : State) (port : Nat) (lanes : BitVec 4) : State :=
  let p := s.portOf port
  let w := trainedWidth lanes
  if !isPort port then s
  else if w == 0 then s.putPort { p with untrained := true }
  else
    let s' := (s.putPort { p.replay with up := true, width := w, naks := 0, untrained := false }).reachNow
    if p.up && p.width == w then s' else s'.logPort port

/-- PORT_RETRAIN: after 8 NAKs in a row for one number. -/
def execPortRetrain (port : Nat) (lanes : BitVec 4) (s : State) : Out := .next (if (s.portOf port).naks ≥ 8 then s.train port lanes else s)

/-- PORT_TRAINING. -/
def execPortTraining (port : Nat) (lanes : BitVec 4) (s : State) : Out := .next (s.train port lanes)

/-! ### Failed operations (R20, R21) -/

/-- An operation that fails waits for its outcome. -/
def State.failOp (s : State) (uid reason port : Nat) : State :=
  ({ s with channels := s.channels.map (fun o => if o.uid == uid then { o with failed := some (reason * 256 + port), since := s.hb, reached := false } else o) } : State).reachNow

/-- The operations that wait for a response from a package that no port of this package leads to any more. -/
def State.failUnrouted (s : State) (reason port : Nat) : State :=
  (s.channels.filter (fun o => o.failed.isNone && match s.routeTo o.pkg o.cls with | .ok _ => false | .error _ => true)).foldl
    (fun s o => s.failOp o.uid reason port) s

/-- PORT_DOWN: a port that could train at no width. Its retry buffer, and what waited for room in it, goes out on the next ports of the routing table but for what is meant for the
neighbour alone, and operations without another route fail. -/
def execPortDown (port : Nat) (s : State) : Out :=
  let p := s.portOf port
  if !isPort port || !p.up || !p.untrained then .next s
  else
    let s := s.putPort { p with up := false, retry := [], waiting := [], naks := 0 }
    let s := ((p.retry ++ p.waiting).filter (fun f => f.kind != 0)).foldl (fun s f => s.forward f) s
    .next ((s.failUnrouted 1 port).logPort port)

/-- SYS_RESPONSE_TIMEOUT. -/
def execSysResponseTimeout (op : Nat) (s : State) : Out :=
  match s.channels.find? (fun o => o.uid == op) with
  | none => .next s
  | some o =>
    if o.failed.isSome || (s.hb - o.since).toNat < 65536 then .next s
    else .next (s.failOp op 2 (match s.routeTo o.pkg o.cls with | .ok port => port | .error _ => 0xFF))

/-- An answer that can be true of a failed operation (R21). One still in its channel may never have left, and is then known not to be performed; what was performed is known by the
other package, which must have been within reach in 65,536 heartbeats; and if it was not, the outcome stays unknown. -/
def State.canSettle (s : State) (o : SysOp) (answer : FabricAnswer) : Bool :=
  match answer with
  | .performed => o.reached && !o.inChannel && s.performedOps.any (fun p => p.1 == o.uid)
  | .notPerformed => o.inChannel
  | .unknown => !o.reached && decide ((s.hb - o.since).toNat ≥ 65536)

/-- DONE of Table 1-4. -/
def doneField : FabricAnswer → Nat
  | .notPerformed => 0
  | .performed => 1
  | .unknown => 2

/-- A fabric error for one that asked: recorded in the command whose access it was, or as the response. -/
def State.failAsked (s : State) (o : SysOp) (who : Asker) (write : Bool) (info : Nat) : State :=
  match s.sentUnder o.uid with
  | some (core, q, x, y, a) => ((s.failWork x.uid q y ⟨0x1C, a.name, info⟩).settleCommand core x.uid).settleQwaits core
  | none => s.respond who { who, addr := (o.access.parts.head?.map (fun p => p.addr)).getD 0, write, bytes := none, cause := 0x1C, info }

/-- FABRIC_OUTCOME_SETTLE: the error is delivered to the warp, recorded in the command, or given to what asked. -/
def execFabricOutcomeSettle (op : Nat) (answer : FabricAnswer) (s : State) : Out :=
  match s.channels.find? (fun o => o.uid == op) with
  | none => .next s
  | some o =>
    match o.failed with
    | none => .next s
    | some why =>
      if !s.canSettle o answer then .next s
      else
        let info := fabricInfo o.pkg (doneField answer) (why / 256) (why % 256)
        let s : State := { s with channels := s.channels.filter (fun p => p.uid != op) }
        match o.access.kind with
        | .ask who write => .next (s.failAsked o who write info)
        | _ => .next (s.noteActed o.warp o.access (.fault 0x1C o.access.name info))

/-! ### Provisioning and the heartbeat (R18, R22, R23) -/

/-- This package is the root: its counter is the domain's. -/
def State.lead (s : State) : State := { s with joined := true, locked := true, routed := true }

/-- PACKAGE_PROVISIONING: the identifier and the routing tables, whose ports are CL0 to CL15; a package that gets another identifier and is not the root joins with the next
tick flit. -/
def execPackageProvisioning (pkg : BitVec 10) (routes : List Route) (s : State) : Out :=
  let new := pkg != s.pkg
  let s : State := { s with pkg, routes := routes.filter (fun r => isPort r.port) }
  let s := s.reachNow.failUnrouted 0 0xFF
  .next (if pkg == s.root then s.lead
    else if !new then s
    else if s.contexts == [] then { s with joined := false, locked := false } else s.unlock)

/-- A tick flit (CLASS 3, KIND 2) from the root. -/
def tickFlit (dst src : BitVec 10) (hb : BitVec 64) : Flit :=
  { seq := 0, ack := 0, nak := false, cls := 3, kind := 2, dst, src, credit := 0, low := 0, payload := leBytes 240 hb.toNat, crc := 0 }

/-- The root's value goes out to every package that its routing table leads to for CLASS 3 (R22). -/
def State.sendTicks (s : State) : State :=
  (((s.routes.filter (fun r => r.cls == 3 && r.dst != s.pkg)).map (fun r => r.dst)).eraseDups).foldl (fun s d => s.forward (tickFlit d s.pkg s.hb)) s

/-- HEARTBEAT_TICK: an edge of the counter of the root, which sends its value out; of a locked package, which is never ahead of its root; or of one that runs on its own
reference. -/
def execHeartbeatTick (s : State) : Out :=
  .next (if s.pkg == s.root then s.edge.sendTicks
    else if !s.routed || (s.joined && s.locked && decide (s.hb.toNat < s.rootHb.toNat)) then s.edge
    else s)

/-- TICK_FLIT_RECEIVE. -/
def execTickFlitReceive (root : BitVec 64) (s : State) : Out := .next (s.hearRoot root)

/-- COUNTER_CORRECTION: toward the root's counter, never backward; one that is ahead holds its counter, and is locked when the root's has come to it. -/
def execCounterCorrection (s : State) : Out :=
  if s.pkg == s.root || s.locked || !s.routed || !s.joined || s.rootHb.toNat ≤ s.hb.toNat then .next s
  else
    let s := s.edge
    .next { s with locked := s.hb == s.rootHb }

/-- ROOT_SELECTION: this package goes on from its own value as the root, or corrects toward another root, whose value it has yet to hear. -/
def execRootSelection (pkg : BitVec 10) (s : State) : Out :=
  if pkg == s.root then .next s
  else if pkg == s.pkg then .next ({ s with root := pkg } : State).lead
  else .next { s.unlock with root := pkg, routed := true, rootHb := 0 }

/-- ROOT_ROUTE_LOSS. -/
def execRootRouteLoss (s : State) : Out := .next (if s.pkg == s.root || !s.routed then s else { s.unlock with routed := false })

/-! ### Host requests (02 R25) -/

/-- A request lies where R25 lets a host reach, for a device that it owns. -/
def VDev.permits (v : VDev) (req : HostReq) : Bool :=
  v.host == req.host
    && match req.op with
      | .read n => v.inWindow req.pa n || v.queues.any (fun q => decide (q.desc ≤ req.pa ∧ req.pa + n ≤ q.desc + 128))
      | .write data => v.inWindow req.pa data.length || v.queues.any (fun q => decide (q.desc + 64 ≤ req.pa ∧ req.pa + data.length ≤ q.desc + 72))
      | .atom op ty _ _ =>
        let n := tyWidth ty.toNat / 8
        decide (op < 8) && (atomTs op).contains ty.toNat && req.pa % max 1 n == 0
          && (v.inWindow req.pa n || v.queues.any (fun q => req.pa == q.desc && n == 8 && op == 6))

/-- HOST_REQUEST: performed by the home slice, or answered with a fabric error. -/
def execHostRequest (req : HostReq) (s : State) : Out :=
  if !s.vdevs.any (fun v => v.permits req) then .next (s.answer (.fabricError req.host))
  else
    let (uid, s) := s.newUid
    let done (s : State) (bs : List Byte) : Out := .next ((s.keepOp uid).answer (.hostData req.host (BitVec.ofNat 64 req.pa) bs))
    let refused : Out := .next (s.answer (.fabricError req.host))
    match req.op with
    | .read n => if s.rangeBad req.pa n then refused else done s (s.dev.bytes req.pa n)
    | .write data => if s.tornLine req.pa data.length then refused else done (s.writeDev req.pa data none) []
    | .atom op ty b c =>
      let n := tyWidth ty.toNat / 8
      if s.rangeBad req.pa n then refused
      else
        let old := s.dev.read req.pa n
        done (s.storeDev req.pa n (atomResult (atomOpOf op) ty.toNat old (b.toNat % 2 ^ (8 * n)) c.toNat) none) (leBytes n old)

end Sys2Proof.Machine
end

