-- ==== Sys2Proof/Machine/Float.lean ====
section
/-!
DEFINITION. Floating-point, conversion and random-number instructions: opcodes 0x50 to 0x69 (16 R336 to R355; 09 R199 to R220).
-/
namespace Sys2Proof.Machine

/-- FTZ as it acts on results of T: on f32 and f64 only (09 R206). -/
def Ctx.flush (c : Ctx) : Bool := c.warp.ftz && (c.ty == 3 || c.ty == 15)

/-- How element `i` of a lane is rounded (16 R343): with F 1 an overflow gives the largest finite value. -/
def Ctx.rounding (c : Ctx) (l i : Nat) : Rnd :=
  { mode := c.rmode, rb := c.random l i, sat := if c.x.f == 1 then .full else .no, ftz := c.flush }

/-- An element-by-element operation on A, B and C in a lane. -/
def Ctx.floatElems (c : Ctx) (f : Rnd → Nat → Nat → Nat → Res) (l : Nat) : LaneOut :=
  let t := c.ty
  let a := c.a l
  let b := c.b l
  let z := c.c l
  let r := mapElems t (fun i => f (c.rounding l i) (elemOf t a i) (elemOf t b i) (elemOf t z i))
  c.toD r.1 r.2

/-- FADD. -/
def execFadd (x : Fields) (s : State) : Out := perLane .fadd (fun c l => c.floatElems (fun r a b _ => faddElem c.ty r false a b) l) x s

/-- FSUB. -/
def execFsub (x : Fields) (s : State) : Out := perLane .fsub (fun c l => c.floatElems (fun r a b _ => faddElem c.ty r true a b) l) x s

/-- FMUL. -/
def execFmul (x : Fields) (s : State) : Out := perLane .fmul (fun c l => c.floatElems (fun r a b _ => fmulElem c.ty r a b) l) x s

/-- FMA. -/
def execFma (x : Fields) (s : State) : Out := perLane .fma (fun c l => c.floatElems (fun r a b z => fmaElem c.ty r a b z) l) x s

/-- FMIN. -/
def execFmin (x : Fields) (s : State) : Out :=
  perLane .fmin (fun c l => c.floatElems (fun _ a b _ => fminElem c.ty c.warp.ftz false false a b) l) x s

/-- FMAX. -/
def execFmax (x : Fields) (s : State) : Out :=
  perLane .fmax (fun c l => c.floatElems (fun _ a b _ => fminElem c.ty c.warp.ftz true false a b) l) x s

/-- FMNUM: E[0] chooses the maximum. -/
def execFmnum (x : Fields) (s : State) : Out :=
  perLane .fmnum (fun c l => c.floatElems (fun _ a b _ => fminElem c.ty c.warp.ftz (bitAt c.x.e 0) true a b) l) x s

/-- FSETP (16 R346). -/
def execFsetp (x : Fields) (s : State) : Out :=
  perLane .fsetp
    (fun c l =>
      let t := c.ty
      let rs := (List.range (tyCount t)).map (fun i => fcmpElem t c.warp.ftz c.x.f.toNat (elemOf t (c.a l) i) (elemOf t (c.b l) i))
      c.toP (rs.all (fun r => r.1)) (rs.foldl (fun g r => g ||| r.2) 0))
    x s

/-- A special function on every element (16 R349). -/
def Ctx.special (c : Ctx) (fn : SpecFn) (l : Nat) : LaneOut := c.floatElems (fun _ a _ _ => specialOf fn c.ty c.flush a) l

/-- FRCP. -/
def execFrcp (x : Fields) (s : State) : Out := perLane .frcp (fun c l => c.special .rcp l) x s

/-- FRSQ. -/
def execFrsq (x : Fields) (s : State) : Out := perLane .frsq (fun c l => c.special .rsq l) x s

/-- FEX2. -/
def execFex2 (x : Fields) (s : State) : Out := perLane .fex2 (fun c l => c.special .ex2 l) x s

/-- FLG2. -/
def execFlg2 (x : Fields) (s : State) : Out := perLane .flg2 (fun c l => c.special .lg2 l) x s

/-- FSIN. -/
def execFsin (x : Fields) (s : State) : Out := perLane .fsin (fun c l => c.special .sin l) x s

/-- FCOS. -/
def execFcos (x : Fields) (s : State) : Out := perLane .fcos (fun c l => c.special .cos l) x s

/-- FSQRT (16 R348). -/
def execFsqrt (x : Fields) (s : State) : Out := perLane .fsqrt (fun c l => c.floatElems (fun r a _ _ => fsqrtElem c.ty r a) l) x s

/-- FDIV (16 R348). -/
def execFdiv (x : Fields) (s : State) : Out := perLane .fdiv (fun c l => c.floatElems (fun r a b _ => fdivElem c.ty r a b) l) x s

/-- FCVT (16 R350): SEL chooses the elements that take part; the others of d are kept. -/
def execFcvt (x : Fields) (s : State) : Out :=
  perLane .fcvt
    (fun c l =>
      let t := c.ty
      let st := styp c.x
      let m := tyCount st
      let n := tyCount t
      let sel := bitField c.x.e 5 3
      let a := c.a l
      let conv (dst src : Nat) : Res :=
        convertElem t st c.rmode (c.random l dst) (if c.x.f == 1 then .infinity else .no) c.warp.ftz (elemOf st a src)
      if m == n then let r := mapElems t (fun i => conv i i); c.toD r.1 r.2
      else if m < n then
        let r := (List.range m).foldl
          (fun (acc : Res) k =>
            let e := conv (sel * m + k) k
            (putElem t acc.1 (sel * m + k) e.1, acc.2 ||| e.2))
          (c.d (tyRegs t) l, 0)
        c.toD r.1 r.2
      else let r := mapElems t (fun i => conv i (sel * n + i)); c.toD r.1 r.2)
    x s

/-- FROUND (16 R351). -/
def execFround (x : Fields) (s : State) : Out := perLane .fround (fun c l => c.floatElems (fun r a _ _ => froundElem c.ty r a) l) x s

/-- FSCALE: B is one signed 32-bit count (16 R338, R343). -/
def execFscale (x : Fields) (s : State) : Out :=
  perLane .fscale (fun c l => let n := signed 32 (c.b l); c.floatElems (fun r a _ _ => fscaleElem c.ty r a n) l) x s

/-- FCLASS (16 R347). -/
def execFclass (x : Fields) (s : State) : Out :=
  perLane .fclass
    (fun c l =>
      let t := c.ty
      let hit (i : Nat) : Bool := bitAt c.x.e (classBit t (elemOf t (c.a l) i))
      c.toP (if bitAt c.x.e 10 then (List.range (tyCount t)).all hit else (List.range (tyCount t)).any hit))
    x s

/-- c ≥ 0, after FTZ, and not a NaN (16 R345). -/
def selects (t : Nat) (ftz : Bool) (v : Nat) : Bool :=
  match decodeNum t (flushIn t ftz v) with
  | .nan _ _ _ => false
  | .inf neg => !neg
  | .fin neg m _ => !neg || m == 0

/-- FSEL (16 R345). -/
def execFsel (x : Fields) (s : State) : Out :=
  perLane .fsel (fun c l => c.floatElems (fun _ a b z => (if selects c.ty c.warp.ftz z then a else b, 0)) l) x s

/-- The code width of q8 and q4, the scale and the zero point of `quant` and `dequant` (16 R352). -/
def Ctx.codeBits (c : Ctx) : Nat := if c.ty == 11 then 8 else 4
def Ctx.zeroCode (c : Ctx) (l : Nat) : Nat := natField (c.c l) 0 c.codeBits

/-- QUANT. -/
def execQuant (x : Fields) (s : State) : Out :=
  perLane .quant
    (fun c l =>
      let r := quantElem c.codeBits c.rmode (c.random l 0) (natField (c.a l) 0 32) (natField (c.b l) 0 16) (c.zeroCode l)
      c.toD (putElem c.ty (c.d 1 l) (bitField c.x.e 9 3) r.1) r.2)
    x s

/-- DEQUANT. -/
def execDequant (x : Fields) (s : State) : Out :=
  perLane .dequant
    (fun c l =>
      let r := dequantElem (elemOf c.ty (c.a l) (bitField c.x.e 9 3)) (natField (c.b l) 0 16) (c.zeroCode l)
      c.toD r.1 r.2)
    x s

/-- PACK (16 R353). -/
def execPack (x : Fields) (s : State) : Out :=
  perLane .pack (fun c l => c.toD (mapElems c.ty (fun i => (natField (c.a l) (32 * i) (tyWidth c.ty), 0))).1) x s

/-- UNPACK (16 R353). -/
def execUnpack (x : Fields) (s : State) : Out :=
  perLane .unpack
    (fun c l =>
      let n := tyCount c.ty
      c.toD ((List.range n).foldl
        (fun v i =>
          let e := elemOf c.ty (c.a l) i
          v + (if tySigned c.ty then wrap 32 (signed (tyWidth c.ty) e) else e) * 2 ^ (32 * i))
        0))
    x s

/-- RNG (16 R354, 09 R218). -/
def execRng (x : Fields) (s : State) : Out :=
  perLane .rng
    (fun c l =>
      let a := c.a l
      let k := c.b l
      let r := philox [natField a 0 32, natField a 32 32, natField a 64 32, natField a 96 32] (natField k 0 32) (natField k 32 32)
      c.toD (r.foldr (fun w v => w + 2 ^ 32 * v) 0))
    x s

end Sys2Proof.Machine
end

