-- ==== Sys2Proof/Machine/Lanes.lean ====
section
/-!
DEFINITION. Lanes and predicates: opcodes 0x10 to 0x19 (18 R389 to R393).
-/
namespace Sys2Proof.Machine

/-- The lanes that a quad sees: a packed quad sees its own (05 R112). -/
def Ctx.seen (c : Ctx) (lane : Nat) (m : LaneMask) : LaneMask :=
  if (c.warp.quad (lane / 4)).packed then m &&& quadMask 0xF (lane / 4) else m

/-- V(q) of 18 R390 for the quad of a lane. -/
def Ctx.voters (c : Ctx) (lane : Nat) : LaneMask := c.seen lane c.real

/-- P(L): the source predicate of a lane. -/
def Ctx.pa (c : Ctx) (lane : Nat) : Bool := predOperand c.regs c.x.a lane

/-- All or any of a predicate over some lanes. -/
def Ctx.tally (c : Ctx) (m : LaneMask) : Bool := if c.x.f == 0 then (laneList m).all c.pa else (laneList m).any c.pa

/-- VOTE. -/
def execVote (x : Fields) (s : State) : Out := perLane .vote (fun c l => c.toP (c.tally (c.voters l))) x s

/-- QVOTE. -/
def execQvote (x : Fields) (s : State) : Out :=
  perLane .qvote (fun c l => c.toP (c.tally (c.voters l &&& quadMask 0xF (l / 4)))) x s

/-- BALLOT. -/
def execBallot (x : Fields) (s : State) : Out :=
  perLane .ballot (fun c l => c.toD (maskOf (fun k => (c.voters l).getLsbD k && c.pa k)).toNat) x s

/-- ELECT. -/
def execElect (x : Fields) (s : State) : Out := perLane .elect (fun c l => c.toP (lowestLane (c.voters l) == some l)) x s

/-- LANES (18 R391). -/
def execLanes (x : Fields) (s : State) : Out :=
  perLane .lanes
    (fun c l =>
      c.toD (match c.x.f.toNat with
        | 0 => c.seen l c.lanes
        | 1 => c.seen l (c.warp.livingOf c.warp.aliveQuads)
        | _ => ~~~(c.warp.helper ||| c.warp.absent)).toNat)
    x s

/-- Src(j) of 18 R392 as a lane sees it. -/
def Ctx.source (c : Ctx) (lane j : Nat) : Nat := if (c.seen lane c.lanes).getLsbD j then c.a j else 0

/-- QSWZ. -/
def execQswz (x : Fields) (s : State) : Out :=
  perLane .qswz (fun c l => c.toD (c.source l (4 * (l / 4) + natField (c.b l) (2 * (l % 4)) 2))) x s

/-- QBCAST. -/
def execQbcast (x : Fields) (s : State) : Out :=
  perLane .qbcast (fun c l => c.toD (c.source l (4 * (c.b l % 8) + l % 4))) x s

/-- PSET (18 R393). -/
def execPset (x : Fields) (s : State) : Out :=
  perLane .pset
    (fun c l =>
      c.toP (bitAt c.x.f (2 * boolNat (c.regs.pred (c.x.a.reg.toNat % 8) l) + boolNat (c.regs.pred (c.x.b.reg.toNat % 8) l))))
    x s

/-- PMOV_GET (18 R393). -/
def execPmovGet (x : Fields) (s : State) : Out :=
  perLane .pmovGet
    (fun c l => c.toD ([0, 1, 2, 3, 4, 5, 6, 7].foldl (fun v i => v + boolNat (c.regs.pred i l) * 2 ^ i) 0)) x s

/-- PMOV_PUT (18 R393). -/
def execPmovPut (x : Fields) (s : State) : Out :=
  perLane .pmovPut
    (fun c l => { preds := ([0, 1, 2, 3, 4, 5, 6].filter (natBit (c.b l))).map (fun i => (i, natBit (c.a l) i)) }) x s

/-- SEL (18 R393). -/
def execSel (x : Fields) (s : State) : Out :=
  perLane .sel
    (fun c l => c.toD (if c.regs.pred (bitField c.x.e 0 3) l != bitAt c.x.e 3 then c.a l else c.b l)) x s

end Sys2Proof.Machine
end

