-- ==== Sys2Proof/Machine/Power.lean ====
section
/-!
DEFINITION. In-field test and withdrawal of cores, retirement of banks, supply, power and cooling (06 R136; 11 R251 to R257), and cold reset (03 R74). An event that
is not enabled changes nothing.
-/
namespace Sys2Proof.Machine

/-- A core has nothing resident and its copy engine nothing to do. -/
def State.coreEmpty (s : State) (core : Nat) : Bool :=
  !s.blocks.any (fun b => b.cores.contains core) && (s.coreOf core).sprues.all (fun q => q == [])

/-- CORE_GATE (R254). -/
def execCoreGate (core : Nat) (s : State) : Out :=
  let c := s.coreOf core
  .next (if c.gated || c.withdrawn || c.withdrawing || !s.coreEmpty core || (s.hb - c.idleSince).toNat < 8192 then s
    else s.onCore core (fun c => { c with gated := true }))

/-- Every memory that the test of a core covers is zero with valid check bits (R251). -/
def State.testCore (s : State) (core : Nat) : State :=
  let here (id : GroupId) : Bool := id.space == .block && id.home == core
  { s with
    banks := s.banks.zero (bankBase core 0) 262144, badBankWords := s.badBankWords.filter (fun e => 4 * e.1 / 262144 != core),
    bmem := s.bmem.zero (core * 262144) 262144, parity := s.parity.filter (fun e => e.1 / 2 ^ 22 != core),
    groups := (s.groups.map (fun g => if here g.id then { Group.reset g.id with retired := g.retired, reports := g.reports } else g)).filter
      (fun g => g != Group.reset g.id),
    bankErrors := s.bankErrors.filter (fun e => !here e.id) }

/-- A record of a unit of a core, to the partition that holds it (11 Table 11-6). -/
def State.logCore (s : State) (core : Nat) (r : ErrorRecord) : State :=
  s.logPart (fun p => s.holdsCore p core) { r with core := s.coreNumber core, die := coreDie core }

/-- A bank retired and reported (06 R136). -/
def State.retireBank (s : State) (id : GroupId) (bank : Nat) : State :=
  let g := s.groupOf id
  let s := s.putGroup { g with retired := g.retired ++ [bank] }
  let r := { ErrorRecord.ofKind 2 with detail := bank, tinfo := BitVec.ofNat 64 (id.group * 2 ^ 32) }
  match id.space with
  | .block => s.logCore id.home r
  | .spad => s.logPart (fun p => onDie p.desc id.home) { r with die := id.home }

/-- A core withdrawn and reported (R253). -/
def State.withdraw (s : State) (core : Nat) : State :=
  (s.onCore core (fun c => { c with withdrawn := true, withdrawing := false, gated := false })).logCore core (ErrorRecord.ofKind 3)

/-- What follows from the test of a core (R252): a bank that fails alone in its group is retired, and two of one group, or any other failure, withdraw the core. -/
def State.tested (s : State) (core : Nat) : TestResult → State
  | .pass => s
  | .fail => s.withdraw core
  | .banks failed =>
    let held (f : Nat × Nat) : List Nat := (s.groupOf ⟨.block, core, f.1⟩).retired
    let new := failed.eraseDups.filter (fun f => !(held f).contains f.2)
    if new.any (fun f => f.2 > 4 || held f != [] || new.any (fun g => g.1 == f.1 && g.2 != f.2)) then s.withdraw core
    else new.foldl (fun s f => s.retireBank ⟨.block, core, f.1⟩ f.2) s

/-- CORE_WAKE (R251, R252): a gated core is tested, and its clock count starts again (15 R335). -/
def execCoreWake (core : Nat) (test : TestResult) (s : State) : Out :=
  let c := s.coreOf core
  if !c.gated then .next s
  else
    let s := (s.testCore core).onCore core (fun c => { Core.reset core with regErrors := c.regErrors, idleSince := s.hb, lastTask := c.lastTask })
    .next (s.tested core test)

/-- Reports within 2²³ heartbeats. -/
def State.recent (s : State) (t : BitVec 64) : Bool := decide ((s.hb - t).toNat < 2 ^ 23)

/-- CORE_WITHDRAW (R253): from then on no block is placed on it and its resident blocks leave; once they are gone it is withdrawn. -/
def execCoreWithdraw (core : Nat) (selfCheck : Bool) (s : State) : Out :=
  let c := s.coreOf core
  let there (s : State) : List Block := s.blocks.filter (fun b => b.cores.contains core)
  if c.withdrawn || !(c.withdrawing || selfCheck || decide ((c.regErrors.filter s.recent).length ≥ 4)) then .next s
  else
    let s := s.onCore core (fun c => { c with withdrawing := true })
    let s := (there s).foldl (fun s b => s.tryEvict b.uid) s
    .next (if there s != [] then s else s.withdraw core)

/-- BANK_RETIRE (06 R136): once the group's queue is empty and no parity of it waits to be recomputed. -/
def execBankRetire (group : GroupId) (bank : Nat) (s : State) : Out :=
  let g := s.groupOf group
  let mine := g.reports.filter (fun r => r.1 == bank && s.recent r.2.2)
  let doubles := (mine.filter (fun r => r.2.1)).length
  if g.retired.contains bank || bank > 4 || (doubles < 4 && mine.length - doubles < 1024) then .next s
  else
    let s := g.queue.foldl (fun s _ => s.applyParity group) s
    let s := (s.groupOf group).recompute.foldl (fun s row => s.recomputeParity group row) s
    .next (s.retireBank group bank)

/-! ### Power (R255 to R257) -/

/-- A step of an island's setpoint, in 50 MHz below its nominal 1,800 MHz: down when power is above the cap or the island is hot, up when
power is 5 % below the cap. -/
def stepDown (watts cap : Nat) (hot : Bool) (steps : Nat) : Nat :=
  if watts > cap || hot then min 35 (steps + 1) else if watts * 100 ≤ cap * 95 then steps - 1 else steps

/-- One compute island throttled or released; the beginning and the end are reported. The islands have no numbers in Table 1-1: compute island i holds the cores 7i to 7i + 6, and
64 to 83 are the others (DESIGN CHOICE: log 74). -/
def State.throttle (s : State) (watts : Nat) (hot : List Nat) (island : Nat) : State :=
  let old := Cells.get 0 s.setpoints island
  let new := stepDown watts s.cap (hot.contains island) old
  let s : State := { s with setpoints := Cells.put 0 s.setpoints island new }
  if (old == 0) == (new == 0) then s
  else s.logPart (fun p => s.holdsCore p (7 * island)) { ErrorRecord.ofKind 5 with die := island / 16, detail := island }

/-- POWER_CAP_CHECK: every 1,024 heartbeats, with the cap that the host has set since. -/
def execPowerCapCheck (watts : Nat) (cap : Option Nat) (hot : List Nat) (s : State) : Out :=
  if (s.hb - s.powerHb).toNat < 1024 then .next s
  else
    let cap := match cap with | some c => if 1500 ≤ c && c ≤ 3000 then c else s.cap | none => s.cap
    .next ((List.range 64).foldl (fun s i => s.throttle watts hot i) { s with powerHb := s.hb, cap })

/-- THERMAL_TRIP: every context is killed, and no block starts until the package has cooled. -/
def execThermalTrip (die : Nat) (s : State) : Out :=
  let s := s.contexts.foldl (fun (s : State) c => s.killContext c.id) { s with tripped := true }
  .next (s.logPart (fun p => onDie p.desc die || (p.desc.spad.getD die (0, 0)).2 != 0) { ErrorRecord.ofKind 6 with die })

/-- THERMAL_TRIP_RECOVERY. -/
def execThermalTripRecovery (s : State) : Out := .next { s with tripped := false }

/-- SUPPLY_SAG: the island's clock is stretched; no count made in clocks changes. -/
def execSupplySag (island : Nat) (s : State) : Out :=
  .next (if island < 84 && !s.stretched.contains island then { s with stretched := s.stretched ++ [island] } else s)

/-- SUPPLY_RECOVERY. -/
def execSupplyRecovery (island : Nat) (s : State) : Out := .next { s with stretched := s.stretched.filter (fun i => i != island) }

/-! ### Cold reset (03 R74) -/

/-- COLD_RESET: the package as after reset, in its life-cycle state and with its provisioning; every core is tested, with the outcomes that `tests` gives, and a package that is not the root of
its domain joins it anew (01 R23). -/
def execColdReset (s : State) : Out :=
  let tests := s.tests
  let lead := s.pkg == s.root
  let s : State :=
    { State.reset with
      agenda := s.agenda, here := s.here, focus := s.focus, fresh := s.fresh, uids := s.uids, pkg := s.pkg, root := s.root, routes := s.routes,
      locked := lead, joined := lead, life := s.life, identity := s.identity, out := s.out }
  .next ((tests.filter (fun t => t.1 < 448)).foldl (fun s t => s.tested t.1 t.2) s)

end Sys2Proof.Machine
end

