-- ==== Sys2Proof/Machine/System.lean ====
section
/-!
DEFINITION. Task and die instructions, collectives and counters: `launch`, `tdep`, `signal`, `evq`, `sysc`, `coll`, `yieldb` and `perf`
(20 R432 to R437, R441).
-/
namespace Sys2Proof.Machine

/-- Every earlier access of the warp is complete (R432). -/
def State.released (s : State) (w : Warp) : Bool := w.pending == [] && !s.channels.any (fun o => o.warp == w.uid)

/-- A release waits until the warp's earlier accesses are complete. -/
def afterRelease (f : State → Ctx → Done) (s : State) (c : Ctx) : Done := if s.released c.warp then f s c else stall s c
def releaseEffect (read : Ctx → List Nat) (f : State → Ctx → Done) : State → Ctx → Done := engineEffect read (afterRelease f)

/-- LAUNCH (R433): the entry of a task record in the issuing die's table, or bit 31 with the status. -/
def execLaunch (x : Fields) (s : State) : Out :=
  issue
    (engineValue (fun c => [c.a 0]) (afterRelease (fun s c =>
      Got.then s c (s.recordDev c (c.a 0) 4) (fun s bs =>
        let die := coreDie c.core
        let (s, st, idx) := s.enterTask die c.warp.ctx (TaskRec.ofBytes bs)
        let v := if st == stOk then 4096 * die + idx else 2 ^ 31 + st
        .ok (finishWarp (s.putResult c v 1) c true)))))
    .launch x s

/-- TDEP (R434). -/
def execTdep (x : Fields) (s : State) : Out :=
  issue
    (releaseEffect (fun c => [c.a 0, c.b 0]) (fun s c =>
      let v := c.a 0
      let die := natField v 12 2
      let held := match s.partOfCtx c.warp.ctx with | some p => onDie p.desc die | none => false
      if v ≥ 2 ^ 14 || !held then laneTrap s c c.real 0x02 none (encInfo 9 6)
      else .ok (finishWarp (s.decrement die (v % 4096) (c.b 0)) c true)))
    .tdep x s

/-- SIGNAL (R434, 02 R36). -/
def execSignal (x : Fields) (s : State) : Out :=
  issue
    (releaseEffect (fun c => [c.a 0]) (fun s c =>
      if c.a 0 > 63 then laneTrap s c c.real 0x02 none (encInfo 9 6)
      else
        let s := match s.ctxOf c.warp.ctx with | some k => s.raiseVector k.vd (c.a 0) | none => s
        .ok (finishWarp s c true)))
    .signal x s

/-- EVQ (R434, 08 R183): with the ring full the gang is not ready. -/
def execEvq (x : Fields) (s : State) : Out :=
  issue
    (releaseEffect (fun c => [c.a 0]) (fun s c =>
      let die := coreDie c.core
      if s.ringFull die then stall s c
      else
        .ok (finishWarp
          (s.post die
            { ctx := c.warp.ctx, tag := BitVec.ofNat 64 (c.a 0), cause := 0, sprue := 0xFF, core := BitVec.ofNat 16 (s.coreNumber c.core), rows := 0,
              bytes := 0, faddr := 0 })
          c true)))
    .evq x s

/-- SYSC (R434): the block is taken by the die's control core for the issuing context. -/
def execSysc (x : Fields) (s : State) : Out :=
  issue
    (releaseEffect (fun c => [c.a 0]) (fun s c =>
      Got.then s c (s.recordDev c (c.a 0) 1) (fun s hdr =>
        Got.then s c (if leAt hdr 12 4 == 64 then s.recordDev c (c.a 0 + 64) 1 else (s, .ok [])) (fun s body =>
          match s.checkDev c.core c.warp.ctx (c.a 0) 64 .r, s.ctxOf c.warp.ctx with
          | (s, .ok (key, _)), some k =>
            .ok (finishWarp (s.takeBlock k.vd none (coreDie c.core) key (some k.id) hdr body) c true)
          | _, _ => .ok (finishWarp s c true)))))
    .sysc x s

/-! ### Collectives (R436, Table 20-5a) -/

/-- TINFO of a `coll` that does not fit its record. -/
def collInfo (q : Nat) : Nat := sizeInfo 6 q

/-- A collective record that raises cause 0x12. -/
def collBad (l : List Byte) (ty : Nat) : Bool :=
  let npart := leAt l 8 2
  let bytes := leAt l 12 2
  npart == 0 || npart > 4096 || leAt l 10 2 ≥ npart || bytes < 4 || bytes > 256 || bytes % max 1 (tyWidth ty / 8) != 0 || leAt l 14 2 != 0
    || !allZero (l.drop 36)

/-- Operations of a context already issued on a record and not completed. -/
def State.collsOn (s : State) (ctx record : Nat) : Nat :=
  s.cores.foldl
    (fun n k =>
      k.sprues.foldl
        (fun n q =>
          n + (q.filter (fun x => x.ctx == ctx && match x.work with | .coll _ _ r _ _ _ _ _ _ _ _ _ => r == record | _ => false)).length)
        n)
    0

/-- An owner entry names this package, which 0x3FF does too, and the die of a core (06 Table 6-8). -/
def State.ownEntry (s : State) (core v : Nat) : Bool := v % 4 == coreDie core && (v / 4 == 0x3FF || v / 4 == s.pkg.toNat)

/-- COLL: a collective command in its sprue. -/
def execColl (x : Fields) (s : State) : Out :=
  issue
    (engineEffect Ctx.operands (fun s c =>
      let q := c.sprueField
      let record := c.a 0
      let src := c.b 0
      let dst := c.c 0
      let refuse (s : State) (e : Bad) : Done := laneTrap s c c.real e.cause e.addr e.info
      Got.then s c (s.recordDev c record 1) (fun s l =>
        if collBad l c.ty then refuse s ⟨0x12, none, collInfo q⟩
        else
          match (badBase src).or (badBase dst) with
          | some e => refuse s e
          | none =>
            Got.then s c (s.recordPiece c (leAt l 16 8 + 4 * leAt l 10 2) 4 1) (fun s m =>
              if leAt m 0 4 ≥ 2 ^ 12 then refuse s ⟨0x16, some (leAt l 16 8 + 4 * leAt l 10 2), none⟩
              else if !s.ownEntry c.core (leAt m 0 4) then refuse s ⟨0x12, none, collInfo q⟩
              else if s.spruefull c.core q then stall s c
              else
                let work : CmdWork :=
                  .coll x.f.toNat x.t record src dst (leAt l 0 8) (leAt l 8 2) (leAt l 10 2) (leAt l 12 2) (leAt l 32 4)
                    (leAt l 24 8 + s.collsOn c.warp.ctx record) s.hb
                .ok (finishWarp (s.issueCommand c q Routes.none work) c true)))))
    .coll x s

/-! ### The rest -/

/-- YIELDB (R435): the block is offered for eviction until its warp issues again. -/
def execYieldb (x : Fields) (s : State) : Out :=
  issue (engineEffect (fun _ => []) (fun s c => .ok ((finishWarp s c true).onWarp c.warp.uid (fun w => { w with offered := true })))) .yieldb x s

/-- A counter (R441). The conflicting reads that were served by reconstruction (06 R132), and the cycles that reads waited on busy banks, advance by amounts that the device
chooses. -/
def State.counter (s : State) (c : Ctx) (k : Nat) : State × BitVec 64 :=
  let w := c.warp
  let core := s.coreOf c.core
  match k with
  | 0 => (s, w.retired)
  | 1 => (s, BitVec.ofNat 64 (core.clk - w.startClk))
  | 2 => (s, w.pours)
  | 3 => (s, w.steps)
  | 4 =>
    let (n, s) := s.chooseNat
    (s.onCore c.core (fun c => { c with rebuilt := c.rebuilt + BitVec.ofNat 64 n }), core.rebuilt + BitVec.ofNat 64 n)
  | 5 =>
    let (n, s) := s.chooseNat
    (s.onCore c.core (fun c => { c with busyWaits := c.busyWaits + BitVec.ofNat 64 n }), core.busyWaits + BitVec.ofNat 64 n)
  | 6 => (s, core.copied)
  | _ => (s, BitVec.ofNat 64 (Cells.get 0 s.ladleIn (coreCluster c.core)))

/-- PERF: the same value in every active lane. -/
def execPerf (x : Fields) (s : State) : Out :=
  issue
    (engineValue (fun c => [c.a 0]) (fun s c =>
      if c.a 0 > 7 then laneTrap s c c.real 0x02 none (encInfo 9 6)
      else
        let (s, v) := s.counter c (c.a 0)
        let d := c.x.d.toNat
        let vals := (laneList c.lanes).flatMap (fun l => [(d, l, v.setWidth 32), (d + 1, l, (v >>> 32).setWidth 32)])
        let (s, vals) := s.landing (earlyLanes c.warp c.quads (writeRegs c.op c.x c.form)) vals
        .ok (finishWarp (s.onWarp c.warp.uid (fun w => w.landValues vals)) c true)))
    .perf x s

end Sys2Proof.Machine
end

