-- ==== Sys2Proof/Machine/Dispatch.lean ====
section
/-! DEFINITION. One arm for each constructor of `Instr`. -/
namespace Sys2Proof.Machine

def exec (i : Instr) (s : State) : Host.Outcome State Fault Refusal :=
  match i with
  | .nop x => Sys2Proof.Machine.execNop x s
  | .bra x => Sys2Proof.Machine.execBra x s
  | .braFair x => Sys2Proof.Machine.execBraFair x s
  | .braPack x => Sys2Proof.Machine.execBraPack x s
  | .brx x => Sys2Proof.Machine.execBrx x s
  | .call x => Sys2Proof.Machine.execCall x s
  | .ret x => Sys2Proof.Machine.execRet x s
  | .exit x => Sys2Proof.Machine.execExit x s
  | .join x => Sys2Proof.Machine.execJoin x s
  | .rgang x => Sys2Proof.Machine.execRgang x s
  | .rgangHome x => Sys2Proof.Machine.execRgangHome x s
  | .yield x => Sys2Proof.Machine.execYield x s
  | .trap x => Sys2Proof.Machine.execTrap x s
  | .bkpt x => Sys2Proof.Machine.execBkpt x s
  | .sleep x => Sys2Proof.Machine.execSleep x s
  | .region x => Sys2Proof.Machine.execRegion x s
  | .tret x => Sys2Proof.Machine.execTret x s
  | .loop x => Sys2Proof.Machine.execLoop x s
  | .vote x => Sys2Proof.Machine.execVote x s
  | .ballot x => Sys2Proof.Machine.execBallot x s
  | .qswz x => Sys2Proof.Machine.execQswz x s
  | .qbcast x => Sys2Proof.Machine.execQbcast x s
  | .qvote x => Sys2Proof.Machine.execQvote x s
  | .pset x => Sys2Proof.Machine.execPset x s
  | .pmovGet x => Sys2Proof.Machine.execPmovGet x s
  | .pmovPut x => Sys2Proof.Machine.execPmovPut x s
  | .sel x => Sys2Proof.Machine.execSel x s
  | .lanes x => Sys2Proof.Machine.execLanes x s
  | .elect x => Sys2Proof.Machine.execElect x s
  | .add x => Sys2Proof.Machine.execAdd x s
  | .sub x => Sys2Proof.Machine.execSub x s
  | .add3 x => Sys2Proof.Machine.execAdd3 x s
  | .mul x => Sys2Proof.Machine.execMul x s
  | .mulhi x => Sys2Proof.Machine.execMulhi x s
  | .mad x => Sys2Proof.Machine.execMad x s
  | .madw x => Sys2Proof.Machine.execMadw x s
  | .div x => Sys2Proof.Machine.execDiv x s
  | .rem x => Sys2Proof.Machine.execRem x s
  | .min x => Sys2Proof.Machine.execMin x s
  | .max x => Sys2Proof.Machine.execMax x s
  | .abs x => Sys2Proof.Machine.execAbs x s
  | .neg x => Sys2Proof.Machine.execNeg x s
  | .sad x => Sys2Proof.Machine.execSad x s
  | .addc x => Sys2Proof.Machine.execAddc x s
  | .subb x => Sys2Proof.Machine.execSubb x s
  | .and x => Sys2Proof.Machine.execAnd x s
  | .or x => Sys2Proof.Machine.execOr x s
  | .xor x => Sys2Proof.Machine.execXor x s
  | .andn x => Sys2Proof.Machine.execAndn x s
  | .not x => Sys2Proof.Machine.execNot x s
  | .shl x => Sys2Proof.Machine.execShl x s
  | .shr x => Sys2Proof.Machine.execShr x s
  | .sra x => Sys2Proof.Machine.execSra x s
  | .rot x => Sys2Proof.Machine.execRot x s
  | .fsh x => Sys2Proof.Machine.execFsh x s
  | .bfe x => Sys2Proof.Machine.execBfe x s
  | .bfi x => Sys2Proof.Machine.execBfi x s
  | .popc x => Sys2Proof.Machine.execPopc x s
  | .clz x => Sys2Proof.Machine.execClz x s
  | .ctz x => Sys2Proof.Machine.execCtz x s
  | .brev x => Sys2Proof.Machine.execBrev x s
  | .bperm x => Sys2Proof.Machine.execBperm x s
  | .setp x => Sys2Proof.Machine.execSetp x s
  | .lea x => Sys2Proof.Machine.execLea x s
  | .mov x => Sys2Proof.Machine.execMov x s
  | .movi x => Sys2Proof.Machine.execMovi x s
  | .movu x => Sys2Proof.Machine.execMovu x s
  | .icvt x => Sys2Proof.Machine.execIcvt x s
  | .sat x => Sys2Proof.Machine.execSat x s
  | .csrr x => Sys2Proof.Machine.execCsrr x s
  | .csrw x => Sys2Proof.Machine.execCsrw x s
  | .clk x => Sys2Proof.Machine.execClk x s
  | .hb x => Sys2Proof.Machine.execHb x s
  | .fadd x => Sys2Proof.Machine.execFadd x s
  | .fsub x => Sys2Proof.Machine.execFsub x s
  | .fmul x => Sys2Proof.Machine.execFmul x s
  | .fma x => Sys2Proof.Machine.execFma x s
  | .fmin x => Sys2Proof.Machine.execFmin x s
  | .fmax x => Sys2Proof.Machine.execFmax x s
  | .fmnum x => Sys2Proof.Machine.execFmnum x s
  | .fsetp x => Sys2Proof.Machine.execFsetp x s
  | .frcp x => Sys2Proof.Machine.execFrcp x s
  | .frsq x => Sys2Proof.Machine.execFrsq x s
  | .fsqrt x => Sys2Proof.Machine.execFsqrt x s
  | .fdiv x => Sys2Proof.Machine.execFdiv x s
  | .fex2 x => Sys2Proof.Machine.execFex2 x s
  | .flg2 x => Sys2Proof.Machine.execFlg2 x s
  | .fsin x => Sys2Proof.Machine.execFsin x s
  | .fcos x => Sys2Proof.Machine.execFcos x s
  | .fcvt x => Sys2Proof.Machine.execFcvt x s
  | .fround x => Sys2Proof.Machine.execFround x s
  | .fscale x => Sys2Proof.Machine.execFscale x s
  | .fclass x => Sys2Proof.Machine.execFclass x s
  | .fsel x => Sys2Proof.Machine.execFsel x s
  | .quant x => Sys2Proof.Machine.execQuant x s
  | .dequant x => Sys2Proof.Machine.execDequant x s
  | .pack x => Sys2Proof.Machine.execPack x s
  | .unpack x => Sys2Proof.Machine.execUnpack x s
  | .rng x => Sys2Proof.Machine.execRng x s
  | .malloc x => Sys2Proof.Machine.execMalloc x s
  | .mfree x => Sys2Proof.Machine.execMfree x s
  | .mbind x => Sys2Proof.Machine.execMbind x s
  | .munbind x => Sys2Proof.Machine.execMunbind x s
  | .mload x => Sys2Proof.Machine.execMload x s
  | .mstore x => Sys2Proof.Machine.execMstore x s
  | .mfill x => Sys2Proof.Machine.execMfill x s
  | .mbmap x => Sys2Proof.Machine.execMbmap x s
  | .macc x => Sys2Proof.Machine.execMacc x s
  | .mquery x => Sys2Proof.Machine.execMquery x s
  | .msave x => Sys2Proof.Machine.execMsave x s
  | .mrest x => Sys2Proof.Machine.execMrest x s
  | .mstep x => Sys2Proof.Machine.execMstep x s
  | .ldb x => Sys2Proof.Machine.execLdb x s
  | .stb x => Sys2Proof.Machine.execStb x s
  | .ldd x => Sys2Proof.Machine.execLdd x s
  | .std x => Sys2Proof.Machine.execStd x s
  | .ldk x => Sys2Proof.Machine.execLdk x s
  | .stk x => Sys2Proof.Machine.execStk x s
  | .atom x => Sys2Proof.Machine.execAtom x s
  | .red x => Sys2Proof.Machine.execRed x s
  | .fenceBlk x => Sys2Proof.Machine.execFenceBlk x s
  | .fenceClu x => Sys2Proof.Machine.execFenceClu x s
  | .fenceDev x => Sys2Proof.Machine.execFenceDev x s
  | .fenceSys x => Sys2Proof.Machine.execFenceSys x s
  | .fenceTick x => Sys2Proof.Machine.execFenceTick x s
  | .barInit x => Sys2Proof.Machine.execBarInit x s
  | .barArrive x => Sys2Proof.Machine.execBarArrive x s
  | .barWait x => Sys2Proof.Machine.execBarWait x s
  | .barSync x => Sys2Proof.Machine.execBarSync x s
  | .barSyncSpec x => Sys2Proof.Machine.execBarSyncSpec x s
  | .barDebt x => Sys2Proof.Machine.execBarDebt x s
  | .mon x => Sys2Proof.Machine.execMon x s
  | .wait x => Sys2Proof.Machine.execWait x s
  | .tflag x => Sys2Proof.Machine.execTflag x s
  | .rfence x => Sys2Proof.Machine.execRfence x s
  | .cp x => Sys2Proof.Machine.execCp x s
  | .cpg x => Sys2Proof.Machine.execCpg x s
  | .cps x => Sys2Proof.Machine.execCps x s
  | .cpt x => Sys2Proof.Machine.execCpt x s
  | .cpc x => Sys2Proof.Machine.execCpc x s
  | .cpv x => Sys2Proof.Machine.execCpv x s
  | .qfence x => Sys2Proof.Machine.execQfence x s
  | .qwait x => Sys2Proof.Machine.execQwait x s
  | .qwaitReplay x => Sys2Proof.Machine.execQwaitReplay x s
  | .qwaitDiscard x => Sys2Proof.Machine.execQwaitDiscard x s
  | .mnopen x => Sys2Proof.Machine.execMnopen x s
  | .mnpush x => Sys2Proof.Machine.execMnpush x s
  | .mnfeed x => Sys2Proof.Machine.execMnfeed x s
  | .mnisect x => Sys2Proof.Machine.execMnisect x s
  | .mndrain x => Sys2Proof.Machine.execMndrain x s
  | .mnresume x => Sys2Proof.Machine.execMnresume x s
  | .mnstat x => Sys2Proof.Machine.execMnstat x s
  | .mnclose x => Sys2Proof.Machine.execMnclose x s
  | .launch x => Sys2Proof.Machine.execLaunch x s
  | .tdep x => Sys2Proof.Machine.execTdep x s
  | .signal x => Sys2Proof.Machine.execSignal x s
  | .coll x => Sys2Proof.Machine.execColl x s
  | .evq x => Sys2Proof.Machine.execEvq x s
  | .sysc x => Sys2Proof.Machine.execSysc x s
  | .savew x => Sys2Proof.Machine.execSavew x s
  | .restw x => Sys2Proof.Machine.execRestw x s
  | .yieldb x => Sys2Proof.Machine.execYieldb x s
  | .perf x => Sys2Proof.Machine.execPerf x s
  | .tickFlitReceive root => Sys2Proof.Machine.execTickFlitReceive root s
  | .rootSelection pkg => Sys2Proof.Machine.execRootSelection pkg s
  | .flitReceive port flit => Sys2Proof.Machine.execFlitReceive port flit s
  | .portRetrain port lanes => Sys2Proof.Machine.execPortRetrain port lanes s
  | .portTraining port lanes => Sys2Proof.Machine.execPortTraining port lanes s
  | .portDown port => Sys2Proof.Machine.execPortDown port s
  | .sysResponseTimeout op => Sys2Proof.Machine.execSysResponseTimeout op s
  | .fabricOutcomeSettle op answer => Sys2Proof.Machine.execFabricOutcomeSettle op answer s
  | .packageProvisioning pkg routes => Sys2Proof.Machine.execPackageProvisioning pkg routes s
  | .hostRequest req => Sys2Proof.Machine.execHostRequest req s
  | .queueTake vd queue => Sys2Proof.Machine.execQueueTake vd queue s
  | .commandComplete cmd => Sys2Proof.Machine.execCommandComplete cmd s
  | .hostCopyPiece cmd data fails => Sys2Proof.Machine.execHostCopyPiece cmd data fails s
  | .signalWrite vd vector => Sys2Proof.Machine.execSignalWrite vd vector s
  | .writeQuiescence ctx => Sys2Proof.Machine.execWriteQuiescence ctx s
  | .eventRecord die => Sys2Proof.Machine.execEventRecord die s
  | .layoutCommit parts ahead => Sys2Proof.Machine.execLayoutCommit parts ahead s
  | .marginIdle cluster => Sys2Proof.Machine.execMarginIdle cluster s
  | .clusterLend cluster => Sys2Proof.Machine.execClusterLend cluster s
  | .clusterClaim cluster => Sys2Proof.Machine.execClusterClaim cluster s
  | .timeSliceSwitch pid => Sys2Proof.Machine.execTimeSliceSwitch pid s
  | .windowRegisterWrite vd win len value => Sys2Proof.Machine.execWindowRegisterWrite vd win len value s
  | .configRegionWrite vd write => Sys2Proof.Machine.execConfigRegionWrite vd write s
  | .pauseDevice vd => Sys2Proof.Machine.execPauseDevice vd s
  | .resumeDevice vd => Sys2Proof.Machine.execResumeDevice vd s
  | .migrateDevice vd dest => Sys2Proof.Machine.execMigrateDevice vd dest s
  | .virtualDeviceReset vd => Sys2Proof.Machine.execVirtualDeviceReset vd s
  | .queryItem item => Sys2Proof.Machine.execQueryItem item s
  | .lifeCycleTransition dest => Sys2Proof.Machine.execLifeCycleTransition dest s
  | .taskComplete die idx => Sys2Proof.Machine.execTaskComplete die idx s
  | .blockStart die idx stage => Sys2Proof.Machine.execBlockStart die idx stage s
  | .consumerBlockStart die idx stage => Sys2Proof.Machine.execConsumerBlockStart die idx stage s
  | .stageRebalance die idx => Sys2Proof.Machine.execStageRebalance die idx s
  | .blockEvict block => Sys2Proof.Machine.execBlockEvict block s
  | .blockRestore die idx stage => Sys2Proof.Machine.execBlockRestore die idx stage s
  | .watchdogFire ctx => Sys2Proof.Machine.execWatchdogFire ctx s
  | .coreGate core => Sys2Proof.Machine.execCoreGate core s
  | .coreWake core test => Sys2Proof.Machine.execCoreWake core test s
  | .coreWithdraw core selfCheck => Sys2Proof.Machine.execCoreWithdraw core selfCheck s
  | .bankRetire group bank => Sys2Proof.Machine.execBankRetire group bank s
  | .powerCapCheck watts cap hot => Sys2Proof.Machine.execPowerCapCheck watts cap hot s
  | .thermalTrip die => Sys2Proof.Machine.execThermalTrip die s
  | .supplySag island => Sys2Proof.Machine.execSupplySag island s
  | .accessPerform warp index => Sys2Proof.Machine.execAccessPerform warp index s
  | .channelDeliver pkg cls => Sys2Proof.Machine.execChannelDeliver pkg cls s
  | .parityApply group => Sys2Proof.Machine.execParityApply group s
  | .parityRecompute group row => Sys2Proof.Machine.execParityRecompute group row s
  | .versionApply line index => Sys2Proof.Machine.execVersionApply line index s
  | .versionTimeout line index => Sys2Proof.Machine.execVersionTimeout line index s
  | .packWindowClose core pc => Sys2Proof.Machine.execPackWindowClose core pc s
  | .sparsePourStep warp => Sys2Proof.Machine.execSparsePourStep warp s
  | .shadowCompare warp => Sys2Proof.Machine.execShadowCompare warp s
  | .copyPerform core pick => Sys2Proof.Machine.execCopyPerform core pick s
  | .copyFaultTimeout core sprue => Sys2Proof.Machine.execCopyFaultTimeout core sprue s
  | .commandCompletion core sprue => Sys2Proof.Machine.execCommandCompletion core sprue s
  | .feedStreamRead core sprue => Sys2Proof.Machine.execFeedStreamRead core sprue s
  | .ladleDrainDone job => Sys2Proof.Machine.execLadleDrainDone job s
  | .spanFinalMerge job => Sys2Proof.Machine.execSpanFinalMerge job s
  | .collComplete core sprue peers => Sys2Proof.Machine.execCollComplete core sprue peers s
  | .mallocGrant core => Sys2Proof.Machine.execMallocGrant core s
  | .waitWake warp lane => Sys2Proof.Machine.execWaitWake warp lane s
  | .waitTimeout warp quad => Sys2Proof.Machine.execWaitTimeout warp quad s
  | .fenceTickComplete warp => Sys2Proof.Machine.execFenceTickComplete warp s
  | .sleepExpire warp quad => Sys2Proof.Machine.execSleepExpire warp quad s
  | .stackWriteBack warp line => Sys2Proof.Machine.execStackWriteBack warp line s
  | .createVirtualDevice spec => Sys2Proof.Machine.execCreateVirtualDevice spec s
  | .collTimeout core sprue => Sys2Proof.Machine.execCollTimeout core sprue s
  | .supplyRecovery island => Sys2Proof.Machine.execSupplyRecovery island s
  | .softError target double => Sys2Proof.Machine.execSoftError target double s
  | .heartbeatTick => Sys2Proof.Machine.execHeartbeatTick s
  | .counterCorrection => Sys2Proof.Machine.execCounterCorrection s
  | .rootRouteLoss => Sys2Proof.Machine.execRootRouteLoss s
  | .nopCmd => Sys2Proof.Machine.execNopCmd s
  | .createContext => Sys2Proof.Machine.execCreateContext s
  | .destroyContext => Sys2Proof.Machine.execDestroyContext s
  | .map => Sys2Proof.Machine.execMap s
  | .unmap => Sys2Proof.Machine.execUnmap s
  | .launchTask => Sys2Proof.Machine.execLaunchTask s
  | .hostCopy => Sys2Proof.Machine.execHostCopy s
  | .fence => Sys2Proof.Machine.execFence s
  | .signalOnSetTarget => Sys2Proof.Machine.execSignalOnSetTarget s
  | .signalOnSetMask => Sys2Proof.Machine.execSignalOnSetMask s
  | .signalOnClearMask => Sys2Proof.Machine.execSignalOnClearMask s
  | .signalOnTaskArm => Sys2Proof.Machine.execSignalOnTaskArm s
  | .signalOnWordArm => Sys2Proof.Machine.execSignalOnWordArm s
  | .killContext => Sys2Proof.Machine.execKillContext s
  | .checkpointExport => Sys2Proof.Machine.execCheckpointExport s
  | .checkpointImport => Sys2Proof.Machine.execCheckpointImport s
  | .setSlice => Sys2Proof.Machine.execSetSlice s
  | .queryFigures => Sys2Proof.Machine.execQueryFigures s
  | .queryPortWidth => Sys2Proof.Machine.execQueryPortWidth s
  | .querySaveTime => Sys2Proof.Machine.execQuerySaveTime s
  | .queryRetired => Sys2Proof.Machine.execQueryRetired s
  | .queryRevision => Sys2Proof.Machine.execQueryRevision s
  | .queryTime => Sys2Proof.Machine.execQueryTime s
  | .layoutSwap => Sys2Proof.Machine.execLayoutSwap s
  | .layoutAbandon => Sys2Proof.Machine.execLayoutAbandon s
  | .lockInterfaceRequest => Sys2Proof.Machine.execLockInterfaceRequest s
  | .startInterfaceRequest => Sys2Proof.Machine.execStartInterfaceRequest s
  | .stopInterfaceRequest => Sys2Proof.Machine.execStopInterfaceRequest s
  | .getDeviceInterfaceReport => Sys2Proof.Machine.execGetDeviceInterfaceReport s
  | .getDeviceInterfaceState => Sys2Proof.Machine.execGetDeviceInterfaceState s
  | .securedSessionFail => Sys2Proof.Machine.execSecuredSessionFail s
  | .getVersion => Sys2Proof.Machine.execGetVersion s
  | .getCapabilities => Sys2Proof.Machine.execGetCapabilities s
  | .negotiateAlgorithms => Sys2Proof.Machine.execNegotiateAlgorithms s
  | .getDigests => Sys2Proof.Machine.execGetDigests s
  | .getCertificate => Sys2Proof.Machine.execGetCertificate s
  | .challenge => Sys2Proof.Machine.execChallenge s
  | .getMeasurements => Sys2Proof.Machine.execGetMeasurements s
  | .keyExchange => Sys2Proof.Machine.execKeyExchange s
  | .finish => Sys2Proof.Machine.execFinish s
  | .endSession => Sys2Proof.Machine.execEndSession s
  | .keyUpdate => Sys2Proof.Machine.execKeyUpdate s
  | .errorLogRead => Sys2Proof.Machine.execErrorLogRead s
  | .coldReset => Sys2Proof.Machine.execColdReset s
  | .thermalTripRecovery => Sys2Proof.Machine.execThermalTripRecovery s

end Sys2Proof.Machine
end

