-- ==== Sys2Proof/Machine/Step.lean ====
section
/-!
DEFINITION. One step of the machine: what the agenda names next, or with an empty agenda one clock of the sequencer `here`; and the
machine with an instruction placed where that clock fetches.
-/
namespace Sys2Proof.Machine

/-- One step. -/
def step (s : State) : Host.Outcome State Fault Refusal :=
  match s.todo with
  | .exec s i => exec i s
  | .done s => .next s
  | .absent => .fault .noSuchAddress

/-- The machine with the instruction whose first `nbits` bits are `w` where the next step fetches (log entry 3). -/
def State.withFetchWord (s : State) (nbits w : Nat) : State := s.place nbits w

end Sys2Proof.Machine
end

