-- ==== Sys2Proof/WellFormed.lean ====
section
/-!
DEFINITION. When an instruction is well formed: its fields lie in words that it has, and it passes checks 4 and 5 of
12 Table 12-3 as far as they depend on the encoding alone. An event of the package has no encoding and is always well formed.
-/
namespace Sys2Proof

/-- An operation with its fields is well formed. -/
def Op.wf (o : Op) (x : Fields) : Bool := x.fits && formCheck staticEnv o x == none

/-- An instruction is well formed. -/
def Instr.wf (i : Instr) : Bool :=
  match i.opFields with
  | some (o, x) => o.wf x
  | none => true

end Sys2Proof
end

