-- ==== Sys2Proof/Laws/Decode.lean ====
section
/-!
SUPPORT. The decoder reads back what the encoder writes (12 R259, Table 12-1; 13 R276, R280).
-/
namespace Sys2Proof

/-! ### Fields of appended words -/

theorem bitField_eq_extract {w : Nat} (x : BitVec w) (lo n : Nat) : bitField x lo n = (x.extractLsb' lo n).toNat := by
  simp [bitField, BitVec.extractLsb'_toNat, Nat.shiftRight_eq_div_pow]

theorem extract_in {m n : Nat} (a : BitVec m) (b : BitVec n) (k j : Nat) (h : k + j ≤ n) :
    (a ++ b).extractLsb' k j = b.extractLsb' k j := by
  apply BitVec.eq_of_getLsbD_eq
  intro i hi
  have h1 : k + i < n := by omega
  simp [BitVec.getLsbD_append, hi, h1]

theorem extract_out {m n : Nat} (a : BitVec m) (b : BitVec n) (k j : Nat) (h : n ≤ k) :
    (a ++ b).extractLsb' k j = a.extractLsb' (k - n) j := by
  apply BitVec.eq_of_getLsbD_eq
  intro i hi
  have h1 : ¬ k + i < n := by omega
  have h2 : k + i - n = k - n + i := by omega
  simp [BitVec.getLsbD_append, hi, h1, h2]

theorem extract_all {n : Nat} (a : BitVec n) : a.extractLsb' 0 n = a := by simp

theorem bit_in {m n : Nat} (a : BitVec m) (b : BitVec n) (k : Nat) (h : k < n) : (a ++ b).getLsbD k = b.getLsbD k := by
  simp [BitVec.getLsbD_append, h]

theorem bit_out {m n : Nat} (a : BitVec m) (b : BitVec n) (k : Nat) (h : n ≤ k) : (a ++ b).getLsbD k = a.getLsbD (k - n) := by
  have h1 : ¬ k < n := by omega
  simp [BitVec.getLsbD_append, h1]

theorem bit_bool (c : Bool) : (BitVec.ofBool c).getLsbD 0 = c := by cases c <;> rfl

/-- The words of an instruction as the appended parts that Table 12-1 lists. -/
abbrev headParts (o : Op) (x : Fields) : BitVec (6 + (8 + (1 + (3 + (4 + (8 + 2)))))) :=
  x.f ++ (x.d ++ ((BitVec.ofBool x.guard.neg) ++ (x.guard.pred ++ (x.stall ++ ((BitVec.ofNat 8 o.opc) ++ x.len)))))

abbrev oParts (x : Fields) : BitVec (1 + (1 + (3 + (5 + (3 + (8 + (3 + 8))))))) :=
  (BitVec.ofBool x.b.uni) ++ ((BitVec.ofBool x.a.uni) ++ (x.rm ++ (x.t ++ (x.b.mold ++ (x.b.reg ++ (x.a.mold ++ x.a.reg))))))

abbrev cParts (x : Fields) : BitVec (20 + (1 + (3 + 8))) := x.e ++ ((BitVec.ofBool x.c.uni) ++ (x.c.mold ++ x.c.reg))

theorem head_f (o : Op) (x : Fields) : (headWord o x).extractLsb' 26 6 = x.f := by
  show (headParts o x).extractLsb' 26 6 = _
  rw [extract_out _ _ _ _ (by decide)]
  exact extract_all _

theorem head_d (o : Op) (x : Fields) : (headWord o x).extractLsb' 18 8 = x.d := by
  show (headParts o x).extractLsb' 18 8 = _
  rw [extract_in _ _ _ _ (by decide), extract_out _ _ _ _ (by decide)]
  exact extract_all _

theorem head_neg (o : Op) (x : Fields) : (headWord o x).getLsbD 17 = x.guard.neg := by
  show (headParts o x).getLsbD 17 = _
  rw [bit_in _ _ _ (by decide), bit_in _ _ _ (by decide), bit_out _ _ _ (by decide)]
  exact bit_bool _

theorem head_pred (o : Op) (x : Fields) : (headWord o x).extractLsb' 14 3 = x.guard.pred := by
  show (headParts o x).extractLsb' 14 3 = _
  rw [extract_in _ _ _ _ (by decide), extract_in _ _ _ _ (by decide), extract_in _ _ _ _ (by decide), extract_out _ _ _ _ (by decide)]
  exact extract_all _

theorem head_stall (o : Op) (x : Fields) : (headWord o x).extractLsb' 10 4 = x.stall := by
  show (headParts o x).extractLsb' 10 4 = _
  rw [extract_in _ _ _ _ (by decide), extract_in _ _ _ _ (by decide), extract_in _ _ _ _ (by decide), extract_in _ _ _ _ (by decide), extract_out _ _ _ _ (by decide)]
  exact extract_all _

theorem head_opc (o : Op) (x : Fields) : (headWord o x).extractLsb' 2 8 = BitVec.ofNat 8 o.opc := by
  show (headParts o x).extractLsb' 2 8 = _
  rw [extract_in _ _ _ _ (by decide), extract_in _ _ _ _ (by decide), extract_in _ _ _ _ (by decide), extract_in _ _ _ _ (by decide), extract_in _ _ _ _ (by decide), extract_out _ _ _ _ (by decide)]
  exact extract_all _

theorem head_len (o : Op) (x : Fields) : (headWord o x).extractLsb' 0 2 = x.len := by
  show (headParts o x).extractLsb' 0 2 = _
  rw [extract_in _ _ _ _ (by decide), extract_in _ _ _ _ (by decide), extract_in _ _ _ _ (by decide), extract_in _ _ _ _ (by decide), extract_in _ _ _ _ (by decide), extract_in _ _ _ _ (by decide)]
  exact extract_all _

theorem oWord_buni (x : Fields) : (oWord x).getLsbD 31 = x.b.uni := by
  show (oParts x).getLsbD 31 = _
  rw [bit_out _ _ _ (by decide)]
  exact bit_bool _

theorem oWord_auni (x : Fields) : (oWord x).getLsbD 30 = x.a.uni := by
  show (oParts x).getLsbD 30 = _
  rw [bit_in _ _ _ (by decide), bit_out _ _ _ (by decide)]
  exact bit_bool _

theorem oWord_rm (x : Fields) : (oWord x).extractLsb' 27 3 = x.rm := by
  show (oParts x).extractLsb' 27 3 = _
  rw [extract_in _ _ _ _ (by decide), extract_in _ _ _ _ (by decide), extract_out _ _ _ _ (by decide)]
  exact extract_all _

theorem oWord_t (x : Fields) : (oWord x).extractLsb' 22 5 = x.t := by
  show (oParts x).extractLsb' 22 5 = _
  rw [extract_in _ _ _ _ (by decide), extract_in _ _ _ _ (by decide), extract_in _ _ _ _ (by decide), extract_out _ _ _ _ (by decide)]
  exact extract_all _

theorem oWord_bmold (x : Fields) : (oWord x).extractLsb' 19 3 = x.b.mold := by
  show (oParts x).extractLsb' 19 3 = _
  rw [extract_in _ _ _ _ (by decide), extract_in _ _ _ _ (by decide), extract_in _ _ _ _ (by decide), extract_in _ _ _ _ (by decide), extract_out _ _ _ _ (by decide)]
  exact extract_all _

theorem oWord_breg (x : Fields) : (oWord x).extractLsb' 11 8 = x.b.reg := by
  show (oParts x).extractLsb' 11 8 = _
  rw [extract_in _ _ _ _ (by decide), extract_in _ _ _ _ (by decide), extract_in _ _ _ _ (by decide), extract_in _ _ _ _ (by decide), extract_in _ _ _ _ (by decide), extract_out _ _ _ _ (by decide)]
  exact extract_all _

theorem oWord_amold (x : Fields) : (oWord x).extractLsb' 8 3 = x.a.mold := by
  show (oParts x).extractLsb' 8 3 = _
  rw [extract_in _ _ _ _ (by decide), extract_in _ _ _ _ (by decide), extract_in _ _ _ _ (by decide), extract_in _ _ _ _ (by decide), extract_in _ _ _ _ (by decide), extract_in _ _ _ _ (by decide), extract_out _ _ _ _ (by decide)]
  exact extract_all _

theorem oWord_areg (x : Fields) : (oWord x).extractLsb' 0 8 = x.a.reg := by
  show (oParts x).extractLsb' 0 8 = _
  rw [extract_in _ _ _ _ (by decide), extract_in _ _ _ _ (by decide), extract_in _ _ _ _ (by decide), extract_in _ _ _ _ (by decide), extract_in _ _ _ _ (by decide), extract_in _ _ _ _ (by decide), extract_in _ _ _ _ (by decide)]
  exact extract_all _

theorem cWord_e (x : Fields) : (cWord x).extractLsb' 12 20 = x.e := by
  show (cParts x).extractLsb' 12 20 = _
  rw [extract_out _ _ _ _ (by decide)]
  exact extract_all _

theorem cWord_uni (x : Fields) : (cWord x).getLsbD 11 = x.c.uni := by
  show (cParts x).getLsbD 11 = _
  rw [bit_in _ _ _ (by decide), bit_out _ _ _ (by decide)]
  exact bit_bool _

theorem cWord_mold (x : Fields) : (cWord x).extractLsb' 8 3 = x.c.mold := by
  show (cParts x).extractLsb' 8 3 = _
  rw [extract_in _ _ _ _ (by decide), extract_in _ _ _ _ (by decide), extract_out _ _ _ _ (by decide)]
  exact extract_all _

theorem cWord_reg (x : Fields) : (cWord x).extractLsb' 0 8 = x.c.reg := by
  show (cParts x).extractLsb' 0 8 = _
  rw [extract_in _ _ _ _ (by decide), extract_in _ _ _ _ (by decide), extract_in _ _ _ _ (by decide)]
  exact extract_all _

/-! ### The round trip -/

theorem opc_lt (o : Op) : o.opc < 256 := by cases o <;> decide

/-- An operation is found by its opcode and any of its functions (13 R276, R280). -/
theorem findOp_self (o : Op) (f : Nat) (h : o.fs.contains f = true) : findOp o.opc f = some o := by
  have key : ∀ f ∈ o.fs, findOp o.opc f = some o := by cases o <;> decide
  exact key f (by simpa using h)

theorem fieldsOf_words (o : Op) (x : Fields) : fieldsOf (headWord o x) (oWord x) (cWord x) x.i = x := by
  simp only [fieldsOf, head_len, head_f, head_d, head_neg, head_pred, head_stall, oWord_rm, oWord_t, oWord_auni, oWord_amold, oWord_areg,
    oWord_buni, oWord_bmold, oWord_breg, cWord_uni, cWord_mold, cWord_reg, cWord_e]

theorem words_given (o : Op) (x : Fields) (h : x.fits = true) :
    wordsOf (headWord o x) ([oWord x, cWord x, x.i].take x.len.toNat) = (oWord x, cWord x, x.i) := by
  have hn : bitField (headWord o x) 0 2 = x.len.toNat := by rw [bitField_eq_extract, head_len]
  have hl : x.len.toNat < 4 := x.len.isLt
  obtain ⟨len, f, d, ⟨neg, pred⟩, stall, rm, t, ⟨au, am, ar⟩, ⟨bu, bm, br⟩, ⟨cu, cm, cr⟩, e, i⟩ := x
  simp only [wordsOf, hn]
  simp only [Fields.fits, Bool.and_eq_true, Bool.or_eq_true, decide_eq_true_eq, beq_iff_eq, Bool.not_eq_true'] at h
  obtain ⟨⟨h1, h2⟩, h3⟩ := h
  have hc : len.toNat = 0 ∨ len.toNat = 1 ∨ len.toNat = 2 ∨ len.toNat = 3 := by simp only at hl; omega
  rcases hc with hc | hc | hc | hc <;> rw [hc] at h1 h2 h3 ⊢ <;> simp_all [oWord, cWord]

/-- Decoding the words of a well-formed instruction gives it back. -/
theorem decode_encodeOp (o : Op) (x : Fields) (h : o.wf x = true) :
    decode staticEnv (headWord o x) ([oWord x, cWord x, x.i].take x.len.toNat) = .ok (o, x) := by
  simp only [Op.wf, Bool.and_eq_true, beq_iff_eq] at h
  have hf : o.fs.contains x.f.toNat = true := by
    have := h.2
    unfold formCheck at this
    split at this
    · cases this
    · split at this
      · cases this
      · rename_i _ hf
        simpa using hf
  have ho : headOpc (headWord o x) = o.opc := by
    rw [headOpc, bitField_eq_extract, head_opc, BitVec.toNat_ofNat, Nat.mod_eq_of_lt (opc_lt o)]
  have hF : bitField (headWord o x) 26 6 = x.f.toNat := by rw [bitField_eq_extract, head_f]
  simp only [decode, ho, hF, findOp_self o _ hf, words_given o x h.1, fieldsOf_words, h.2]

theorem encodeOp_words (o : Op) (x : Fields) : encodeOp o x = headWord o x :: [oWord x, cWord x, x.i].take x.len.toNat := by
  simp [encodeOp]

end Sys2Proof
end

