-- ==== Sys2Proof/Laws/PerInstr.lean ====
section
/-!
SUPPORT. The round trip of the encoding, instruction by instruction: the decoder reads an instruction back from its own words. An event of
the package has no words.
-/
namespace Sys2Proof.Laws.RoundTrip

/-- The words of a well-formed instruction decode to it, with every field as it was (12 R259; 13 R276). -/
def Statement (i : Instr) : Prop :=
  i.wf = true → ∀ o x, i.opFields = some (o, x) →
    ∃ head rest, encode i = head :: rest ∧ decode staticEnv head rest = .ok (o, x) ∧ o.instr x = i

theorem of_op {i : Instr} {o : Op} {x : Fields} (h : i.opFields = some (o, x)) (hi : o.instr x = i) : Statement i := by
  intro hw o' x' h'
  obtain ⟨rfl, rfl⟩ : o = o' ∧ x = x' := by rw [h] at h'; simpa using h'
  refine ⟨headWord o x, _, ?_, decode_encodeOp o x ?_, hi⟩
  · simp only [encode, h, encodeOp_words]
  · simpa only [Instr.wf, h] using hw

theorem of_event {i : Instr} (h : i.opFields = none) : Statement i := by
  intro _ o x h'
  rw [h] at h'
  cases h'

theorem nop (x : Fields) : Statement (.nop x) := of_op rfl rfl
theorem bra (x : Fields) : Statement (.bra x) := of_op rfl rfl
theorem braFair (x : Fields) : Statement (.braFair x) := of_op rfl rfl
theorem braPack (x : Fields) : Statement (.braPack x) := of_op rfl rfl
theorem brx (x : Fields) : Statement (.brx x) := of_op rfl rfl
theorem call (x : Fields) : Statement (.call x) := of_op rfl rfl
theorem ret (x : Fields) : Statement (.ret x) := of_op rfl rfl
theorem exit (x : Fields) : Statement (.exit x) := of_op rfl rfl
theorem join (x : Fields) : Statement (.join x) := of_op rfl rfl
theorem rgang (x : Fields) : Statement (.rgang x) := of_op rfl rfl
theorem rgangHome (x : Fields) : Statement (.rgangHome x) := of_op rfl rfl
theorem yield (x : Fields) : Statement (.yield x) := of_op rfl rfl
theorem trap (x : Fields) : Statement (.trap x) := of_op rfl rfl
theorem bkpt (x : Fields) : Statement (.bkpt x) := of_op rfl rfl
theorem sleep (x : Fields) : Statement (.sleep x) := of_op rfl rfl
theorem region (x : Fields) : Statement (.region x) := of_op rfl rfl
theorem tret (x : Fields) : Statement (.tret x) := of_op rfl rfl
theorem loop (x : Fields) : Statement (.loop x) := of_op rfl rfl
theorem vote (x : Fields) : Statement (.vote x) := of_op rfl rfl
theorem ballot (x : Fields) : Statement (.ballot x) := of_op rfl rfl
theorem qswz (x : Fields) : Statement (.qswz x) := of_op rfl rfl
theorem qbcast (x : Fields) : Statement (.qbcast x) := of_op rfl rfl
theorem qvote (x : Fields) : Statement (.qvote x) := of_op rfl rfl
theorem pset (x : Fields) : Statement (.pset x) := of_op rfl rfl
theorem pmovGet (x : Fields) : Statement (.pmovGet x) := of_op rfl rfl
theorem pmovPut (x : Fields) : Statement (.pmovPut x) := of_op rfl rfl
theorem sel (x : Fields) : Statement (.sel x) := of_op rfl rfl
theorem lanes (x : Fields) : Statement (.lanes x) := of_op rfl rfl
theorem elect (x : Fields) : Statement (.elect x) := of_op rfl rfl
theorem add (x : Fields) : Statement (.add x) := of_op rfl rfl
theorem sub (x : Fields) : Statement (.sub x) := of_op rfl rfl
theorem add3 (x : Fields) : Statement (.add3 x) := of_op rfl rfl
theorem mul (x : Fields) : Statement (.mul x) := of_op rfl rfl
theorem mulhi (x : Fields) : Statement (.mulhi x) := of_op rfl rfl
theorem mad (x : Fields) : Statement (.mad x) := of_op rfl rfl
theorem madw (x : Fields) : Statement (.madw x) := of_op rfl rfl
theorem div (x : Fields) : Statement (.div x) := of_op rfl rfl
theorem rem (x : Fields) : Statement (.rem x) := of_op rfl rfl
theorem min (x : Fields) : Statement (.min x) := of_op rfl rfl
theorem max (x : Fields) : Statement (.max x) := of_op rfl rfl
theorem abs (x : Fields) : Statement (.abs x) := of_op rfl rfl
theorem neg (x : Fields) : Statement (.neg x) := of_op rfl rfl
theorem sad (x : Fields) : Statement (.sad x) := of_op rfl rfl
theorem addc (x : Fields) : Statement (.addc x) := of_op rfl rfl
theorem subb (x : Fields) : Statement (.subb x) := of_op rfl rfl
theorem and (x : Fields) : Statement (.and x) := of_op rfl rfl
theorem or (x : Fields) : Statement (.or x) := of_op rfl rfl
theorem xor (x : Fields) : Statement (.xor x) := of_op rfl rfl
theorem andn (x : Fields) : Statement (.andn x) := of_op rfl rfl
theorem not (x : Fields) : Statement (.not x) := of_op rfl rfl
theorem shl (x : Fields) : Statement (.shl x) := of_op rfl rfl
theorem shr (x : Fields) : Statement (.shr x) := of_op rfl rfl
theorem sra (x : Fields) : Statement (.sra x) := of_op rfl rfl
theorem rot (x : Fields) : Statement (.rot x) := of_op rfl rfl
theorem fsh (x : Fields) : Statement (.fsh x) := of_op rfl rfl
theorem bfe (x : Fields) : Statement (.bfe x) := of_op rfl rfl
theorem bfi (x : Fields) : Statement (.bfi x) := of_op rfl rfl
theorem popc (x : Fields) : Statement (.popc x) := of_op rfl rfl
theorem clz (x : Fields) : Statement (.clz x) := of_op rfl rfl
theorem ctz (x : Fields) : Statement (.ctz x) := of_op rfl rfl
theorem brev (x : Fields) : Statement (.brev x) := of_op rfl rfl
theorem bperm (x : Fields) : Statement (.bperm x) := of_op rfl rfl
theorem setp (x : Fields) : Statement (.setp x) := of_op rfl rfl
theorem lea (x : Fields) : Statement (.lea x) := of_op rfl rfl
theorem mov (x : Fields) : Statement (.mov x) := of_op rfl rfl
theorem movi (x : Fields) : Statement (.movi x) := of_op rfl rfl
theorem movu (x : Fields) : Statement (.movu x) := of_op rfl rfl
theorem icvt (x : Fields) : Statement (.icvt x) := of_op rfl rfl
theorem sat (x : Fields) : Statement (.sat x) := of_op rfl rfl
theorem csrr (x : Fields) : Statement (.csrr x) := of_op rfl rfl
theorem csrw (x : Fields) : Statement (.csrw x) := of_op rfl rfl
theorem clk (x : Fields) : Statement (.clk x) := of_op rfl rfl
theorem hb (x : Fields) : Statement (.hb x) := of_op rfl rfl
theorem fadd (x : Fields) : Statement (.fadd x) := of_op rfl rfl
theorem fsub (x : Fields) : Statement (.fsub x) := of_op rfl rfl
theorem fmul (x : Fields) : Statement (.fmul x) := of_op rfl rfl
theorem fma (x : Fields) : Statement (.fma x) := of_op rfl rfl
theorem fmin (x : Fields) : Statement (.fmin x) := of_op rfl rfl
theorem fmax (x : Fields) : Statement (.fmax x) := of_op rfl rfl
theorem fmnum (x : Fields) : Statement (.fmnum x) := of_op rfl rfl
theorem fsetp (x : Fields) : Statement (.fsetp x) := of_op rfl rfl
theorem frcp (x : Fields) : Statement (.frcp x) := of_op rfl rfl
theorem frsq (x : Fields) : Statement (.frsq x) := of_op rfl rfl
theorem fsqrt (x : Fields) : Statement (.fsqrt x) := of_op rfl rfl
theorem fdiv (x : Fields) : Statement (.fdiv x) := of_op rfl rfl
theorem fex2 (x : Fields) : Statement (.fex2 x) := of_op rfl rfl
theorem flg2 (x : Fields) : Statement (.flg2 x) := of_op rfl rfl
theorem fsin (x : Fields) : Statement (.fsin x) := of_op rfl rfl
theorem fcos (x : Fields) : Statement (.fcos x) := of_op rfl rfl
theorem fcvt (x : Fields) : Statement (.fcvt x) := of_op rfl rfl
theorem fround (x : Fields) : Statement (.fround x) := of_op rfl rfl
theorem fscale (x : Fields) : Statement (.fscale x) := of_op rfl rfl
theorem fclass (x : Fields) : Statement (.fclass x) := of_op rfl rfl
theorem fsel (x : Fields) : Statement (.fsel x) := of_op rfl rfl
theorem quant (x : Fields) : Statement (.quant x) := of_op rfl rfl
theorem dequant (x : Fields) : Statement (.dequant x) := of_op rfl rfl
theorem pack (x : Fields) : Statement (.pack x) := of_op rfl rfl
theorem unpack (x : Fields) : Statement (.unpack x) := of_op rfl rfl
theorem rng (x : Fields) : Statement (.rng x) := of_op rfl rfl
theorem malloc (x : Fields) : Statement (.malloc x) := of_op rfl rfl
theorem mfree (x : Fields) : Statement (.mfree x) := of_op rfl rfl
theorem mbind (x : Fields) : Statement (.mbind x) := of_op rfl rfl
theorem munbind (x : Fields) : Statement (.munbind x) := of_op rfl rfl
theorem mload (x : Fields) : Statement (.mload x) := of_op rfl rfl
theorem mstore (x : Fields) : Statement (.mstore x) := of_op rfl rfl
theorem mfill (x : Fields) : Statement (.mfill x) := of_op rfl rfl
theorem mbmap (x : Fields) : Statement (.mbmap x) := of_op rfl rfl
theorem macc (x : Fields) : Statement (.macc x) := of_op rfl rfl
theorem mquery (x : Fields) : Statement (.mquery x) := of_op rfl rfl
theorem msave (x : Fields) : Statement (.msave x) := of_op rfl rfl
theorem mrest (x : Fields) : Statement (.mrest x) := of_op rfl rfl
theorem mstep (x : Fields) : Statement (.mstep x) := of_op rfl rfl
theorem ldb (x : Fields) : Statement (.ldb x) := of_op rfl rfl
theorem stb (x : Fields) : Statement (.stb x) := of_op rfl rfl
theorem ldd (x : Fields) : Statement (.ldd x) := of_op rfl rfl
theorem std (x : Fields) : Statement (.std x) := of_op rfl rfl
theorem ldk (x : Fields) : Statement (.ldk x) := of_op rfl rfl
theorem stk (x : Fields) : Statement (.stk x) := of_op rfl rfl
theorem atom (x : Fields) : Statement (.atom x) := of_op rfl rfl
theorem red (x : Fields) : Statement (.red x) := of_op rfl rfl
theorem fenceBlk (x : Fields) : Statement (.fenceBlk x) := of_op rfl rfl
theorem fenceClu (x : Fields) : Statement (.fenceClu x) := of_op rfl rfl
theorem fenceDev (x : Fields) : Statement (.fenceDev x) := of_op rfl rfl
theorem fenceSys (x : Fields) : Statement (.fenceSys x) := of_op rfl rfl
theorem fenceTick (x : Fields) : Statement (.fenceTick x) := of_op rfl rfl
theorem barInit (x : Fields) : Statement (.barInit x) := of_op rfl rfl
theorem barArrive (x : Fields) : Statement (.barArrive x) := of_op rfl rfl
theorem barWait (x : Fields) : Statement (.barWait x) := of_op rfl rfl
theorem barSync (x : Fields) : Statement (.barSync x) := of_op rfl rfl
theorem barSyncSpec (x : Fields) : Statement (.barSyncSpec x) := of_op rfl rfl
theorem barDebt (x : Fields) : Statement (.barDebt x) := of_op rfl rfl
theorem mon (x : Fields) : Statement (.mon x) := of_op rfl rfl
theorem wait (x : Fields) : Statement (.wait x) := of_op rfl rfl
theorem tflag (x : Fields) : Statement (.tflag x) := of_op rfl rfl
theorem rfence (x : Fields) : Statement (.rfence x) := of_op rfl rfl
theorem cp (x : Fields) : Statement (.cp x) := of_op rfl rfl
theorem cpg (x : Fields) : Statement (.cpg x) := of_op rfl rfl
theorem cps (x : Fields) : Statement (.cps x) := of_op rfl rfl
theorem cpt (x : Fields) : Statement (.cpt x) := of_op rfl rfl
theorem cpc (x : Fields) : Statement (.cpc x) := of_op rfl rfl
theorem cpv (x : Fields) : Statement (.cpv x) := of_op rfl rfl
theorem qfence (x : Fields) : Statement (.qfence x) := of_op rfl rfl
theorem qwait (x : Fields) : Statement (.qwait x) := of_op rfl rfl
theorem qwaitReplay (x : Fields) : Statement (.qwaitReplay x) := of_op rfl rfl
theorem qwaitDiscard (x : Fields) : Statement (.qwaitDiscard x) := of_op rfl rfl
theorem mnopen (x : Fields) : Statement (.mnopen x) := of_op rfl rfl
theorem mnpush (x : Fields) : Statement (.mnpush x) := of_op rfl rfl
theorem mnfeed (x : Fields) : Statement (.mnfeed x) := of_op rfl rfl
theorem mnisect (x : Fields) : Statement (.mnisect x) := of_op rfl rfl
theorem mndrain (x : Fields) : Statement (.mndrain x) := of_op rfl rfl
theorem mnresume (x : Fields) : Statement (.mnresume x) := of_op rfl rfl
theorem mnstat (x : Fields) : Statement (.mnstat x) := of_op rfl rfl
theorem mnclose (x : Fields) : Statement (.mnclose x) := of_op rfl rfl
theorem launch (x : Fields) : Statement (.launch x) := of_op rfl rfl
theorem tdep (x : Fields) : Statement (.tdep x) := of_op rfl rfl
theorem signal (x : Fields) : Statement (.signal x) := of_op rfl rfl
theorem coll (x : Fields) : Statement (.coll x) := of_op rfl rfl
theorem evq (x : Fields) : Statement (.evq x) := of_op rfl rfl
theorem sysc (x : Fields) : Statement (.sysc x) := of_op rfl rfl
theorem savew (x : Fields) : Statement (.savew x) := of_op rfl rfl
theorem restw (x : Fields) : Statement (.restw x) := of_op rfl rfl
theorem yieldb (x : Fields) : Statement (.yieldb x) := of_op rfl rfl
theorem perf (x : Fields) : Statement (.perf x) := of_op rfl rfl
theorem tickFlitReceive root : Statement (.tickFlitReceive root) := of_event rfl
theorem rootSelection pkg : Statement (.rootSelection pkg) := of_event rfl
theorem flitReceive port flit : Statement (.flitReceive port flit) := of_event rfl
theorem portRetrain port lanes : Statement (.portRetrain port lanes) := of_event rfl
theorem portTraining port lanes : Statement (.portTraining port lanes) := of_event rfl
theorem portDown port : Statement (.portDown port) := of_event rfl
theorem sysResponseTimeout op : Statement (.sysResponseTimeout op) := of_event rfl
theorem fabricOutcomeSettle op answer : Statement (.fabricOutcomeSettle op answer) := of_event rfl
theorem packageProvisioning pkg routes : Statement (.packageProvisioning pkg routes) := of_event rfl
theorem hostRequest req : Statement (.hostRequest req) := of_event rfl
theorem queueTake vd queue : Statement (.queueTake vd queue) := of_event rfl
theorem commandComplete cmd : Statement (.commandComplete cmd) := of_event rfl
theorem hostCopyPiece cmd data fails : Statement (.hostCopyPiece cmd data fails) := of_event rfl
theorem signalWrite vd vector : Statement (.signalWrite vd vector) := of_event rfl
theorem writeQuiescence ctx : Statement (.writeQuiescence ctx) := of_event rfl
theorem eventRecord die : Statement (.eventRecord die) := of_event rfl
theorem layoutCommit parts tick : Statement (.layoutCommit parts tick) := of_event rfl
theorem marginIdle cluster : Statement (.marginIdle cluster) := of_event rfl
theorem clusterLend cluster : Statement (.clusterLend cluster) := of_event rfl
theorem clusterClaim cluster : Statement (.clusterClaim cluster) := of_event rfl
theorem timeSliceSwitch pid : Statement (.timeSliceSwitch pid) := of_event rfl
theorem windowRegisterWrite vd win len value : Statement (.windowRegisterWrite vd win len value) := of_event rfl
theorem configRegionWrite vd write : Statement (.configRegionWrite vd write) := of_event rfl
theorem pauseDevice vd : Statement (.pauseDevice vd) := of_event rfl
theorem resumeDevice vd : Statement (.resumeDevice vd) := of_event rfl
theorem migrateDevice vd dest : Statement (.migrateDevice vd dest) := of_event rfl
theorem virtualDeviceReset vd : Statement (.virtualDeviceReset vd) := of_event rfl
theorem queryItem item : Statement (.queryItem item) := of_event rfl
theorem lifeCycleTransition dest : Statement (.lifeCycleTransition dest) := of_event rfl
theorem taskComplete die idx : Statement (.taskComplete die idx) := of_event rfl
theorem blockStart die idx stage : Statement (.blockStart die idx stage) := of_event rfl
theorem consumerBlockStart die idx stage : Statement (.consumerBlockStart die idx stage) := of_event rfl
theorem stageRebalance die idx : Statement (.stageRebalance die idx) := of_event rfl
theorem blockEvict block : Statement (.blockEvict block) := of_event rfl
theorem blockRestore die idx stage : Statement (.blockRestore die idx stage) := of_event rfl
theorem watchdogFire ctx : Statement (.watchdogFire ctx) := of_event rfl
theorem coreGate core : Statement (.coreGate core) := of_event rfl
theorem coreWake core test : Statement (.coreWake core test) := of_event rfl
theorem coreWithdraw core selfCheck : Statement (.coreWithdraw core selfCheck) := of_event rfl
theorem bankRetire group bank : Statement (.bankRetire group bank) := of_event rfl
theorem powerCapCheck watts cap hot : Statement (.powerCapCheck watts cap hot) := of_event rfl
theorem thermalTrip die : Statement (.thermalTrip die) := of_event rfl
theorem supplySag island : Statement (.supplySag island) := of_event rfl
theorem accessPerform warp index : Statement (.accessPerform warp index) := of_event rfl
theorem channelDeliver pkg cls : Statement (.channelDeliver pkg cls) := of_event rfl
theorem parityApply group : Statement (.parityApply group) := of_event rfl
theorem parityRecompute group row : Statement (.parityRecompute group row) := of_event rfl
theorem versionApply line index : Statement (.versionApply line index) := of_event rfl
theorem versionTimeout line index : Statement (.versionTimeout line index) := of_event rfl
theorem packWindowClose core pc : Statement (.packWindowClose core pc) := of_event rfl
theorem sparsePourStep warp : Statement (.sparsePourStep warp) := of_event rfl
theorem shadowCompare warp : Statement (.shadowCompare warp) := of_event rfl
theorem copyPerform core sprue : Statement (.copyPerform core sprue) := of_event rfl
theorem copyFaultTimeout core sprue : Statement (.copyFaultTimeout core sprue) := of_event rfl
theorem commandCompletion core sprue : Statement (.commandCompletion core sprue) := of_event rfl
theorem feedStreamRead core sprue : Statement (.feedStreamRead core sprue) := of_event rfl
theorem ladleDrainDone job : Statement (.ladleDrainDone job) := of_event rfl
theorem spanFinalMerge job : Statement (.spanFinalMerge job) := of_event rfl
theorem collComplete core sprue peers : Statement (.collComplete core sprue peers) := of_event rfl
theorem mallocGrant core : Statement (.mallocGrant core) := of_event rfl
theorem waitWake warp lane : Statement (.waitWake warp lane) := of_event rfl
theorem waitTimeout warp quad : Statement (.waitTimeout warp quad) := of_event rfl
theorem fenceTickComplete warp : Statement (.fenceTickComplete warp) := of_event rfl
theorem sleepExpire warp quad : Statement (.sleepExpire warp quad) := of_event rfl
theorem stackWriteBack warp line : Statement (.stackWriteBack warp line) := of_event rfl
theorem createVirtualDevice spec : Statement (.createVirtualDevice spec) := of_event rfl
theorem collTimeout core sprue : Statement (.collTimeout core sprue) := of_event rfl
theorem supplyRecovery island : Statement (.supplyRecovery island) := of_event rfl
theorem softError target double : Statement (.softError target double) := of_event rfl
theorem heartbeatTick : Statement .heartbeatTick := of_event rfl
theorem counterCorrection : Statement .counterCorrection := of_event rfl
theorem rootRouteLoss : Statement .rootRouteLoss := of_event rfl
theorem nopCmd : Statement .nopCmd := of_event rfl
theorem createContext : Statement .createContext := of_event rfl
theorem destroyContext : Statement .destroyContext := of_event rfl
theorem map : Statement .map := of_event rfl
theorem unmap : Statement .unmap := of_event rfl
theorem launchTask : Statement .launchTask := of_event rfl
theorem hostCopy : Statement .hostCopy := of_event rfl
theorem fence : Statement .fence := of_event rfl
theorem signalOnSetTarget : Statement .signalOnSetTarget := of_event rfl
theorem signalOnSetMask : Statement .signalOnSetMask := of_event rfl
theorem signalOnClearMask : Statement .signalOnClearMask := of_event rfl
theorem signalOnTaskArm : Statement .signalOnTaskArm := of_event rfl
theorem signalOnWordArm : Statement .signalOnWordArm := of_event rfl
theorem killContext : Statement .killContext := of_event rfl
theorem checkpointExport : Statement .checkpointExport := of_event rfl
theorem checkpointImport : Statement .checkpointImport := of_event rfl
theorem setSlice : Statement .setSlice := of_event rfl
theorem queryFigures : Statement .queryFigures := of_event rfl
theorem queryPortWidth : Statement .queryPortWidth := of_event rfl
theorem querySaveTime : Statement .querySaveTime := of_event rfl
theorem queryRetired : Statement .queryRetired := of_event rfl
theorem queryRevision : Statement .queryRevision := of_event rfl
theorem queryTime : Statement .queryTime := of_event rfl
theorem layoutSwap : Statement .layoutSwap := of_event rfl
theorem layoutAbandon : Statement .layoutAbandon := of_event rfl
theorem lockInterfaceRequest : Statement .lockInterfaceRequest := of_event rfl
theorem startInterfaceRequest : Statement .startInterfaceRequest := of_event rfl
theorem stopInterfaceRequest : Statement .stopInterfaceRequest := of_event rfl
theorem getDeviceInterfaceReport : Statement .getDeviceInterfaceReport := of_event rfl
theorem getDeviceInterfaceState : Statement .getDeviceInterfaceState := of_event rfl
theorem securedSessionFail : Statement .securedSessionFail := of_event rfl
theorem getVersion : Statement .getVersion := of_event rfl
theorem getCapabilities : Statement .getCapabilities := of_event rfl
theorem negotiateAlgorithms : Statement .negotiateAlgorithms := of_event rfl
theorem getDigests : Statement .getDigests := of_event rfl
theorem getCertificate : Statement .getCertificate := of_event rfl
theorem challenge : Statement .challenge := of_event rfl
theorem getMeasurements : Statement .getMeasurements := of_event rfl
theorem keyExchange : Statement .keyExchange := of_event rfl
theorem finish : Statement .finish := of_event rfl
theorem endSession : Statement .endSession := of_event rfl
theorem keyUpdate : Statement .keyUpdate := of_event rfl
theorem errorLogRead : Statement .errorLogRead := of_event rfl
theorem coldReset : Statement .coldReset := of_event rfl
theorem thermalTripRecovery : Statement .thermalTripRecovery := of_event rfl

end Sys2Proof.Laws.RoundTrip
end

