-- ==== Sys2Proof/Safety.lean ====
section
/-!
DEFINITION. The terms that claims are stated in: when a state is in order, when a run is safe, when the issue of an instruction reaches its
effect, and what an instruction leaves as it was.
-/
namespace Sys2Proof

/-- Every memory of the machine is in canonical form. -/
def Machine.State.Canonical (s : Machine.State) : Prop :=
  s.dev.wf = true ∧ s.bmem.wf = true ∧ s.spad.wf = true ∧ s.banks.wf = true

/-- `n` steps from a state all give a next state. -/
def safeFor : Nat → Machine.State → Prop
  | 0, _ => True
  | n + 1, s => ∃ t, Machine.step s = .next t ∧ safeFor n t

namespace Machine

/-! ### When an instruction reaches its effect -/

/-- The chosen gang lies in one home warp, which is no shadow, and there the instruction has passed rows 4 to 8 of 12 Table 12-3, reads no register or
bank with an error, and has its poured operands: its effect acts on `t` in the context `c`. -/
def Reaches (o : Op) (x : Fields) (s t : State) (c : Ctx) : Prop :=
  ∃ cur w, s.cur = some cur ∧ cur.slot < hiddenSlot ∧ s.gangWarps cur.core cur.gang = [w] ∧ s.warpOf w.uid = some w
    ∧ prepare s (baseCtx o x cur.core cur.gang w (anyReal x cur.gang [w])) = .ready t c 0

/-! ### What an instruction leaves as it was -/

/-- Registers that an instruction may write: its destinations (12 R271), and p0 to p6 for `pmov` to predicates (18 R393). -/
def mayWrite (c : Ctx) : List (RegKind × Nat) :=
  writeRegs c.op c.x c.form ++ (if c.op == Op.pmovPut then [0, 1, 2, 3, 4, 5, 6].map (fun p => (RegKind.pred, p)) else [])

/-- Nothing but the warps and the counters of free choices and of identifiers changes: every byte of every memory, every core, block, task, context, queue and
device is as before. -/
def OnlyWarps (s t : State) : Prop := t = { s with warps := t.warps, fresh := t.fresh, uids := t.uids }

/-- Every warp but one is as before. -/
def OtherWarps (s t : State) (uid : Nat) : Prop := ∀ v, v ≠ uid → t.warpOf v = s.warpOf v

/-- The quads of the gang stand at the next instruction with their paths as they were; the other quads are as before. -/
def Advanced (c : Ctx) (w : Warp) : Prop :=
  (∀ q, q ∈ c.quads →
    (w.quad q).path = { (c.warp.quad q).path with pc := (c.warp.quad q).path.pc + BitVec.ofNat 55 c.len }
      ∧ (w.quad q).park = (c.warp.quad q).park ∧ (w.quad q).packed = (c.warp.quad q).packed ∧ (w.quad q).before = (c.warp.quad q).before)
    ∧ ∀ q, q ∉ c.quads → w.quad q = c.warp.quad q

/-- A register that the instruction may not write, and a vector register or predicate in a lane where it takes no effect, is as before. -/
def KeepsRegs (c : Ctx) (r : Regs) : Prop :=
  ∀ k n l, l < 32 → ((k, n) ∉ mayWrite c ∨ (k ≠ RegKind.uni ∧ c.lanes.getLsbD l = false)) → r.read k n l = c.warp.regs.read k n l

/-- The frame of an instruction that writes registers and flags and goes on: beside its registers, its flags, the mold
step state of a pour, what its quads owe, the counters and in paired mode what its shadow has still to issue, its warp is as before: trap registers, WCTL, REGION, slots, pending accesses. -/
def RegFrame (s : State) (c : Ctx) (t : State) (w : Warp) : Prop :=
  OnlyWarps s t ∧ OtherWarps s t c.warp.uid ∧ t.warpOf c.warp.uid = some w
    ∧ w = { c.warp with
        regs := w.regs, quads := w.quads, wstat := w.wstat, mstep := w.mstep, errors := w.errors, trail := w.trail, offered := false,
        retired := c.warp.retired + 1, pours := c.warp.pours + BitVec.ofNat 64 (pouredOperands c.x).length }
    ∧ Advanced c w ∧ KeepsRegs c w.regs ∧ (pouredOperands c.x = [] → w.mstep = c.warp.mstep)

/-! ### What an instruction writes lane by lane -/

/-- Nothing that the instruction writes over is still owed (12 R271), so that its results are what its registers hold after it. -/
def NoneOwed (c : Ctx) : Prop := owedOn c.warp c.quads (writeRegs c.op c.x c.form) = []

/-- The destination registers of a lane hold a number, the lowest register least significant. -/
def HoldsD (c : Ctx) (w : Warp) (l v : Nat) : Prop :=
  c.x.d.toNat + c.form.d.vecs ≤ 255 → w.regs.vecs c.x.d.toNat l c.form.d.vecs = v

/-- The elements of the destination of a lane. -/
def HoldsElems (c : Ctx) (w : Warp) (l : Nat) (f : Nat → Nat) : Prop :=
  c.x.d.toNat + c.form.d.vecs ≤ 255 → ∀ i, i < tyCount c.ty → elemOf c.ty (w.regs.vecs c.x.d.toNat l c.form.d.vecs) i = f i

/-- The destination predicate of a lane; p7 takes no value. -/
def HoldsP (c : Ctx) (w : Warp) (l : Nat) (v : Bool) : Prop :=
  c.x.d.toNat % 8 ≠ 7 → w.regs.pred (c.x.d.toNat % 8) l = v

/-- The flags of some lanes ORed. -/
def orLanes (m : LaneMask) (f : Nat → Nat) : Nat := (laneList m).foldl (fun g l => g ||| f l) 0

/-- An instruction that acts lane by lane: from every state in which it reaches its effect it goes on, keeps its frame, gives its result in
every lane where it takes effect, and ORs its flags into WSTAT (those of its pours with them). -/
def RunsIn (mk : Fields → Instr) (o : Op) (res : State → Ctx → Warp → Nat → Prop) (flags : Ctx → Nat → Nat) : Prop :=
  ∀ x s t c, Reaches o x s t c → ∃ u w, exec (mk x) s = .next u ∧ RegFrame s c u w ∧ (c.warp.paired = false → w.trail = c.warp.trail)
    ∧ (NoneOwed c → ∀ l, l < 32 → c.lanes.getLsbD l = true → res s c w l)
    ∧ w.wstat = c.warp.wstat ||| BitVec.ofNat 32 (orLanes c.real (flags c)) ||| BitVec.ofNat 32 c.pourFlags

/-- The same where the result is a matter of the issue alone. -/
def Runs (mk : Fields → Instr) (o : Op) (res : Ctx → Warp → Nat → Prop) (flags : Ctx → Nat → Nat) : Prop := RunsIn mk o (fun _ => res) flags

/-- The same of an instruction whose result the shadow of a paired warp takes from the load-value queue, which has room (11 R244). -/
def ReadsIn (mk : Fields → Instr) (o : Op) (res : State → Ctx → Warp → Nat → Prop) (flags : Ctx → Nat → Nat) : Prop :=
  ∀ x s t c, Reaches o x s t c → (c.warp.paired = true → c.warp.queueFull = false) → ∃ u w, exec (mk x) s = .next u ∧ RegFrame s c u w
    ∧ (c.warp.paired = false → w.trail = c.warp.trail)
    ∧ (NoneOwed c → ∀ l, l < 32 → c.lanes.getLsbD l = true → res s c w l)
    ∧ w.wstat = c.warp.wstat ||| BitVec.ofNat 32 (orLanes c.real (flags c)) ||| BitVec.ofNat 32 c.pourFlags

/-- No flag of its own. -/
def noFlags (_ : Ctx) (_ : Nat) : Nat := 0

/-- Element `i` of an operand of T as an exact integer. -/
def Ctx.elem (c : Ctx) (v i : Nat) : Int := elemInt c.ty (elemOf c.ty v i)

/-- Lane `k` counts for lane `l`: a packed quad sees its own lanes (05 R112). -/
def Ctx.sees (c : Ctx) (l k : Nat) : Bool := !(c.warp.quad (l / 4)).packed || k / 4 == l / 4

/-- The flags of the elements of a lane ORed. -/
def orElems (c : Ctx) (f : Nat → Nat) : Nat := (List.range (tyCount c.ty)).foldl (fun g i => g ||| f i) 0

/-! ### What an instruction does beside its lanes -/

/-- An instruction goes on: from every state in which it reaches its effect and `pre` holds, it answers a next state in which its warp and the
machine are as `post` says. -/
def Goes (mk : Fields → Instr) (o : Op) (pre : State → Ctx → Prop) (post : State → Ctx → State → Warp → Prop) : Prop :=
  ∀ x s t c, Reaches o x s t c → pre s c → ∃ u w, exec (mk x) s = .next u ∧ u.warpOf c.warp.uid = some w ∧ post s c u w

/-- Nothing but warps and the counters of free choices and of identifiers changes, and of warps only the issuing one: no byte of any memory,
no core, block, task, context or device. -/
def OnlyWarp (s : State) (c : Ctx) (u : State) : Prop := OnlyWarps s u ∧ OtherWarps s u c.warp.uid

/-- The quads outside the gang are as before. -/
def OtherQuads (c : Ctx) (w : Warp) : Prop := ∀ q, q ∉ c.quads → w.quad q = c.warp.quad q

/-- No register, predicate or uniform register changes. -/
def SameRegs (c : Ctx) (w : Warp) : Prop := ∀ k n l, l < 32 → w.regs.read k n l = c.warp.regs.read k n l

/-- The issuing quads alone decide what their warp waits for: one of them is counted, no trap of the warp waits to be entered, no packing
window of its core is open, and no shadow runs beside it. -/
def Free (s : State) (c : Ctx) : Prop :=
  (∃ q, q ∈ c.quads ∧ q ∈ c.warp.counted) ∧ c.warp.trapWait = none ∧ (s.coreOf c.warp.core).windows = [] ∧ c.warp.paired = false

/-- The warp after an instruction that moves its quads and changes nothing else of it, but in paired mode what its shadow has still to issue. -/
def MovesQuads (c : Ctx) (w : Warp) : Prop :=
  (c.warp.paired = false → w.trail = c.warp.trail)
    ∧ w = { c.warp with quads := w.quads, offered := false, retired := c.warp.retired + 1, trail := w.trail }

/-- A trap of a warp enters its handler at once: everything that the warp has issued is complete, it does not speculate, no trap of it waits, and no shadow
runs beside it (05 R121; 11 R247). -/
def TrapsAtOnce (s : State) (w : Warp) : Prop := w.spec = none ∧ w.quiet = true ∧ w.trapWait = none ∧ s.shadowOf w.uid = none

/-- A trap changes nothing but its warp and the counters; what the warp has asked other packages for is forgotten. -/
def OnlyTraps (s u : State) (uid : Nat) : Prop := OnlyWarps (s.forget uid) u ∧ OtherWarps s u uid

/-- The quads of the gang stand at the next instruction with their masks and stacks as they were, parked as given; the other quads are as
before. -/
def AdvancedTo (c : Ctx) (w : Warp) (park : Nat → Park) : Prop :=
  (∀ q, q ∈ c.quads →
    (w.quad q).path = { (c.warp.quad q).path with pc := (c.warp.quad q).path.pc + BitVec.ofNat 55 c.len }
      ∧ (w.quad q).park = park q ∧ (w.quad q).packed = (c.warp.quad q).packed ∧ (w.quad q).before = (c.warp.quad q).before)
    ∧ ∀ q, q ∉ c.quads → w.quad q = c.warp.quad q

/-- A branch leaves a quad on the path that 05 R103 says: that of the taken lanes at the target of the lowest one, the others waiting on the
divergence stack; `fair` runs a pending path first (18 R381). -/
def BranchesTo (target : Ctx → Nat → Int) (fair : Bool) (c : Ctx) (q : Nat) (p : Path) : Prop :=
  (c.taken q = 0 → p = { c.path q with pc := c.next })
    ∧ ∀ l, l < 4 → (c.taken q).getLsbD l = true → (∀ k, k < l → (c.taken q).getLsbD k = false) →
        let goal := BitVec.ofNat 55 (target c (4 * q + l)).toNat
        (c.taken q = (c.path q).active → p =
          match (c.path q).stack with
          | top :: rest =>
            if fair = true ∧ top.kind = .pending ∧ top.pmask &&& (c.path q).living ≠ 0 then
              { c.path q with
                pc := pcwPc top.pcw, active := top.pmask &&& (c.path q).living,
                stack := { top with pmask := (c.path q).active, pcw := pcPcw goal } :: rest }
            else { c.path q with pc := goal }
          | [] => { c.path q with pc := goal })
        ∧ (c.taken q ≠ (c.path q).active → p =
          { c.path q with
            pc := goal, active := c.taken q,
            stack := { kind := .pending, pmask := (c.path q).active &&& ~~~c.taken q, jmask := (c.path q).active, pcw := pcPcw c.next }
              :: (c.path q).stack })

/-- No branch of the gang traps: the target of the lowest taken lane of every quad is an instruction address, and a quad that parts has room on
its divergence stack (05 R103; 12 R273). -/
def BranchesFit (target : Ctx → Nat → Int) (c : Ctx) : Prop :=
  ∀ q, q ∈ c.quads →
    (∀ l, l < 4 → (c.taken q).getLsbD l = true → (∀ k, k < l → (c.taken q).getLsbD k = false) →
      0 ≤ target c (4 * q + l) ∧ target c (4 * q + l) < 2 ^ 55 ∧ target c (4 * q + l) % 4 = 0)
    ∧ (c.taken q ≠ 0 → c.taken q ≠ (c.path q).active → (c.path q).stack.length < 16)

/-- The warp has entered its handler with a trap's registers, `before` being the warp when it was raised (05 R121, R122): its living quads that
are not parked run as one gang at TBASE with their masks and stacks as they were, and the others stay as they are. -/
def InHandler (before w : Warp) (cause : Nat) (mask : LaneMask) (first : Nat) : Prop :=
  w.inTrap = true ∧ w.trap.tbase = before.trap.tbase ∧ w.trap.tcause = BitVec.ofNat 32 cause ∧ w.trap.tmask = mask
    ∧ w.trap.tfirst = BitVec.ofNat 64 first
    ∧ (∀ q, w.trap.tqpc.getD q 0 = BitVec.ofNat 64 (before.quad q).path.pc.toNat)
    ∧ (∃ k, ∀ q, q ∈ before.handlerQuads →
        (w.quad q).path = { (before.quad q).path with pc := BitVec.ofNat 55 before.trap.tbase.toNat } ∧ (w.quad q).park = .running
          ∧ (w.quad q).gang = gangId k (before.handlerQuads.headD 0) ∧ w.handler.getLsbD q = true)
    ∧ (∀ q, q ∉ before.handlerQuads → w.quad q = before.quad q)
    ∧ w = { before with quads := w.quads, trap := w.trap, inTrap := true, trapWait := none, trapGiven := false, handler := w.handler }

/-! ### Memory -/

/-- No byte of any memory changes, and no line version. -/
def SameMemory (s u : State) : Prop :=
  u.dev = s.dev ∧ u.bmem = s.bmem ∧ u.spad = s.spad ∧ u.banks = s.banks ∧ u.versions = s.versions

/-- The memory that a space lies in; a stack is not one of them. -/
def State.mem (s : State) : Space → Memory
  | .blk => s.bmem
  | .spad => s.spad
  | _ => s.dev

/-- Nothing but one space's memory may differ, and there only the `n` bytes at `a`. -/
def OnlyBytes (s u : State) (space : Space) (a n : Nat) : Prop :=
  (∀ other, other ≠ space → other ≠ .stack → u.mem other = s.mem other) ∧ u.banks = s.banks ∧ u.versions = s.versions
    ∧ ∀ b, b < a ∨ a + n ≤ b → (u.mem space).byte b = (s.mem space).byte b

/-- Every bank group is whole, and no word of one carries an error. -/
def Sound (s : State) : Prop := s.bankErrors = [] ∧ ∀ g, (s.groupOf g).retired = [] ∧ (s.groupOf g).lost = []

/-- Some counted quad of a warp runs, and neither a trap waiting to be entered nor a packing window of its core is open: the completion of an
access completes nothing else. -/
def Busy (s : State) (w : Warp) : Prop :=
  w.ended = false ∧ (∃ q, q ∈ w.counted ∧ (w.quad q).park = .running) ∧ w.trapWait = none ∧ (s.coreOf w.core).windows = []

/-- An entry of a pending list that is no fence. -/
def Access.real (a : Access) : Bool := match a.kind with | .fence _ => false | _ => true

/-- An instruction asks memory for something: where `ok` holds of the state in which it acts, it goes on, its accesses stand at the end of the
pending list with one place in issue order (07 R150), and no memory and no register has changed. -/
def Asks (mk : Fields → Instr) (o : Op) (ok : State → Ctx → Prop) (accs : State → Ctx → List Access) : Prop :=
  ∀ x s t c, Reaches o x s t c → c.warp.spec = none → c.warp.paired = false → ok t c → ∃ u w seq holds,
    exec (mk x) s = .next u ∧ u.warpOf c.warp.uid = some w ∧ SameMemory s u ∧ OtherWarps s u c.warp.uid ∧ SameRegs c w ∧ Advanced c w
      ∧ w = { c.warp with
          quads := w.quads, pending := w.pending, scored := w.scored, wstat := c.warp.wstat ||| BitVec.ofNat 32 c.pourFlags,
          region := if clearsRegion o && c.any then c.warp.region &&& ~~~1 else c.warp.region, mstep := w.mstep, offered := false,
          retired := c.warp.retired + 1, pours := w.pours }
      ∧ w.pending.filter Access.real = c.warp.pending.filter Access.real ++ (accs t c).map (fun a => { a with seq, holds })
      ∧ (accs t c ≠ [] → w.scored =
          if writeRegs c.op c.x c.form = [] then c.warp.scored
          else c.warp.scored ++ [{ seq, quads := quadSet c.quads, regs := writeRegs c.op c.x c.form, vals := [], early := earlyLanes c.warp c.quads (writeRegs c.op c.x c.form) }])

/-- The one access of a mold instruction to block memory. -/
def Ctx.moldAsks (c : Ctx) (bank : Nat) (parts : List Part) : List Access :=
  [{ c.accessOf ((lowestLane c.real).getD (4 * c.quads.headD 0)) .blk none (.mold c.op c.x c.moldOffset bank) parts with
     helper := false, blame := c.real }]

/-! ### Engines and queues -/

/-- The frame of an instruction of the engines, the ladle and the die that goes on: its warp stands at the next instruction, its REGION is not
valid any more (11 R241), and nothing else of it changes but registers that it may write. -/
def Engine (c : Ctx) (w : Warp) : Prop :=
  Advanced c w ∧ KeepsRegs c w.regs
    ∧ w = { c.warp with
        quads := w.quads, regs := w.regs, region := if c.any then c.warp.region &&& ~~~1 else c.warp.region,
        wstat := c.warp.wstat ||| BitVec.ofNat 32 c.pourFlags, mstep := w.mstep, errors := w.errors, offered := false,
        retired := c.warp.retired + 1, pours := w.pours }

/-- Nothing changes but the issuing warp, the counters and the responses that it asked for. -/
def OnlyAsker (s : State) (c : Ctx) (u : State) : Prop :=
  u = { s with warps := u.warps, fresh := u.fresh, uids := u.uids, answers := u.answers } ∧ OtherWarps s u c.warp.uid
    ∧ ∀ a, a.who ≠ .engine c.warp.uid → (a ∈ u.answers ↔ a ∈ s.answers)

/-- Commands join the end of one sprue, and no other sprue changes. -/
def Joins (s u : State) (core q : Nat) (cmds : List Command) : Prop :=
  u.sprue core q = s.sprue core q ++ cmds ∧ ∀ k p, (k ≠ core ∨ p ≠ q) → u.sprue k p = s.sprue k p

/-- An instruction reads what its operands name and then acts: its guard holds, and no shadow runs beside it. -/
def Plain (s : State) (c : Ctx) : Prop := c.any = true ∧ c.warp.paired = false ∧ Sound s

/-- Everything that the warp issued before is complete. -/
def Settled (s : State) (c : Ctx) : Prop := c.warp.pending = [] ∧ ∀ o ∈ s.channels, o.warp ≠ c.warp.uid

end Machine
end Sys2Proof
end

