-- ==== Sys2Proof/Certificates/Slice0/Obligations.lean ====
section
/-!
DEFINITION. The statements about the machine.
-/
open Sys2Proof Sys2Proof.Machine

/-! ### Encodings -/

/-- Every well-formed instruction of the opcode table is read back from its own words, with every operand as it was (12 R259; 13 R276). -/
def Obligations.DecodeEncode : Prop := ∀ i, Sys2Proof.Laws.RoundTrip.Statement i

/-- Words that decode are the words of the instruction read from them: every assigned bit of them is a field, and every other bit is zero
(12 R259, R260; 13 R280). -/
def Obligations.EncodeDecode : Prop :=
  ∀ head rest o x, bitField head 0 2 ≤ rest.length → decode staticEnv head rest = .ok (o, x) →
    o.wf x = true ∧ encodeOp o x = head :: rest.take (bitField head 0 2)

/-- An unassigned opcode, and the fill value, raise cause 0x01 whatever the rest of the words says (13 R277). Words that the spec writes out for its examples decode to the instructions they stand for: `addc.n32^3 v2, v0, v4, !p7, p1` (15 Table 15-4),
`fma.f32` (16), `fcvt.e4m3.f32^3 v20, v12, 2` (16), `mload^0 s4, s0, 0x100, 8, 0` and `macc.f32^5 v12, m1(v10)` (17), `loop^0 v3` and
`ballot^0 v5, p2` (18), `ldb.b32.x2^2 v6, v4, s3, 3` (19), `cp^0 s4, s6, s8, 2` and `qwait 0x02` (20). -/
def Obligations.DecodeWords : Prop :=
  let v (n : BitVec 8) : Operand := ⟨false, 0, n⟩
  let u (n : BitVec 8) : Operand := ⟨true, 0, n⟩
  let plain : Fields := ⟨0, 0, 0, ⟨false, 7⟩, 0, 0, 0, v 0, v 0, v 0, 0, 0⟩
  (∀ e ∈ ([(0x0009CCBA, [0x00802000, 0x0001F000], .addc, { plain with len := 2, d := 2, stall := 3, t := 2, b := v 4, e := 0x1F }),
          (0x0021D14E, [0x28C01802, 0x00009004], .fma,
            { plain with len := 2, d := 8, stall := 4, rm := 5, t := 3, a := v 2, b := v 3, c := v 4, e := 9 }),
          (0x0051CD82, [0x0180000C, 0x00043000], .fcvt, { plain with len := 2, d := 20, stall := 3, t := 6, a := v 12, e := 0x43 }),
          (0x0001C1D3, [0xC007F800, 0x03800804, 0x00000100], .mload,
            { plain with len := 3, a := u 0, b := u 255, c := u 4, e := 0x3800, i := 0x100 }),
          (0x0031D5E1, [0x00C0010A], .macc, { plain with len := 1, d := 12, stall := 5, t := 3, a := ⟨false, 1, 10⟩ }),
          (0x000DC03B, [0, 0, 0xFFFFFFF8], .loop, { plain with len := 3, d := 3, i := 0xFFFFFFF8 }),
          (0x0015C045, [0x00000002], .ballot, { plain with len := 1, d := 5, a := v 2 }),
          (0x0019CA02, [0x80001804, 0x00301000], .ldb, { plain with len := 2, d := 6, stall := 2, a := v 4, b := u 3, e := 0x301 }),
          (0x0001C282, [0xC0003004, 0x00002808], .cp, { plain with len := 2, a := u 4, b := u 6, c := u 8, e := 2 }),
          (0x0001C29D, [0x00000002], .qwait, { plain with len := 1, a := v 2 })] : List (Word × List Word × Op × Fields)),
    decode staticEnv e.1 e.2.1 = .ok (e.2.2.1, e.2.2.2))
  ∧ (∀ head rest, (∀ o : Op, o.opc ≠ headOpc head) → decode staticEnv head rest = .error .unassigned)
  ∧ ∀ rest, decode staticEnv 0xFFFFFFFF rest = .error .unassigned

/-! ### The machine -/

/-- After cold reset every byte of every memory and every line version is zero (03 R74), the heartbeat is 0 (01 R22), and there is no partition,
virtual device, context, task, block or warp. Every memory is in canonical form. -/
def Obligations.ResetState : Prop :=
  State.reset.Canonical ∧
  (∀ a, State.reset.dev.byte a = 0 ∧ State.reset.bmem.byte a = 0 ∧ State.reset.spad.byte a = 0 ∧ State.reset.banks.byte a = 0
      ∧ Cells.get 0 State.reset.versions a = 0 ∧ Cells.get false State.reset.badLines a = false)
    ∧ State.reset.hb = 0 ∧ State.reset.parts = [] ∧ State.reset.vdevs = [] ∧ State.reset.contexts = [] ∧ State.reset.tasks = []
    ∧ State.reset.blocks = [] ∧ State.reset.warps = []

/-- Every step keeps every memory in canonical form, so that equal memories are equal data. -/
def Obligations.StepKeepsCanonical : Prop := ∀ s t, s.Canonical → step s = .next t → t.Canonical

/-- vz reads zero in every lane and takes no write, and p7 reads 1 and takes none (12 R262; 18 R389); any other register, in the lane written,
holds the value written, and no other register or lane changes. -/
def Obligations.Registers : Prop :=
  ∀ (r : Regs) (n l m k : Nat), l < 32 → k < 32 →
    r.vec 255 l = 0 ∧ (∀ v, r.setVec 255 l v = r) ∧ r.pred 7 l = true ∧ (∀ v, r.setPred 7 l v = r)
      ∧ (∀ v, (r.setVec n l v).vec m k = if m = n ∧ k = l ∧ n ≠ 255 then v else r.vec m k)
      ∧ (∀ v, (r.setUni n v).uni m = if m = n then v else r.uni m)
      ∧ (∀ v, (r.setPred n l v).pred m k = if m = n ∧ k = l ∧ n ≠ 7 then v else r.pred m k)
      ∧ (∀ v w b, (r.setVec n l v).uni m = r.uni m ∧ (r.setVec n l v).pred m k = r.pred m k ∧ (r.setUni n w).vec m k = r.vec m k
          ∧ (r.setUni n w).pred m k = r.pred m k ∧ (r.setPred n l b).vec m k = r.vec m k ∧ (r.setPred n l b).uni m = r.uni m)

/-- A clock of a sequencer, named by the agenda or with an empty agenda by `here`, executes the instruction that it fetches and decodes for the gang
whose turn it is, where it is not the turn of a shadow (05 R108; 12 R268; 11 R243), and a fetch of a one-word instruction decodes the word that the device memory holds at its address (12
R274). An event of the agenda is executed with the unit that it acts on, and time passes. The agenda is the model's (log entry 1). -/
def Obligations.StepRuns : Prop :=
  (∀ (s a : State) (core seq : Nat) (p : Pick) (w : Warp) (pc : BitVec 55) (s' : State) (o : Op) (x : Fields),
    (s.agenda = [] ∧ s.here = (core, seq) ∧ a = s ∨ ∃ rest, s.agenda = .clock core seq :: rest ∧ a = { s with agenda := rest }) →
    let s0 := ((a.onCore core (fun c => c.tick seq)).settleWaits core seq).askFetches core seq
    leastBy (turnKey (s0.coreOf core) seq) (s0.picks core seq) = some p → p.slot < hiddenSlot →
    let s1 := (s0.onCore core (fun c =>
      { c with
        lastSlot := modifyAt (fun _ => slotPlace p.slot) seq c.lastSlot
        lastGang := Cells.put 7 c.lastGang p.slot p.quad })).seeIssue core seq (some p.slot)
    s1.leadOf core p.gang = some (w, pc) → s1.fetchInstr core w pc.toNat = (s', .ok o x) →
    step s = exec (o.instr x) { s' with cur := some { core, slot := p.slot, gang := p.gang } })
  ∧ (∀ (s s' : State) (core : Nat) (w : Warp) (pc key : Nat) (head : Word) (o : Op) (x : Fields), pc < 2 ^ 55 →
    s.translate core w.ctx pc .x = (s', .ok key) → keyRemote key = none → s'.lineBad key = false → s'.dev.read key 4 = head.toNat →
    (∀ c ∈ (s'.coreOf core).icache, c.1 ≠ w.ctx ∨ c.2.1 ≠ pc) → bitField head 0 2 = 0 → decode staticEnv head [] = .ok (o, x) →
    ∃ t, s.fetchInstr core w pc = (t, .ok o x) ∧ t = { s' with cores := t.cores })
  ∧ (∀ (s : State) focus i rest, s.agenda = .event focus i :: rest → step s = exec i { s with agenda := rest, focus, cur := none })
  ∧ ∀ (s : State) n rest, s.agenda = .elapse n :: rest → step s = .next { s with agenda := rest, ns := s.ns + BitVec.ofNat 64 n }

/-- An instruction of a gang in one home warp that breaks no check, reads no register or bank with an error, pours nothing and reads nothing that
is still owed reaches its effect in the context of its issue: the gang's quads, their active lanes where the guard holds, and the registers as
they are (12 R267, R268, R271). There an operand that is not poured is the I word, a uniform register in every lane, or the lane's own vector
register (12 R262, R263). -/
def Obligations.Issues : Prop :=
  (∀ (s : State) (cur : Issuing) (w : Warp) (o : Op) (x : Fields), s.cur = some cur → cur.slot < hiddenSlot → s.gangWarps cur.core cur.gang = [w] →
    s.warpOf w.uid = some w → earlyFault w (w.members cur.gang) o x = none → moldFault w o x = none → pouredOperands x = [] → w.errors = [] →
    owedOn w (w.members cur.gang) (readRegs w o x (o.form x)) = [] →
    ∃ t c, Reaches o x s t c ∧ c = baseCtx o x cur.core cur.gang w (anyReal x cur.gang [w]) ∧ t.warpOf w.uid = some w ∧ OnlyWarps s t)
  ∧ ∀ o x s t c, Reaches o x s t c → pouredOperands x = [] →
    (∀ l, l < 32 → (c.active.getLsbD l = true ↔
      l / 4 ∈ c.quads ∧ (c.warp.quad (l / 4)).path.active.getLsbD (l % 4) = true))
    ∧ (∀ l, l < 32 → (c.lanes.getLsbD l = true ↔ c.active.getLsbD l = true ∧ c.warp.regs.pred x.guard.pred.toNat l ≠ x.guard.neg))
    ∧ ∀ n even vec vz uni imm pour, (o.form x).a = .reg n even vec vz uni imm pour → ∀ l,
        (x.a.uni = false → c.a l = c.regs.vecs x.a.reg.toNat l n)
          ∧ (x.a.uni = true → x.a.isImm = false → c.a l = c.regs.unis x.a.reg.toNat n)

/-! ### Lane by lane: integers -/

/-- `add`, `sub`, `mul`, `abs` and `neg` compute exactly, element by element; the result wraps, or with `.sat` is clamped to the type's
range, and a clamp sets SAT (15 R317). -/
def Obligations.SaturatingArithmetic : Prop :=
  ∀ e ∈ ([(.add, .add, fun a b => a + b), (.sub, .sub, fun a b => a - b), (.mul, .mul, fun a b => a * b),
          (.abs, .abs, fun a _ => (a.natAbs : Int)), (.neg, .neg, fun a _ => -a)] : List ((Fields → Instr) × Op × (Int → Int → Int))),
    Runs e.1 e.2.1
      (fun c w l => HoldsElems c w l (fun i =>
        let v := e.2.2 (c.elem (c.a l) i) (c.elem (c.b l) i)
        wrap (tyWidth c.ty) (if c.x.f = 1 then max (intMin c.ty) (min (intMax c.ty) v) else v)))
      (fun c l =>
        if c.x.f = 1 ∧ ∃ i, i < tyCount c.ty ∧
            (e.2.2 (c.elem (c.a l) i) (c.elem (c.b l) i) < intMin c.ty ∨ intMax c.ty < e.2.2 (c.elem (c.a l) i) (c.elem (c.b l) i))
        then flSAT else 0)

/-- `add3`, `mulhi`, `mad`, `min` and `max` compute exactly, element by element, and wrap (15 R317). -/
def Obligations.WrappingArithmetic : Prop :=
  ∀ e ∈ ([(.add3, .add3, fun _ a b z => a + b + z), (.mulhi, .mulhi, fun w a b _ => a * b / 2 ^ w), (.mad, .mad, fun _ a b z => a * b + z),
          (.min, .min, fun _ a b _ => min a b), (.max, .max, fun _ a b _ => max a b)] :
        List ((Fields → Instr) × Op × (Nat → Int → Int → Int → Int))),
    Runs e.1 e.2.1
      (fun c w l => HoldsElems c w l (fun i =>
        wrap (tyWidth c.ty) (e.2.2 (tyWidth c.ty) (c.elem (c.a l) i) (c.elem (c.b l) i) (c.elem (c.c l) i))))
      noFlags

/-- `madw` writes the pair (x × y + z) mod 2^64, z being the pair C (15 R317); `sad` writes (z + Σ |x − y|) mod 2^32 (15 R319). -/
def Obligations.WideArithmetic : Prop :=
  Runs .madw .madw
    (fun c w l => HoldsD c w l (wrap 64 (c.elem (c.a l) 0 * c.elem (c.b l) 0 + (if tySigned c.ty then signed 64 (c.c l) else (c.c l : Int)))))
    noFlags
  ∧ Runs .sad .sad
    (fun c w l => HoldsD c w l
      ((c.c l + ((List.range (tyCount c.ty)).map (fun i => (c.elem (c.a l) i - c.elem (c.b l) i).natAbs)).sum) % 2 ^ 32))
    noFlags

/-- `div` and `rem`: the quotient toward zero and its remainder, which takes the dividend's sign; a division by zero gives all ones and the
dividend, and sets DZ (15 R318). -/
def Obligations.Division : Prop :=
  Runs .div .div
    (fun c w l => HoldsD c w l
      (wrap (tyWidth c.ty) (if c.elem (c.b l) 0 = 0 then -1 else (c.elem (c.a l) 0).tdiv (c.elem (c.b l) 0))))
    (fun c l => if c.elem (c.b l) 0 = 0 then flDZ else 0)
  ∧ Runs .rem .rem
    (fun c w l => HoldsD c w l (wrap (tyWidth c.ty)
      (if c.elem (c.b l) 0 = 0 then c.elem (c.a l) 0
       else c.elem (c.a l) 0 - c.elem (c.b l) 0 * (c.elem (c.a l) 0).tdiv (c.elem (c.b l) 0))))
    (fun c l => if c.elem (c.b l) 0 = 0 then flDZ else 0)

/-- `addc` and `subb` add and subtract unsigned words with the carry p(CI) xor CIN, and write the carry-out to p(CO) (15 R320). -/
def Obligations.Carries : Prop :=
  ∀ e ∈ ([(.addc, .addc, 1), (.subb, .subb, -1)] : List ((Fields → Instr) × Op × Int)),
    Runs e.1 e.2.1
      (fun c w l =>
        let cin : Int := if c.regs.pred (bitField c.x.e 0 3) l = bitAt c.x.e 3 then 0 else 1
        let v : Int := (c.a l % 2 ^ 32 : Nat) + e.2.2 * (c.b l % 2 ^ 32 : Nat) + e.2.2 * cin
        HoldsD c w l (v % 2 ^ 32).toNat
          ∧ (bitField c.x.e 4 3 ≠ 7 → w.regs.pred (bitField c.x.e 4 3) l = decide (v ≥ 2 ^ 32 ∨ v < 0)))
      noFlags

/-- The logic instructions, bit by bit within the width of T; `popc` counts the ones of a, `clz` the zeros above its highest one and `ctz` those
below its lowest, W when there is none; `brev` reverses its bits (15 R321). -/
def Obligations.LogicAndCounts : Prop :=
  (∀ e ∈ ([(.and, .and, fun a b => a && b), (.or, .or, fun a b => a || b), (.xor, .xor, fun a b => a != b), (.andn, .andn, fun a b => a && !b),
          (.not, .not, fun a _ => !a)] : List ((Fields → Instr) × Op × (Bool → Bool → Bool))),
    Runs e.1 e.2.1
      (fun c w l => c.x.d.toNat + c.form.d.vecs ≤ 255 → ∀ k, k < tyWidth c.ty →
        (w.regs.vecs c.x.d.toNat l c.form.d.vecs).testBit k = e.2.2 ((c.a l).testBit k) ((c.b l).testBit k))
      noFlags)
  ∧ Runs .popc .popc
    (fun c w l => HoldsD c w l ((List.range (tyWidth c.ty)).countP (fun k => (c.a l).testBit k))) noFlags
  ∧ Runs .clz .clz
    (fun c w l => ∃ n, HoldsD c w l n ∧ n ≤ tyWidth c.ty ∧ (∀ k, tyWidth c.ty - n ≤ k → k < tyWidth c.ty → (c.a l).testBit k = false)
      ∧ (n < tyWidth c.ty → (c.a l).testBit (tyWidth c.ty - 1 - n) = true)) noFlags
  ∧ Runs .ctz .ctz
    (fun c w l => ∃ n, HoldsD c w l n ∧ n ≤ tyWidth c.ty ∧ (∀ k, k < n → (c.a l).testBit k = false)
      ∧ (n < tyWidth c.ty → (c.a l).testBit n = true)) noFlags
  ∧ Runs .brev .brev
    (fun c w l => c.x.d.toNat + c.form.d.vecs ≤ 255 → ∀ k, k < tyWidth c.ty →
      (w.regs.vecs c.x.d.toNat l c.form.d.vecs).testBit k = (c.a l).testBit (tyWidth c.ty - 1 - k)) noFlags

/-- The shifts, with the count n or, with `.wrap`, n mod W; `rot` rotates left by n mod W (15 R322); `fsh` shifts the 64-bit value a × 2^32 + b
and writes its high or its low word (15 R323). -/
def Obligations.ShiftsAndRotations : Prop :=
  (∀ e ∈ ([(.shl, .shl, fun w a n => if n ≥ w then 0 else a * 2 ^ n % 2 ^ w),
          (.shr, .shr, fun w a n => if n ≥ w then 0 else a % 2 ^ w / 2 ^ n),
          (.sra, .sra, fun w a n => if n ≥ w then (if signed w a < 0 then 2 ^ w - 1 else 0) else wrap w (signed w a / (2 ^ n : Nat)))] :
        List ((Fields → Instr) × Op × (Nat → Nat → Nat → Nat))),
    Runs e.1 e.2.1
      (fun c w l => HoldsD c w l (e.2.2 (tyWidth c.ty) (c.a l) (if c.x.f = 1 then c.b l % tyWidth c.ty else c.b l)))
      noFlags)
  ∧ Runs .rot .rot
    (fun c w l => c.x.d.toNat + c.form.d.vecs ≤ 255 → ∀ k, k < tyWidth c.ty →
      (w.regs.vecs c.x.d.toNat l c.form.d.vecs).testBit ((k + c.b l) % tyWidth c.ty) = (c.a l).testBit k)
    noFlags
  ∧ Runs .fsh .fsh
    (fun c w l =>
      let v := c.a l % 2 ^ 32 * 2 ^ 32 + c.b l % 2 ^ 32
      let n := if bitAt c.x.e 19 then bitField c.x.e 0 5 else c.c l % 32
      HoldsD c w l (if c.x.f = 0 then v * 2 ^ n / 2 ^ 32 % 2 ^ 32 else v / 2 ^ n % 2 ^ 32))
    noFlags

/-- `bfe` extracts a field of n bits at p, extended by its sign for i32; `bfi` replaces bits [p+n−1 : p] of b by the low n bits of a (15
R324). -/
def Obligations.BitFields : Prop :=
  ∀ e ∈ ([(.bfe, .bfe, fun t a _ p n => if n = 0 then 0 else if t = 1 then wrap 32 (signed n (a / 2 ^ p % 2 ^ n)) else a / 2 ^ p % 2 ^ n),
          (.bfi, .bfi, fun t a b p n =>
            b % 2 ^ p + a % 2 ^ n * 2 ^ p + b % 2 ^ tyWidth t / 2 ^ (p + n) * 2 ^ (p + n))] :
        List ((Fields → Instr) × Op × (Nat → Nat → Nat → Nat → Nat → Nat))),
    Runs e.1 e.2.1
      (fun c w l =>
        let pos := if bitAt c.x.e 19 then bitField c.x.e 0 6 else c.c l % 256
        let len := if bitAt c.x.e 19 then bitField c.x.e 6 7 else c.c l / 256 % 256
        let p := min pos (tyWidth c.ty)
        let n := min len (tyWidth c.ty - p)
        HoldsD c w l (e.2.2 c.ty (c.a l) (c.b l) p n))
      noFlags

/-- `mov` copies a, `movi` writes its own immediate (15 R328), `movu.v` writes a uniform register in every lane (15 R329), `lea` computes
(a + Ext(b) × 2^SCALE) mod 2^W (15 R327), and `bperm` takes a from lane b mod 32 when that lane takes effect and is seen (15 R325). -/
def Obligations.Moves : Prop :=
  Runs .mov .mov (fun c w l => HoldsD c w l (c.a l % 2 ^ tyWidth c.ty)) noFlags
  ∧ Runs .movi .movi
    (fun c w l => HoldsD c w l (if c.ty = 19 then c.x.e.toNat * 2 ^ 35 + c.x.i.toNat * 2 ^ 3 else c.x.i.toNat)) noFlags
  ∧ Runs .lea .lea
    (fun c w l =>
      let b : Int := if bitAt c.x.e 3 then signed 32 (c.b l) else (c.b l % 2 ^ 32 : Nat)
      HoldsD c w l ((c.a l + b * 2 ^ bitField c.x.e 0 3) % 2 ^ tyWidth c.ty).toNat) noFlags
  ∧ Runs .bperm .bperm
    (fun c w l =>
      let j := c.b l % 32
      let seen := c.lanes.getLsbD j = true ∧ ((c.warp.quad (l / 4)).packed = true → j / 4 = l / 4)
      HoldsD c w l (if seen then c.a j % 2 ^ tyWidth c.ty else 0)) noFlags

/-- `setp` writes a predicate: the comparison, signed or unsigned by T, in every element (15 R326). -/
def Obligations.Comparisons : Prop :=
  Runs .setp .setp
    (fun c w l => c.x.d.toNat % 8 ≠ 7 → (w.regs.pred (c.x.d.toNat % 8) l = true ↔ ∀ i, i < tyCount c.ty →
      match c.x.f.toNat with
      | 0 => c.elem (c.a l) i = c.elem (c.b l) i
      | 1 => c.elem (c.a l) i ≠ c.elem (c.b l) i
      | 2 => c.elem (c.a l) i < c.elem (c.b l) i
      | 3 => c.elem (c.a l) i ≤ c.elem (c.b l) i
      | 4 => c.elem (c.a l) i > c.elem (c.b l) i
      | _ => c.elem (c.a l) i ≥ c.elem (c.b l) i)) noFlags

/-- `icvt` converts an integer type to another: element by element, one element chosen by SEL, or into element SEL with the others kept,
wrapped or with `.sat` clamped (15 R330); `sat` clamps each element to n = min(max(b, 1), W) bits (15 R331). -/
def Obligations.IntegerConversions : Prop :=
  let conv (c : Ctx) (l i : Nat) : Int := elemInt (styp c.x) (elemOf (styp c.x) (c.a l) i)
  let into (c : Ctx) (v : Int) : Nat := wrap (tyWidth c.ty) (if c.x.f = 1 then max (intMin c.ty) (min (intMax c.ty) v) else v)
  let lost (c : Ctx) (v : Int) : Prop := c.x.f = 1 ∧ (v < intMin c.ty ∨ intMax c.ty < v)
  let from' (c : Ctx) (i : Nat) : Nat :=
    if tyCount c.ty = tyCount (styp c.x) then i else if tyCount c.ty = 1 then cvtSel c.x else 0
  let taken (c : Ctx) (i : Nat) : Prop := tyCount c.ty = tyCount (styp c.x) ∨ tyCount c.ty = 1 ∨ i = cvtSel c.x
  let lo (c : Ctx) (n : Nat) : Int := if tySigned c.ty then -2 ^ (n - 1) else 0
  let hi (c : Ctx) (n : Nat) : Int := if tySigned c.ty then 2 ^ (n - 1) - 1 else 2 ^ n - 1
  let bits (c : Ctx) (l : Nat) : Nat := min (max (c.b l) 1) (tyWidth c.ty)
  Runs .icvt .icvt
    (fun c w l => c.x.d.toNat + c.form.d.vecs ≤ 255 → ∀ i, i < tyCount c.ty →
      (taken c i → elemOf c.ty (w.regs.vecs c.x.d.toNat l c.form.d.vecs) i = into c (conv c l (from' c i)))
        ∧ (¬ taken c i → elemOf c.ty (w.regs.vecs c.x.d.toNat l c.form.d.vecs) i = elemOf c.ty (c.d 1 l) i))
    (fun c l => if ∃ i, i < tyCount c.ty ∧ taken c i ∧ lost c (conv c l (from' c i)) then flSAT else 0)
  ∧ Runs .sat .sat
    (fun c w l => HoldsElems c w l (fun i =>
      wrap (tyWidth c.ty) (max (lo c (bits c l)) (min (hi c (bits c l)) (c.elem (c.a l) i)))))
    (fun c l =>
      if ∃ i, i < tyCount c.ty ∧ (c.elem (c.a l) i < lo c (bits c l) ∨ hi c (bits c l) < c.elem (c.a l) i) then flSAT else 0)

/-! ### Lane by lane: predicates and exchanges -/

/-- The cross-lane predicates and masks over the voting lanes V(q): `vote` and `qvote` for all or any, `ballot` as a mask, and `elect` for the
lowest; `lanes` gives the active, living or existing lanes (18 R390, R391). -/
def Obligations.Votes : Prop :=
  let votes (c : Ctx) (l k : Nat) : Bool := c.lanes.getLsbD k && !c.warp.helper.getLsbD k && c.sees l k
  let p (c : Ctx) (k : Nat) : Bool := c.regs.pred (c.x.a.reg.toNat % 8) k != bitAt c.x.a.reg 3
  let tally (c : Ctx) (v : Nat → Bool) : Bool :=
    if c.x.f = 0 then (List.range 32).all (fun k => !v k || p c k) else (List.range 32).any (fun k => v k && p c k)
  Runs .vote .vote (fun c w l => HoldsP c w l (tally c (votes c l))) noFlags
  ∧ Runs .qvote .qvote (fun c w l => HoldsP c w l (tally c (fun k => votes c l k && k / 4 == l / 4))) noFlags
  ∧ Runs .ballot .ballot
    (fun c w l => c.x.d.toNat ≠ 255 → ∀ k, k < 32 → (w.regs.vec c.x.d.toNat l).getLsbD k = (votes c l k && p c k)) noFlags
  ∧ Runs .elect .elect
    (fun c w l => HoldsP c w l (votes c l l && (List.range l).all (fun k => !votes c l k))) noFlags
  ∧ Runs .lanes .lanes
    (fun c w l => c.x.d.toNat ≠ 255 → ∀ k, k < 32 → (w.regs.vec c.x.d.toNat l).getLsbD k =
      (match c.x.f.toNat with
       | 0 => c.lanes.getLsbD k && c.sees l k
       | 1 => (c.warp.quad (k / 4)).path.living.getLsbD (k % 4) && c.sees l k
       | _ => !c.warp.helper.getLsbD k && !c.warp.absent.getLsbD k)) noFlags

/-- `qswz` takes a from a lane of the quad that the pattern names, `qbcast` from the same place of another quad, and 0 from a lane that takes no
effect or is not seen (18 R392). -/
def Obligations.Exchanges : Prop :=
  let src (c : Ctx) (l j : Nat) : Nat := if c.lanes.getLsbD j && c.sees l j then c.a j % 2 ^ tyWidth c.ty else 0
  Runs .qswz .qswz (fun c w l => HoldsD c w l (src c l (4 * (l / 4) + c.b l / 4 ^ (l % 4) % 4))) noFlags
  ∧ Runs .qbcast .qbcast (fun c w l => HoldsD c w l (src c l (4 * (c.b l % 8) + l % 4))) noFlags

/-- `pset` applies a table to two predicates, `pmov` reads and writes p0 to p6 as bits, and `sel` chooses by a predicate (18 R393). -/
def Obligations.PredicateMoves : Prop :=
  Runs .pset .pset
    (fun c w l => HoldsP c w l
      (bitAt c.x.f (2 * boolNat (c.regs.pred (c.x.a.reg.toNat % 8) l) + boolNat (c.regs.pred (c.x.b.reg.toNat % 8) l)))) noFlags
  ∧ Runs .pmovGet .pmovGet
    (fun c w l => c.x.d.toNat ≠ 255 → ∀ k, k < 32 → (w.regs.vec c.x.d.toNat l).getLsbD k = (decide (k < 8) && c.regs.pred k l)) noFlags
  ∧ Runs .pmovPut .pmovPut
    (fun c w l => ∀ k, k < 7 → w.regs.pred k l = if (c.b l).testBit k then (c.a l).testBit k else c.warp.regs.pred k l) noFlags
  ∧ Runs .sel .sel
    (fun c w l => HoldsD c w l
      ((if c.regs.pred (bitField c.x.e 0 3) l = bitAt c.x.e 3 then c.b l else c.a l) % 2 ^ tyWidth c.ty)) noFlags

/-! ### Lane by lane: floating point -/

/-- The floating instructions that act element by element go on and keep their frame; each element of the result is that of the element's
operation under the instruction's rounding, and its flags are ORed into WSTAT (16 R336, R340 to R349; 09 R205). -/
def Obligations.FloatElements : Prop :=
  ∀ e ∈ ([(.fadd, .fadd, fun c _ r a b _ => faddElem c.ty r false a b), (.fsub, .fsub, fun c _ r a b _ => faddElem c.ty r true a b),
          (.fmul, .fmul, fun c _ r a b _ => fmulElem c.ty r a b), (.fma, .fma, fun c _ r a b z => fmaElem c.ty r a b z),
          (.fmin, .fmin, fun c _ _ a b _ => fminElem c.ty c.warp.ftz false false a b),
          (.fmax, .fmax, fun c _ _ a b _ => fminElem c.ty c.warp.ftz true false a b),
          (.fmnum, .fmnum, fun c _ _ a b _ => fminElem c.ty c.warp.ftz (bitAt c.x.e 0) true a b),
          (.fsqrt, .fsqrt, fun c _ r a _ _ => fsqrtElem c.ty r a), (.fdiv, .fdiv, fun c _ r a b _ => fdivElem c.ty r a b),
          (.fround, .fround, fun c _ r a _ _ => froundElem c.ty r a),
          (.fscale, .fscale, fun c l r a _ _ => fscaleElem c.ty r a (signed 32 (c.b l))),
          (.fsel, .fsel, fun c _ _ a b z => (if selects c.ty c.warp.ftz z then a else b, 0)),
          (.frcp, .frcp, fun c _ _ a _ _ => specialOf .rcp c.ty c.flush a), (.frsq, .frsq, fun c _ _ a _ _ => specialOf .rsq c.ty c.flush a),
          (.fex2, .fex2, fun c _ _ a _ _ => specialOf .ex2 c.ty c.flush a), (.flg2, .flg2, fun c _ _ a _ _ => specialOf .lg2 c.ty c.flush a),
          (.fsin, .fsin, fun c _ _ a _ _ => specialOf .sin c.ty c.flush a), (.fcos, .fcos, fun c _ _ a _ _ => specialOf .cos c.ty c.flush a)] :
        List ((Fields → Instr) × Op × (Ctx → Nat → Rnd → Nat → Nat → Nat → Res))),
    Runs e.1 e.2.1
      (fun c w l => HoldsElems c w l (fun i =>
        (e.2.2 c l (c.rounding l i) (elemOf c.ty (c.a l) i) (elemOf c.ty (c.b l) i) (elemOf c.ty (c.c l) i)).1 % 2 ^ tyWidth c.ty))
      (fun c l => orElems c (fun i =>
        (e.2.2 c l (c.rounding l i) (elemOf c.ty (c.a l) i) (elemOf c.ty (c.b l) i) (elemOf c.ty (c.c l) i)).2))

/-- A NaN operand of `fadd`, `fsub`, `fmul`, `fdiv` or `fma` makes the result the first NaN in operand order, with its top fraction bit set and
its payload kept, and a signalling one sets IV (09 R208). -/
def Obligations.NanOperands : Prop :=
  let frac (t : Nat) : Nat := if t = 3 then 23 else if t = 4 then 10 else if t = 5 then 7 else 52
  let nan (t v : Nat) : Prop := v / 2 ^ frac t % 2 ^ (tyWidth t - 1 - frac t) = 2 ^ (tyWidth t - 1 - frac t) - 1 ∧ v % 2 ^ frac t ≠ 0
  let quiet (t v : Nat) : Nat := v ||| 2 ^ (frac t - 1)
  ∀ e ∈ ([(.fadd, .fadd), (.fsub, .fsub), (.fmul, .fmul), (.fdiv, .fdiv), (.fma, .fma)] : List ((Fields → Instr) × Op)),
    ∀ x s t c, Reaches e.2 x s t c → NoneOwed c → c.x.d.toNat + c.form.d.vecs ≤ 255 →
      ∃ u w, exec (e.1 x) s = .next u ∧ u.warpOf c.warp.uid = some w
        ∧ ∀ l i, l < 32 → c.lanes.getLsbD l = true → i < tyCount c.ty →
          (nan c.ty (elemOf c.ty (c.a l) i) →
            elemOf c.ty (w.regs.vecs c.x.d.toNat l c.form.d.vecs) i = quiet c.ty (elemOf c.ty (c.a l) i))
          ∧ (¬ nan c.ty (elemOf c.ty (c.a l) i) → nan c.ty (elemOf c.ty (c.b l) i) →
            elemOf c.ty (w.regs.vecs c.x.d.toNat l c.form.d.vecs) i = quiet c.ty (elemOf c.ty (c.b l) i))
          ∧ (e.2 = .fma → ¬ nan c.ty (elemOf c.ty (c.a l) i) → ¬ nan c.ty (elemOf c.ty (c.b l) i) → nan c.ty (elemOf c.ty (c.c l) i) →
            elemOf c.ty (w.regs.vecs c.x.d.toNat l c.form.d.vecs) i = quiet c.ty (elemOf c.ty (c.c l) i))
          ∧ (nan c.ty (elemOf c.ty (c.a l) i) → (elemOf c.ty (c.a l) i).testBit (frac c.ty - 1) = false → c.real.getLsbD l = true →
            w.wstat.getLsbD 0 = true)

/-- `fsetp` compares every element and `fclass` tests the class of every or of any element (16 R346, R347). -/
def Obligations.FloatTests : Prop :=
  let cmp (c : Ctx) (l i : Nat) : Bool × Nat := fcmpElem c.ty c.warp.ftz c.x.f.toNat (elemOf c.ty (c.a l) i) (elemOf c.ty (c.b l) i)
  let hit (c : Ctx) (l i : Nat) : Bool := bitAt c.x.e (classBit c.ty (elemOf c.ty (c.a l) i))
  Runs .fsetp .fsetp (fun c w l => HoldsP c w l (decide (∀ i, i < tyCount c.ty → (cmp c l i).1 = true)))
    (fun c l => orElems c (fun i => (cmp c l i).2))
  ∧ Runs .fclass .fclass
    (fun c w l => HoldsP c w l
      (if bitAt c.x.e 10 then decide (∀ i, i < tyCount c.ty → hit c l i = true) else decide (∃ i, i < tyCount c.ty ∧ hit c l i = true))) noFlags

/-- `fcvt` converts the elements that SEL chooses and keeps the others of d (16 R350). -/
def Obligations.FloatConversions : Prop :=
  let m (c : Ctx) : Nat := tyCount (styp c.x)
  let n (c : Ctx) : Nat := tyCount c.ty
  let conv (c : Ctx) (l dst src : Nat) : Res :=
    convertElem c.ty (styp c.x) c.rmode (c.random l dst) (if c.x.f = 1 then .infinity else .no) c.warp.ftz (elemOf (styp c.x) (c.a l) src)
  let src (c : Ctx) (i : Nat) : Nat := if m c = n c then i else if m c < n c then i - cvtSel c.x * m c else cvtSel c.x * n c + i
  let taken (c : Ctx) (i : Nat) : Bool := m c ≥ n c || (cvtSel c.x * m c ≤ i && i < cvtSel c.x * m c + m c)
  Runs .fcvt .fcvt
    (fun c w l => HoldsElems c w l (fun i =>
      if taken c i then (conv c l i (src c i)).1 % 2 ^ tyWidth c.ty else elemOf c.ty (c.d (tyRegs c.ty) l) i))
    (fun c l => orElems c (fun i => if taken c i then (conv c l i (src c i)).2 else 0))

/-- `quant` writes one code and keeps the other elements of d, `dequant` gives s × (w − z) (16 R352); `pack` and `unpack` move elements between
one register and several (16 R353); `rng` gives the four words of its counter and key (16 R354). -/
def Obligations.Repacking : Prop :=
  let bits (c : Ctx) : Nat := if c.ty = 11 then 8 else 4
  let sel (c : Ctx) : Nat := bitField c.x.e 9 3
  let q (c : Ctx) (l : Nat) : Res :=
    quantElem (bits c) c.rmode (c.random l 0) (c.a l % 2 ^ 32) (c.b l % 2 ^ 16) (c.c l % 2 ^ bits c)
  let dq (c : Ctx) (l : Nat) : Res := dequantElem (elemOf c.ty (c.a l) (sel c)) (c.b l % 2 ^ 16) (c.c l % 2 ^ bits c)
  Runs .quant .quant
    (fun c w l => HoldsElems c w l (fun i => if i = sel c then (q c l).1 % 2 ^ tyWidth c.ty else elemOf c.ty (c.d 1 l) i))
    (fun c l => (q c l).2)
  ∧ Runs .dequant .dequant (fun c w l => HoldsD c w l ((dq c l).1 % 2 ^ 32)) (fun c l => (dq c l).2)
  ∧ Runs .pack .pack (fun c w l => HoldsElems c w l (fun i => c.a l / 2 ^ (32 * i) % 2 ^ tyWidth c.ty)) noFlags
  ∧ Runs .unpack .unpack
    (fun c w l => c.x.d.toNat + c.form.d.vecs ≤ 255 → ∀ i, i < tyCount c.ty →
      (w.regs.vec (c.x.d.toNat + i) l).toNat
        = if tySigned c.ty then wrap 32 (c.elem (c.a l) i) else elemOf c.ty (c.a l) i) noFlags
  ∧ Runs .rng .rng
    (fun c w l => c.x.d.toNat + 4 ≤ 255 → ∀ i, i < 4 →
      (w.regs.vec (c.x.d.toNat + i) l).toNat
        = (philox [c.a l % 2 ^ 32, c.a l / 2 ^ 32 % 2 ^ 32, c.a l / 2 ^ 64 % 2 ^ 32, c.a l / 2 ^ 96 % 2 ^ 32] (c.b l % 2 ^ 32)
            (c.b l / 2 ^ 32 % 2 ^ 32)).getD i 0 % 2 ^ 32) noFlags

/-! ### Special registers, uniform results and molds in lanes -/

/-- `csrr` of every register goes on, and reads the lane's own value for the identity registers and the warp's or the machine's value for the others
(15 R332; 05 Table 5-3); `hb` reads the heartbeat and `clk` the clocks of the core (15 R335). -/
def Obligations.RegisterReads : Prop :=
  let reads (n : Nat) (v : State → Ctx → Nat → Nat) : Prop :=
    ReadsIn .csrr .csrr (fun s c w l => bitField c.x.e 0 12 = n → HoldsD c w l (v s c l % 2 ^ (32 * c.form.d.vecs))) noFlags
  let grid (s : State) (c : Ctx) : Nat × Nat × Nat :=
    match s.stageOf (s.blockAt c.warp.block) with | some d => (d.gx, d.gy, d.gz) | none => (1, 1, 1)
  reads 0x13 (fun s c _ => (s.blockAt c.warp.block).index)
  ∧ reads 0x14 (fun s c _ => (s.blockAt c.warp.block).index % (grid s c).1)
  ∧ reads 0x15 (fun s c _ => (s.blockAt c.warp.block).index / (grid s c).1 % (grid s c).2.1)
  ∧ reads 0x16 (fun s c _ => (s.blockAt c.warp.block).index / ((grid s c).1 * (grid s c).2.1))
  ∧ reads 0x17 (fun s c _ => (grid s c).1 * (grid s c).2.1 * (grid s c).2.2)
  ∧ reads 0x18 (fun s c _ => if c.warp.cast = true then (s.blockAt c.warp.block).lcore else s.coreNumber c.warp.core)
  ∧ reads 0x19 (fun _ c _ => coreDie c.warp.core) ∧ reads 0x20 (fun s c _ => (s.timeOf c.warp.ctx).toNat)
  ∧ reads 0x50 (fun _ c _ =>
      let m := c.warp.mstep
      if m.active then 2 ^ 31 + m.slot % 8 * 2 ^ 24 + m.opnd % 4 * 2 ^ 22 + m.total % 256 * 2 ^ 8 + m.done % 256 else 0)
  ∧ ReadsIn .csrr .csrr (fun s c w l => bitField c.x.e 0 12 = 0x60 → c.x.d.toNat ≠ 255 → ∀ k, k < 32 →
      (w.regs.vec c.x.d.toNat l).getLsbD k =
        let q := ((s.coreOf c.warp.core).sprues.getD (k % 8) [])
        (decide (k / 8 = 3) && q.any (fun x => x.fault.isSome)) || (decide (k / 8 = 2) && decide (16 ≤ q.length)) || (decide (k / 8 = 1) && q != []))
    noFlags
  ∧ reads 0x00 (fun _ c _ => c.warp.wctl.toNat) ∧ reads 0x01 (fun _ c _ => c.warp.wstat.toNat)
  ∧ reads 0x10 (fun _ _ l => l) ∧ reads 0x11 (fun _ _ l => l / 4) ∧ reads 0x12 (fun _ c _ => c.warp.wid)
  ∧ reads 0x1A (fun _ c l => if c.warp.helper.getLsbD l then 1 else 0) ∧ reads 0x1B (fun _ c _ => (~~~(c.warp.helper ||| c.warp.absent)).toNat)
  ∧ reads 0x21 (fun s _ _ => s.hb.toNat)
  ∧ reads 0x30 (fun _ c _ => c.warp.trap.tbase.toNat) ∧ reads 0x31 (fun _ c _ => c.warp.trap.tcause.toNat)
  ∧ reads 0x32 (fun _ c _ => c.warp.trap.tmask.toNat) ∧ reads 0x33 (fun _ c _ => c.warp.trap.taddr.toNat)
  ∧ reads 0x34 (fun _ c _ => c.warp.trap.tfirst.toNat) ∧ reads 0x3D (fun _ c _ => c.warp.trap.tinfo.toNat)
  ∧ (∀ q, q < 8 → reads (0x35 + q) (fun _ c _ => (c.warp.trap.tqpc.getD q 0).toNat))
  ∧ reads 0x40 (fun _ c _ => c.warp.region.toNat) ∧ reads 0x41 (fun _ c _ => c.warp.rcount.toNat)
  ∧ ReadsIn .hb .hb (fun s c w l => HoldsD c w l s.hb.toNat) noFlags
  ∧ ReadsIn .clk .clk (fun s c w l => HoldsD c w l ((s.coreOf c.core).clk % 2 ^ 64)) noFlags

/-- `mquery` reads the free banks of the core and their number, the banks that the block holds, and the bound slots (17 R370). -/
def Obligations.MoldQueries : Prop :=
  ReadsIn .mquery .mquery
    (fun s c w l =>
      let free (k : Nat) : Bool := s.blocks.all (fun b => !(b.banksOn c.core).getLsbD k)
      (bitField c.x.e 0 3 = 0 → HoldsD c w l ((List.range 64).countP free))
        ∧ (bitField c.x.e 0 3 = 1 → HoldsD c w l ((s.blockAt c.warp.block).banksOn c.core).toNat)
        ∧ (bitField c.x.e 0 3 = 2 → c.x.d.toNat + 2 ≤ 255 → ∀ k, k < 64 → (w.regs.vecs c.x.d.toNat l 2).testBit k = free k)
        ∧ (bitField c.x.e 0 3 = 3 → c.x.d.toNat ≠ 255 → ∀ k, k < 32 →
            (w.regs.vec c.x.d.toNat l).getLsbD k = (decide (1 ≤ k ∧ k ≤ 7) && (c.warp.slotOf k).isSome)))
    noFlags

/-- `movu` gives a uniform register the value of the lowest lane that takes effect and is not a helper lane, or with no such lane keeps it;
`movu.v` gives every lane a uniform register (15 R329). -/
def Obligations.UniformMoves : Prop :=
  ∀ x s t c, Reaches .movu x s t c → ∃ u w, exec (.movu x) s = .next u ∧ RegFrame s c u w
    ∧ (NoneOwed c → c.x.f = 0 →
        (∀ l, l < 32 → c.real.getLsbD l = true → (∀ k, k < l → c.real.getLsbD k = false) →
          w.regs.unis c.x.d.toNat (tyRegs c.ty) = c.a l % 2 ^ tyWidth c.ty)
        ∧ (c.real = 0 → w.regs.unis c.x.d.toNat (tyRegs c.ty) = c.warp.regs.unis c.x.d.toNat (tyRegs c.ty)))
    ∧ (NoneOwed c → c.x.f = 1 → ∀ l, l < 32 → c.lanes.getLsbD l = true → HoldsD c w l (c.a l % 2 ^ tyWidth c.ty))

/-- `macc`, dense or at the last step of a sparse pour, goes on. It adds the exact sum of the terms of its pour to d, rounded once (17 R369, 10 R229): with
RES i32 modulo 2^32, or clamped with SAT set; with RES f32 where every value is finite and the sum is not zero; with RES f64 at the last level of the tree
(R230). A sparse one takes its terms from the accumulators (10 R234). `mstep` gives a uniform register the steps that a pour through the slot takes for the
issuing gang (17 R371, 10 R233). -/
def Obligations.MoldSums : Prop :=
  let clamped (b : Binding) (v : Int) : Nat := wrap 32 (if b.record.satb then max (-2 ^ 31) (min (2 ^ 31 - 1) v) else v)
  let mode (c : Ctx) (b : Binding) (l : Nat) : Rnd := { mode := b.record.rmode c.warp.rnd, rb := c.random l 0, sat := .no, ftz := c.warp.ftz }
  let old (c : Ctx) (t l : Nat) : Machine.Num := decodeNum t (flushIn t c.warp.ftz (c.d (tyRegs t) l))
  (∀ x s t c b, Reaches .macc x s t c → c.warp.slotOf c.x.a.mold.toNat = some b → ∃ u w, exec (.macc x) s = .next u ∧ RegFrame s c u w
    ∧ (NoneOwed c → ∀ l, l < 32 → c.lanes.getLsbD l = true →
        let terms := termsOf t c.pourEnv b c.x.a.reg.toNat l
        let vals := terms.filterMap Term.value
        (b.record.rf = 1 → b.record.sparse = false → terms.all (fun x => match x.value with | some (.fin _ _ 0) => true | _ => false) = true →
          HoldsD c w l (clamped b (signed 32 (c.d 1 l) + (vals.map (fun v => match v with | .fin n m _ => sgn n m | _ => 0)).sum)))
        ∧ (b.record.rf = 3 → b.record.sparse = false → terms ≠ [] → terms.all (fun x => match x.value with | some (.fin _ _ _) => true | _ => false) = true →
            nanOf 3 (terms.flatMap Term.factors) = none →
            ∀ n m e, old c 3 l = .fin n m e →
            let p := exactSum vals
            let q := exactSum ([.fin n m e] ++ if p.1 = 0 then [] else [.fin (decide (p.1 < 0)) p.1.natAbs p.2])
            q.1 ≠ 0 → HoldsD c w l (({ mode c b l with sat := b.record.satRule }.enc 3 (decide (q.1 < 0)) q.1.natAbs q.2 false).1 % 2 ^ 32))
        ∧ (b.record.rf = 15 → HoldsD c w l ((sumF64 t c.pourEnv b (mode c b l) (some (old c 15 l)) c.x.a.reg.toNat l).1 % 2 ^ 64))
        ∧ (b.record.rf = 1 → b.record.sparse = true → ∀ cols col m, c.columns = [(0, cols)] → cols[l]? = some (col, m) → col.count ≠ 0 →
            HoldsD c w l (clamped b (signed 32 (c.d 1 l)
              + if col.exp < 0 then col.sum / (2 ^ (-col.exp).toNat : Nat) else col.sum * (2 ^ col.exp.toNat : Nat))))))
  ∧ (∀ x s t c b, Reaches .mstep x s t c → c.warp.slotOf (bitField x.e 0 3) = some b → c.real ≠ 0 →
    ∃ u w, exec (.mstep x) s = .next u ∧ RegFrame s c u w
      ∧ (NoneOwed c → w.regs.uni c.x.d.toNat = BitVec.ofNat 32 (if b.record.sparse then pourSteps c.pourEnv b else 1)))
  ∧ ∀ x s t c, Reaches .mstep x s t c → c.real = 0 → ∃ u w, exec (.mstep x) s = .next u ∧ RegFrame s c u w ∧ SameRegs c w

/-- `csrw` writes a control register that programs may write, and no other register of the warp changes (15 R333, Table 15-8). -/
def Obligations.RegisterWrites : Prop :=
  Goes .csrw .csrw
    (fun _ c => ∃ l, c.leader = some l ∧ csrRefuses (bitField c.x.e 0 12) (c.a l) = false)
    (fun s c u w => ∃ l, c.leader = some l ∧ OnlyWarp s c u ∧ Advanced c w ∧ SameRegs c w
      ∧ (let n := bitField c.x.e 0 12
         let v := c.a l
         (n = 0x00 → w.wctl.toNat = c.warp.wctl.toNat / 2 ^ 5 % 4 * 2 ^ 5 + v % 2 ^ 5)
          ∧ (n ≠ 0x00 → w.wctl = c.warp.wctl) ∧ w.wstat = (if n = 0x01 then BitVec.ofNat 32 v else c.warp.wstat)
          ∧ w.trap = { c.warp.trap with
              tbase := if n = 0x30 then BitVec.ofNat 64 v else c.warp.trap.tbase,
              tcause := if n = 0x31 then BitVec.ofNat 32 v else c.warp.trap.tcause,
              tmask := if n = 0x32 then BitVec.ofNat 32 v else c.warp.trap.tmask,
              taddr := if n = 0x33 then BitVec.ofNat 64 v else c.warp.trap.taddr,
              tfirst := if n = 0x34 then BitVec.ofNat 64 v else c.warp.trap.tfirst,
              tinfo := if n = 0x3D then BitVec.ofNat 64 v else c.warp.trap.tinfo,
              tqpc := if 0x35 ≤ n ∧ n ≤ 0x3C then c.warp.trap.tqpc.set (n - 0x35) (BitVec.ofNat 64 v) else c.warp.trap.tqpc }
          ∧ w.region = (if n = 0x40 then BitVec.ofNat 64 v else c.warp.region)
          ∧ w.rcount = (if n = 0x41 then BitVec.ofNat 32 v else c.warp.rcount)))

/-! ### Traps -/

/-- A trap of a warp that has nothing outstanding and does not speculate enters its handler, and nothing but that warp changes (05 R121, R122);
TADDR and TINFO hold what the cause gives. -/
def Obligations.TrapEntry : Prop :=
  ∀ (s : State) uid (w : Warp) (t : Trap), s.warpOf uid = some w → w.uid = uid → TrapsAtOnce s w → w.trap.tbase ≠ 0 →
    ∃ v, (s.takeTrap uid t).warpOf uid = some v ∧ InHandler w v t.cause t.mask t.first
      ∧ (∀ a, t.addr = some a → v.trap.taddr = BitVec.ofNat 64 a) ∧ (∀ a, t.info = some a → v.trap.tinfo = BitVec.ofNat 64 a)
      ∧ OnlyTraps s (s.takeTrap uid t) uid

/-- A trap waits until everything that the warp has issued has completed; until then nothing of the warp but that wait changes (05 R121). Beside a shadow it
waits until the shadow has come to the same boundary (11 R247). A trap of a warp that a trap already waits for is not taken, and one of a warp that
speculates squashes the speculation instead (07 R166). -/
def Obligations.TrapWaits : Prop :=
  ∀ (s : State) uid (w : Warp) (t : Trap), s.warpOf uid = some w → w.uid = uid →
    let r := s.takeTrap uid t
    (w.trapWait ≠ none → r = s)
    ∧ (w.trapWait = none → w.spec ≠ none → r.warpOf uid = some w.squash ∧ OtherWarps s r uid ∧ SameMemory s r)
    ∧ (w.trapWait = none → w.spec = none → s.shadowOf uid = none → w.quiet = false →
        r.warpOf uid = some { w with trapWait := some t } ∧ OnlyWarps s r ∧ OtherWarps s r uid)
    ∧ (w.trapWait = none → w.spec = none → s.shadowOf uid ≠ none →
        (∃ l, r.warpOf uid = some { w with trapWait := some t, trapGiven := false, trail := w.trail ++ l }
          ∧ ∃ h, l = [h] ∧ h.trap = some t) ∧ OnlyWarps s r ∧ OtherWarps s r uid)

/-- With TBASE 0 a trap ends the context: it is being killed, and its virtual device logs a record of KIND 1 with the cause (05 R124, 11 Table
11-6). -/
def Obligations.TrapWithoutHandler : Prop :=
  ∀ (s : State) uid (w : Warp) (t : Trap) (k : Context) (v : VDev), s.warpOf uid = some w → w.uid = uid → TrapsAtOnce s w → w.trap.tbase = 0 →
    s.ctxOf w.ctx = some k → k.killed = false → s.vdOf k.vd = some v →
    (∃ k', (s.takeTrap uid t).ctxOf w.ctx = some k' ∧ (k'.killing = true ∨ k'.killed = true))
      ∧ ∃ v' r, (s.takeTrap uid t).vdOf k.vd = some v' ∧ r ∈ v'.log ∧ r.kind = 1 ∧ r.cause = t.cause ∧ r.tmask = t.mask ∧ r.ctx = w.ctx

/-- `trap` and `bkpt` raise causes 0x18 and 0x17 in the active lanes that hold the guard and are not helper lanes: TFIRST holds their own address,
TADDR 0, TINFO their code, and the quads of the gang record the address after them; with no such lane they have no effect (18 R386). -/
def Obligations.SoftwareTraps : Prop :=
  ∀ e ∈ ([(.trap, .trap, 0x18), (.bkpt, .bkpt, 0x17)] : List ((Fields → Instr) × Op × Nat)),
    Goes e.1 e.2.1
      (fun s c => c.real ≠ 0 ∧ TrapsAtOnce s c.warp ∧ c.warp.trap.tbase ≠ 0 ∧ ∀ q, (c.warp.quad q).packed = false)
      (fun s c u w => OnlyTraps s u c.warp.uid ∧ w.inTrap = true ∧ w.trap.tcause = BitVec.ofNat 32 e.2.2 ∧ w.trap.tmask = c.real
        ∧ w.trap.taddr = 0 ∧ w.trap.tfirst = BitVec.ofNat 64 c.pc.toNat ∧ w.trap.tinfo = BitVec.ofNat 64 c.x.d.toNat
        ∧ w.trap.tbase = c.warp.trap.tbase
        ∧ (∀ q, q ∈ c.quads → w.trap.tqpc.getD q 0 = BitVec.ofNat 64 ((c.warp.quad q).path.pc + 4).toNat)
        ∧ (∀ q, q ∉ c.quads → w.trap.tqpc.getD q 0 = BitVec.ofNat 64 (c.warp.quad q).path.pc.toNat)
        ∧ (∀ q, q ∈ c.warp.handlerQuads →
            (w.quad q).path = { (c.warp.quad q).path with pc := BitVec.ofNat 55 c.warp.trap.tbase.toNat } ∧ (w.quad q).park = .running)
        ∧ w.regs = c.warp.regs ∧ w.wstat = c.warp.wstat ∧ w.wctl = c.warp.wctl)
    ∧ Goes e.1 e.2.1 (fun _ c => c.real = 0)
      (fun s c u w => OnlyWarp s c u ∧ Advanced c w ∧ MovesQuads c w)

/-- An encoding that breaks check 5, in a fixed-length word fetched whole, traps with cause 0x02 before anything else of the instruction happens:
its real active lanes fault, and TINFO names check and field (12 R268; 13 R282). An instruction refused at row 6 has cause 0x03. -/
def Obligations.CheckTraps : Prop :=
  ∀ (s : State) (cur : Issuing) (w : Warp) (o : Op) (x : Fields) (cause info : Nat),
    s.cur = some cur → cur.slot < hiddenSlot → s.gangWarps cur.core cur.gang = [w] → s.warpOf w.uid = some w →
    earlyFault w (w.members cur.gang) o x = some (cause, info) → w.activeOf (w.members cur.gang) &&& ~~~w.helper ≠ 0 →
    TrapsAtOnce s w → w.trap.tbase ≠ 0 → (∀ q, (w.quad q).packed = false) →
      ∃ u v, exec (o.instr x) s = .next u ∧ u.warpOf w.uid = some v
        ∧ InHandler w v cause (w.activeOf (w.members cur.gang) &&& ~~~w.helper) (w.quad ((w.members cur.gang).headD 0)).path.pc.toNat
        ∧ (cause ≠ 0x03 → v.trap.tinfo = BitVec.ofNat 64 info)
        ∧ OnlyTraps s u w.uid

/-- `tret` clears INTRAP and resumes each quad of the handler at its TQPC, those with equal TQPCs as one gang, with its masks and divergence
stack as the handler left them (05 R122; 18 R387). -/
def Obligations.TrapReturn : Prop :=
  Goes .tret .tret (fun _ c => c.warp.heldFault = none ∧ c.warp.barrier = none)
    (fun s c u w => OnlyWarp s c u ∧ SameRegs c w ∧ w.inTrap = false ∧ w.trap = c.warp.trap
      ∧ (∀ q, q < 8 → c.warp.handler.getLsbD q = true → (c.warp.quad q).alive = true →
          (w.quad q).path = { (c.warp.quad q).path with pc := BitVec.ofNat 55 (c.warp.trap.tqpc.getD q 0).toNat } ∧ (w.quad q).park = .running)
      ∧ (∀ q p, q < 8 → p < 8 → c.warp.handler.getLsbD q = true → c.warp.handler.getLsbD p = true →
          (c.warp.quad q).alive = true → (c.warp.quad p).alive = true →
          ((w.quad q).gang = (w.quad p).gang ↔ (w.quad q).path.pc = (w.quad p).path.pc)))

/-! ### Control flow -/

/-- A branch of each quad of the gang: the path of the taken lanes goes to the target of the lowest one, and the others wait on the divergence
stack; `.fair` runs a pending path first (05 R103; 18 R379 to R381). `call` links in the lanes that take it; no other register changes. In a
handler `.pack` packs nothing. `bra.pack` outside a handler packs every quad of the gang, taken or not, and parks it in the window of its address, which is open while
another living quad of the block on the core is not parked in it (05 R110, R112; 18 R381). -/
def Obligations.Branches : Prop :=
  let relative (c : Ctx) (_ : Nat) : Int := (c.pc.toNat : Int) + signed 32 c.x.i.toNat
  (∀ e ∈ ([(.bra, .bra, relative, false), (.braFair, .braFair, relative, true), (.braPack, .braPack, relative, false),
          (.brx, .brx, fun c l => (c.a l : Int), false), (.call, .call, relative, false), (.ret, .ret, fun c l => (c.d 2 l : Int), false)] :
        List ((Fields → Instr) × Op × (Ctx → Nat → Int) × Bool)),
    Goes e.1 e.2.1
      (fun s c => Free s c ∧ BranchesFit e.2.2.1 c ∧ (e.2.1 = .braPack → c.warp.inTrap = true))
      (fun s c u w => OnlyWarp s c u ∧ OtherQuads c w ∧ KeepsRegs c w.regs ∧ w.wstat = c.warp.wstat ∧ w.pending = c.warp.pending
        ∧ (e.2.1 ≠ .call → SameRegs c w)
        ∧ (e.2.1 = .call → c.x.d.toNat + 2 ≤ 255 → ∀ l, l < 32 → c.lanes.getLsbD l = true → w.regs.vecs c.x.d.toNat l 2 = c.next.toNat)
        ∧ ∀ q, q ∈ c.quads → (w.quad q).park = .running ∧ (w.quad q).packed = (c.warp.quad q).packed
          ∧ BranchesTo e.2.2.1 e.2.2.2 c q (w.quad q).path))
  ∧ Goes .braPack .braPack
    (fun s c => c.warp.inTrap = false ∧ BranchesFit relative c ∧ c.warp.trapWait = none ∧ c.warp.paired = false
      ∧ (s.coreOf c.warp.core).windows = []
      ∧ ∃ v q, s.warpOf v.uid = some v ∧ v.block = c.warp.block ∧ v.core = c.warp.core ∧ v.ended = false ∧ q ∈ v.aliveQuads
          ∧ (v.uid ≠ c.warp.uid ∨ q ∉ c.quads) ∧ ∀ pc, (v.quad q).park ≠ .packing pc)
    (fun s c u w => u = { s with warps := u.warps, fresh := u.fresh, uids := u.uids, cores := u.cores } ∧ OtherWarps s u c.warp.uid
      ∧ OtherQuads c w ∧ SameRegs c w ∧ w.wstat = c.warp.wstat ∧ w.pending = c.warp.pending
      ∧ (∃ win, win ∈ (u.coreOf c.warp.core).windows ∧ win.block = c.warp.block ∧ win.pc = c.pc)
      ∧ ∀ q, q ∈ c.quads → (w.quad q).park = .packing c.pc ∧ (w.quad q).packed = true ∧ BranchesTo relative false c q (w.quad q).path)

/-- `loop` decrements the counters of the lanes that hold the guard and goes back with those whose counter is not 0; the others leave through one
entry of its own on the divergence stack (18 R382). -/
def Obligations.Loops : Prop :=
  let mine (c : Ctx) (q : Nat) : Prop := ∃ top rest, (c.path q).stack = top :: rest ∧ top.kind = .pending ∧ top.pcw = pcPcw c.next
  let target (c : Ctx) : Int := (c.pc.toNat : Int) + signed 32 c.x.i.toNat
  Goes .loop .loop
    (fun s c => Free s c ∧ NoneOwed c ∧ ∀ q, q ∈ c.quads →
      (c.stay q ≠ 0 → 0 ≤ target c ∧ target c < 2 ^ 55 ∧ target c % 4 = 0)
        ∧ (c.stay q ≠ 0 → c.stay q ≠ (c.path q).active → ¬ mine c q → (c.path q).stack.length < 16))
    (fun s c u w => OnlyWarp s c u ∧ OtherQuads c w ∧ KeepsRegs c w.regs
      ∧ (∀ l, l < 32 → c.active.getLsbD l = true →
          let v := c.warp.regs.vec c.x.d.toNat l
          w.regs.vec c.x.d.toNat l = if c.lanes.getLsbD l = true ∧ v ≠ 0 then v - 1 else v)
      ∧ ∀ q, q ∈ c.quads → (w.quad q).park = .running
        ∧ (∀ l, l < 4 → (c.stay q).getLsbD l =
            (c.lanes.getLsbD (4 * q + l) && decide (1 < (c.warp.regs.vec c.x.d.toNat (4 * q + l)).toNat)))
        ∧ (∀ top rest, (c.path q).stack = top :: rest → top.kind = .pending → top.pcw = pcPcw c.next →
            (w.quad q).path =
              if c.stay q = 0 then { c.path q with pc := c.next, active := top.jmask &&& (c.path q).living, stack := rest }
              else { c.path q with
                pc := BitVec.ofNat 55 (target c).toNat, active := c.stay q,
                stack := { top with pmask := top.pmask ||| ((c.path q).active &&& ~~~c.stay q) } :: rest })
        ∧ (¬ mine c q →
            (w.quad q).path =
              if (c.path q).active &&& ~~~c.stay q = 0 then { c.path q with pc := BitVec.ofNat 55 (target c).toNat }
              else if c.stay q = 0 then { c.path q with pc := c.next }
              else { c.path q with
                pc := BitVec.ofNat 55 (target c).toNat, active := c.stay q,
                stack := { kind := .pending, pmask := (c.path q).active &&& ~~~c.stay q, jmask := (c.path q).active, pcw := pcPcw c.next }
                  :: (c.path q).stack }))

/-- `nop` only advances. `region` names its successor, VALID exactly when the gang is every living quad of the warp and none has diverged or is
packed, and clears RCOUNT (11 R240). `yield` waits for 16 issues of the other warp slots of its sequencer that are ready, or not at all when
none is; `sleep` does not issue for b clocks; under a guard that holds in no real lane both only advance (12 R267; 18 R388). -/
def Obligations.Idling : Prop :=
  Runs .nop .nop (fun _ _ _ => True) noFlags
  ∧ Goes .region .region (fun _ _ => True)
    (fun s c u w => OnlyWarp s c u ∧ Advanced c w ∧ bitField w.region 2 53 = c.next.toNat / 4 % 2 ^ 53 ∧ w.rcount = 0
      ∧ (w.region.getLsbD 0 = true ↔ c.quads = c.warp.aliveQuads ∧ ∀ q, q ∈ c.quads → (c.path q).stack = [] ∧ (c.warp.quad q).packed = false)
      ∧ MovesQuads c { w with region := c.warp.region, rcount := c.warp.rcount })
  ∧ (∀ x s t c, Reaches .yield x s t c → ∃ u w cur, ∃ slots : List Nat, s.cur = some cur ∧ exec (.yield x) s = .next u ∧ u.warpOf c.warp.uid = some w
      ∧ OnlyWarp s c u ∧ MovesQuads c w
      ∧ (∀ k, k ∈ slots ↔ k ≠ cur.slot ∧ ∃ p, p ∈ t.picks c.core (cur.slot / 16) ∧ p.slot = k)
      ∧ AdvancedTo c w (fun q => if c.any = true ∧ slots ≠ [] then .yield slots 16 else (c.warp.quad q).park))
  ∧ Goes .sleep .sleep (fun _ _ => True)
    (fun s c u w => OnlyWarp s c u ∧ MovesQuads c w
      ∧ AdvancedTo c w (fun q => if c.any = true ∧ c.b 0 ≠ 0 then .sleep else (c.warp.quad q).park)
      ∧ (c.any = true → ∀ q, q ∈ c.quads → (s.coreOf c.core).clk + c.b 0 < (w.quad q).readyAt))

/-- `join` and `exit` end the path of each quad of the gang: the pending path of the top entry runs if a lane of it lives, else the entry is
popped and its path goes on with the living lanes of its join mask, after `join` at the next instruction (05 R104; 18 R383, R384). `exit` ends
the path only when no active lane of the quad is left. -/
def Obligations.PathEnds : Prop :=
  let stays (c : Ctx) (alive : Nat → Prop) : Prop :=
    ∃ q, q ∈ c.warp.counted ∧ (q ∈ c.quads → alive q) ∧ (q ∉ c.quads → (c.warp.quad q).park = .running)
  let calm (s : State) (c : Ctx) : Prop := c.warp.trapWait = none ∧ (s.coreOf c.warp.core).windows = [] ∧ c.warp.paired = false
  Goes .join .join (fun s c => calm s c ∧ stays c (fun _ => True))
    (fun s c u w => OnlyWarp s c u ∧ OtherQuads c w ∧ SameRegs c w ∧ w.wstat = c.warp.wstat
      ∧ w.pending.map (fun a => { a with ended := none }) = c.warp.pending.map (fun a => { a with ended := none })
      ∧ ∀ q, q ∈ c.quads → (w.quad q).park = .running ∧ (w.quad q).path =
          match (c.path q).stack with
          | [] => { c.path q with pc := c.pc + 4 }
          | top :: rest =>
            if top.kind = .pending ∧ top.pmask &&& (c.path q).living ≠ 0 then
              { c.path q with
                pc := pcwPc top.pcw, active := top.pmask &&& (c.path q).living,
                stack := { top with kind := .joined, pmask := (c.path q).active, pcw := pcPcw c.pc } :: rest }
            else { c.path q with pc := c.pc + 4, active := top.jmask &&& (c.path q).living, stack := rest })
  ∧ (let ended (p : Path) : Path :=
      match p.stack with
      | [] => { p with living := 0 }
      | top :: rest =>
        if top.kind = .pending ∧ top.pmask &&& p.living ≠ 0 then
          { p with
            pc := pcwPc top.pcw, active := top.pmask &&& p.living,
            stack := { top with kind := .exited, pmask := p.active, pcw := pcPcw p.pc } :: rest }
        else if top.kind = .joined then { p with pc := pcwPc top.pcw + 4, active := top.jmask &&& p.living, stack := rest }
        else { p with active := top.jmask &&& p.living, stack := rest }.pathEnd p.pc true
     let after (c : Ctx) (q : Nat) : Path :=
      let p := { c.path q with living := (c.path q).living &&& ~~~c.taken q, active := (c.path q).active &&& ~~~c.taken q }
      if p.active = 0 then ended p else { p with pc := p.pc + 4 }
     Goes .exit .exit (fun s c => calm s c ∧ stays c (fun q => (after c q).living ≠ 0))
      (fun s c u w => OnlyWarp s c u ∧ OtherQuads c w
        ∧ MovesQuads c { w with exited := c.warp.exited } ∧ w.exited = c.warp.exited ||| (c.lanes &&& ~~~c.warp.absent)
        ∧ ∀ q, q ∈ c.quads → (w.quad q).park = .running ∧ (w.quad q).path = after c q)
    ∧ Goes .exit .exit
      (fun s c => calm s c ∧ c.warp.hidden = false ∧ c.warp.trail = [] ∧ c.quads = c.warp.aliveQuads ∧ (∀ q, q ∈ c.quads → (after c q).living = 0) ∧ c.warp.dirty = []
        ∧ ∃ v, v ∈ s.warps ∧ v.uid ≠ c.warp.uid ∧ v.block = c.warp.block ∧ v.ended = false)
      (fun s c u w => OnlyWarp s c u ∧ w.ended = true ∧ w.aliveQuads = []))

/-- At `rgang` a quad whose top entry still has a living pending path takes that path; any other parks with its entry popped, and once every
counted quad of the warp has parked they go on, those with equal program counters as one gang, after `rgang.home` no longer packed (05 R107,
R113; 18 R394). -/
def Obligations.Regangs : Prop :=
  let calm (s : State) (c : Ctx) : Prop := c.warp.trapWait = none ∧ (s.coreOf c.warp.core).windows = [] ∧ c.warp.paired = false
  let pends (c : Ctx) (q : Nat) : Prop := ∃ top rest, (c.path q).stack = top :: rest ∧ top.kind = .pending ∧ top.pmask &&& (c.path q).living ≠ 0
  let popped (c : Ctx) (q : Nat) : Path :=
    match (c.path q).stack with
    | [] => { c.path q with pc := c.next }
    | top :: rest => { c.path q with pc := c.next, active := top.jmask &&& (c.path q).living, stack := rest }
  let runs (c : Ctx) (q : Nat) : Path :=
    match (c.path q).stack with
    | [] => c.path q
    | top :: rest =>
      { c.path q with
        pc := pcwPc top.pcw, active := top.pmask &&& (c.path q).living,
        stack := { top with kind := .joined, pmask := (c.path q).active, pcw := pcPcw (c.path q).pc } :: rest }
  ∀ e ∈ ([(.rgang, .rgang, .rgang), (.rgangHome, .rgangHome, .rgangHome)] : List ((Fields → Instr) × Op × Park)),
    Goes e.1 e.2.1
      (fun s c => calm s c ∧ ∃ q, q ∈ c.warp.counted ∧ (q ∈ c.quads → pends c q) ∧ (q ∉ c.quads → (c.warp.quad q).park = .running))
      (fun s c u w => OnlyWarp s c u ∧ OtherQuads c w ∧ SameRegs c w
        ∧ ∀ q, q ∈ c.quads →
          (pends c q → (w.quad q).park = .running ∧ (w.quad q).path = runs c q)
            ∧ (¬ pends c q → (w.quad q).park = e.2.2 ∧ (w.quad q).path = popped c q ∧ (w.quad q).before = some (c.path q)))
    ∧ Goes e.1 e.2.1
      (fun s c => calm s c ∧ c.warp.counted ≠ []
        ∧ ∀ q, q ∈ c.warp.counted → (q ∈ c.quads → ¬ pends c q) ∧ (q ∉ c.quads → (c.warp.quad q).park = e.2.2))
      (fun s c u w => OnlyWarp s c u ∧ SameRegs c w
        ∧ (∀ q, q ∈ c.warp.counted → (w.quad q).park = .running ∧ (w.quad q).before = none
            ∧ (w.quad q).path = (if q ∈ c.quads then popped c q else c.path q)
            ∧ (w.quad q).packed = (if e.2.1 = .rgangHome then false else (c.warp.quad q).packed))
        ∧ ∀ p q, p ∈ c.warp.counted → q ∈ c.warp.counted → ((w.quad p).gang = (w.quad q).gang ↔ (w.quad p).path.pc = (w.quad q).path.pc))

/-! ### Memory -/

/-- Loads and stores of block memory and of the die scratchpad, atomics, monitors, tile flags and mold accesses ask memory for what their lanes
name once every lane has passed its checks (19 Table 19-3, R401 to R405, R414, R416; 17 R363, R365, R367, R372, R373); it is performed later (07
R150). -/
def Obligations.Accesses : Prop :=
  let blk (s : State) (c : Ctx) : Block := s.blockAt c.warp.block
  let fits (s : State) (c : Ctx) (l : Nat) : Prop := (blk s c).holds (c.offset l) c.width = true ∧ c.offset l % c.width = 0
  let untagged (s : State) (c : Ctx) (l : Nat) : Prop :=
    ∀ k, k < ceilDiv c.width 4 → (blk s c).tagIn (layoutOf (c.offset l + 4 * k) c.layout) (min c.width 4) = none
  let win (s : State) (c : Ctx) : Nat × Nat := s.window c.warp.ctx (coreDie c.core)
  let inWindow (s : State) (c : Ctx) (l : Nat) : Prop :=
    (win s c).2 ≠ 0 ∧ c.offset l + c.width ≤ (win s c).2 ∧ c.offset l % c.width = 0
  let spadParts (s : State) (c : Ctx) (l data : Nat) : List Part :=
    c.partsAt (spadKey (coreDie c.core) (win s c).1) (c.offset l) data
  let every (m : LaneMask) (p : Nat → Prop) : Prop := ∀ l, l < 32 → m.getLsbD l = true → p l
  Asks .ldb .ldb (fun s c => every c.lanes (fits s c))
    (fun s c => (laneList c.lanes).map (fun l =>
      { c.accessOf l .blk none c.loadKind (c.partsAt (blk s c).key (c.offset l) 0) with acq := c.order }))
  ∧ Asks .stb .stb (fun s c => every c.real (fun l => fits s c l ∧ untagged s c l))
    (fun s c => (laneList c.real).map (fun l =>
      { c.accessOf l .blk none .store (c.partsAt (blk s c).key (c.offset l) (c.c l)) with rel := c.order }))
  ∧ Asks .ldd .ldd (fun s c => every c.lanes (inWindow s c))
    (fun s c => (laneList c.lanes).map (fun l => { c.accessOf l .spad none c.loadKind (spadParts s c l 0) with acq := c.order }))
  ∧ Asks .std .std (fun s c => every c.real (inWindow s c))
    (fun s c => (laneList c.real).map (fun l => { c.accessOf l .spad none .store (spadParts s c l (c.c l)) with rel := c.order }))
  ∧ (∀ e ∈ ([(.atom, .atom, true), (.red, .red, false)] : List ((Fields → Instr) × Op × Bool)),
      Asks e.1 e.2.1
        (fun s c => (∀ r ∈ (c.spots s (tyWidth c.ty / 8) .rw c.real).2, ∃ p, r.2 = .ok p)
          ∧ (c.warp.cast = true → c.scope = .blk ∧ c.ty ≠ 3 ∧ c.ty ≠ 15))
        (fun s c => (lanesOk (c.spots s (tyWidth c.ty / 8) .rw c.real).2).map (fun r =>
          { c.accessOf r.1 r.2.space r.2.remote
              (.atom (atomOpOf c.x.f.toNat) c.x.t (BitVec.ofNat 64 (c.b r.1)) (BitVec.ofNat 64 (if c.x.f = 7 then c.c r.1 else 0))
                (if e.2.2 then some c.x.d.toNat else none)) [r.2.part (tyWidth c.ty / 8)] with
            acq := if bitAt c.x.e 2 then some c.scope else none, rel := if bitAt c.x.e 3 then some c.scope else none })))
  ∧ Asks .mon .mon (fun s c => ∀ r ∈ (c.spots s (tyWidth c.ty / 8) .r c.lanes).2, ∃ p, r.2 = .ok p)
    (fun s c => (lanesOk (c.spots s (tyWidth c.ty / 8) .r c.lanes).2).map (fun r =>
      { c.accessOf r.1 r.2.space r.2.remote (.mon c.x.d.toNat) [r.2.part (tyWidth c.ty / 8)] with
        acq := if bitAt c.x.f 0 then some c.scope else none }))
  ∧ Asks .tflag .tflag (fun s c => ∀ r ∈ (checkLanes (tflagLane c) s (laneList c.real)).2, ∃ p, r.2 = .ok p)
    (fun s c => (lanesOk (checkLanes (tflagLane c) s (laneList c.real)).2).map (fun r =>
      { c.accessOf r.1 .dev r.2.2.1 .tileFlag
          [{ addr := r.2.1, bytes := 8, data := BitVec.ofNat 64 (c.b r.1), name := c.a r.1, laid := 0 }] with tile := r.2.2.2 }))
  ∧ (let lines (c : Ctx) : Nat := 128 * (bitField c.x.e 11 5 + 1)
     let whole (s : State) (c : Ctx) (o n align : Nat) : Prop :=
      c.any = true ∧ (blk s c).holds o n = true ∧ c.moldOffset % align = 0
     let free (s : State) (c : Ctx) (o n lay : Nat) : Prop := ∀ p ∈ unitParts (blk s c) o n lay, (blk s c).tagIn p.name 16 = none
     let held (s : State) (c : Ctx) : Prop := c.bankOperand ≤ 63 ∧ ((blk s c).banksOn c.core).getLsbD c.bankOperand = true
     let range (c : Ctx) : Nat × Nat := imageRange (bitField c.x.e 0 2)
     Asks .mload .mload (fun s c => whole s c c.moldOffset (lines c) 128 ∧ held s c)
      (fun s c => c.moldAsks c.bankOperand (unitParts (blk s c) c.moldOffset (lines c) (bitField c.x.e 9 2)))
    ∧ Asks .mstore .mstore
      (fun s c => whole s c c.moldOffset (lines c) 128 ∧ free s c c.moldOffset (lines c) (bitField c.x.e 9 2) ∧ held s c)
      (fun s c => c.moldAsks c.bankOperand (unitParts (blk s c) c.moldOffset (lines c) (bitField c.x.e 9 2)))
    ∧ Asks .mbind .mbind (fun s c => whole s c c.moldOffset 32 32)
      (fun s c => c.moldAsks (if bitAt c.x.e 8 then c.bankOperand else 0) (unitParts (blk s c) c.moldOffset 32 0))
    ∧ Asks .msave .msave
      (fun s c => whole s c (c.moldOffset + (range c).1) (range c).2 64 ∧ free s c (c.moldOffset + (range c).1) (range c).2 0)
      (fun s c => c.moldAsks 0 (unitParts (blk s c) (c.moldOffset + (range c).1) (range c).2 0))
    ∧ Asks .mrest .mrest (fun s c => whole s c (c.moldOffset + (range c).1) (range c).2 64)
      (fun s c => c.moldAsks 0 (unitParts (blk s c) (c.moldOffset + (range c).1) (range c).2 0))
    ∧ ∀ bits, Asks .mbmap .mbmap
      (fun s c => ∃ b, c.warp.slotOf (c.x.d.toNat % 8) = some b ∧ b.record.sparse = true ∧ bitAt c.x.e 0 = false ∧ b.record.rows = bits
        ∧ whole s c c.moldOffset (bits / 8) 32)
      (fun s c => c.moldAsks 0 [{ addr := (blk s c).key c.moldOffset, bytes := bits / 8, data := 0, name := c.moldOffset, laid := 0 }]))

/-- `ldk` and `stk` act at issue on the stack cache of the warp (06 R127; 19 R402, R403): a load of cached lines that the warp has written gives
their words, a store changes the bytes that its lanes name and no other, and no memory changes but by a write-back; where lanes of one store overlap, the last
writes in cast mode (07 R152, R170). A line that is missed in a cache with room is first filled from the warp's region of device memory. -/
def Obligations.StackAccesses : Prop :=
  let at' (c : Ctx) (l k : Nat) : Nat := layoutOf (c.offset l + 4 * k) c.layout
  let bytes (c : Ctx) : Nat := min c.width 4
  let fits (s : State) (c : Ctx) (l : Nat) : Prop := c.offset l + c.width ≤ (s.stackOf c.warp).2 ∧ c.offset l % c.width = 0
  let every (m : LaneMask) (p : Nat → Prop) : Prop := ∀ l, l < 32 → m.getLsbD l = true → p l
  (∀ x s t c, Reaches .ldk x s t c → (c.warp.paired = true → c.warp.queueFull = false) → c.warp.spec = none → c.warp.badLines = [] →
    every c.lanes (fun l => fits s c l ∧ c.offset l / 128 ∈ c.warp.lines ∧ ∀ k, k < c.words → at' c l k / 128 ∈ c.warp.dirty) →
    ∃ u w, exec (.ldk x) s = .next u ∧ u.warpOf c.warp.uid = some w ∧ OnlyWarp s c u ∧ Advanced c w ∧ KeepsRegs c w.regs
      ∧ w.cache = c.warp.cache ∧ w.lines = c.warp.lines ∧ w.dirty = c.warp.dirty ∧ w.pending = c.warp.pending ∧ w.wstat = c.warp.wstat
      ∧ (NoneOwed c → every c.lanes (fun l => ∀ k, k < c.words → c.x.d.toNat + c.words ≤ 255 →
          (w.regs.vec (c.x.d.toNat + k) l).toNat =
            let v := c.warp.cache.read (at' c l k) (bytes c)
            if c.sub = true ∧ tySigned c.ty = true then wrap 32 (signed (8 * bytes c) v) else v)))
  ∧ (∀ x s t c, Reaches .stk x s t c → c.warp.spec = none → c.warp.paired = false →
    every c.real (fun l => fits s c l ∧ c.offset l / 128 ∈ c.warp.lines) →
    ∃ u w, exec (.stk x) s = .next u ∧ u.warpOf c.warp.uid = some w ∧ OnlyWarp s c u ∧ Advanced c w ∧ SameRegs c w
      ∧ w.lines = c.warp.lines ∧ w.pending = c.warp.pending ∧ (∀ n, n ∈ c.warp.dirty → n ∈ w.dirty)
      ∧ every c.real (fun l => ∀ k, k < c.words → at' c l k / 128 ∈ w.dirty
          ∧ ((∀ j, j < 32 → j ≠ l → c.real.getLsbD j = true → (c.warp.cast = true → l < j) → c.offset j + c.width ≤ c.offset l ∨ c.offset l + c.width ≤ c.offset j) →
            w.cache.read (at' c l k) (bytes c) = c.c l / 2 ^ (32 * k) % 2 ^ (8 * bytes c)))
      ∧ ∀ a, every c.real (fun l => ∀ k, k < c.words → a < at' c l k ∨ at' c l k + bytes c ≤ a) → w.cache.byte a = c.warp.cache.byte a)
  ∧ ∀ (s s' : State) uid (w : Warp) line o key keep, s.warpOf uid = some w → w.uid = uid → w.hidden = false → line ∉ w.lines →
    ((s.residents w.core).flatMap (fun v => v.lines)).length < 512 → s.translate w.core w.ctx ((s.stackOf w).1 + 128 * line) .rw = (s', .ok key) → s'.rangeBad key 128 = false →
    ∃ u v, s.stackLine uid line o keep = (u, none) ∧ u.warpOf uid = some v ∧ SameMemory s u ∧ v.lines = w.lines ++ [line]
      ∧ (∀ i, i < 128 → v.cache.byte (128 * line + i) = s.dev.byte (key + i))
      ∧ ∀ a, a < 128 * line ∨ 128 * line + 128 ≤ a → v.cache.byte a = w.cache.byte a

/-- An access that is performed acts on memory (07 R150; 19 R402 to R405): a store of one word writes its bytes and no other byte of any memory
changes; a load reads its bytes, and its value stands in its register once the instruction has nothing else outstanding; an atomic does both.
A bank group that it touches is whole. -/
def Obligations.AccessesPerformed : Prop :=
  let at' (s : State) (uid i : Nat) (w : Warp) (a : Access) (p : Part) : Prop :=
    s.warpOf uid = some w ∧ w.pending[i]? = some a ∧ s.mayAct w a = true ∧ a.remote = none ∧ a.parts = [p] ∧ p.bytes ≤ 8
      ∧ a.space ≠ .stack ∧ Sound s ∧ Busy s w ∧ (a.space = .dev → s.rangeBad p.addr p.bytes = false) ∧ (∀ t ∈ w.late, t.1 ≠ a.seq)
  let last (s : State) (w : Warp) (i : Nat) (a : Access) : Prop :=
    (∀ j b, w.pending[j]? = some b → b.seq = a.seq → j = i) ∧ ∀ o ∈ s.channels, o.warp = w.uid → o.access.seq ≠ a.seq
  let scored (w : Warp) (a : Access) (e : Scored) : Prop := w.scored.filter (fun e => e.seq == a.seq) = [e] ∧ e.vals = [] ∧ e.early = []
  (∀ s uid i w a p, at' s uid i w a p → a.kind = .store → ∃ u, exec (.accessPerform uid i) s = .next u
    ∧ (u.mem a.space).read p.addr p.bytes = p.data.toNat % 2 ^ (8 * p.bytes) ∧ OnlyBytes s u a.space p.addr p.bytes)
  ∧ (∀ s uid i w a p d sg e, at' s uid i w a p → a.kind = .load [d] sg → p.laid = 0 → 0 < p.bytes → p.bytes ≤ 4 → last s w i a → scored w a e →
    d < 255 → a.lane < 32 → ∃ u v, exec (.accessPerform uid i) s = .next u ∧ u.warpOf uid = some v ∧ SameMemory s u
      ∧ (v.regs.vec d a.lane).toNat =
          (let n := (s.mem a.space).read p.addr p.bytes
           if sg then wrap 32 (signed (8 * p.bytes) n) else n)
      ∧ ∀ k n l, l < 32 → (k ≠ RegKind.vec ∨ n ≠ d ∨ l ≠ a.lane) → v.regs.read k n l = w.regs.read k n l)
  ∧ ∀ s uid i w a p op ty b c d e, at' s uid i w a p → a.kind = .atom op ty b c (some d) → (p.bytes = 4 ∨ p.bytes = 8) → last s w i a →
    scored w a e → d + p.bytes / 4 ≤ 255 → a.lane < 32 → ∃ u v, exec (.accessPerform uid i) s = .next u ∧ u.warpOf uid = some v
      ∧ OnlyBytes s u a.space p.addr p.bytes
      ∧ (let old := (s.mem a.space).read p.addr p.bytes
         (u.mem a.space).read p.addr p.bytes = atomResult op ty.toNat old b.toNat c.toNat % 2 ^ (8 * p.bytes)
          ∧ v.regs.vecs d a.lane (p.bytes / 4) = old)

/-- A fence is complete at issue when nothing of its scope that it comes after is pending, and otherwise waits among what the warp has issued;
`fence.tick` holds its gang until a heartbeat edge; `rfence` drops the shape records of its core once the warp's stores and atomics are
complete; `wait` parks its gang at the words that its lanes name (07 R151, R156; 19 R407, R408, R415). No memory and no register changes. -/
def Obligations.FencesAndWaits : Prop :=
  (∀ e ∈ ([(.fenceBlk, .fenceBlk, .blk), (.fenceClu, .fenceClu, .clu), (.fenceDev, .fenceDev, .dev), (.fenceSys, .fenceSys, .sys)] :
        List ((Fields → Instr) × Op × Scope)),
    Goes e.1 e.2.1 (fun s c => c.any = true ∧ (∀ a ∈ c.warp.pending, a.seq < s.uids) ∧ ∀ x ∈ c.warp.waits, x.seq < s.uids)
      (fun s c u w => OnlyWarp s c u ∧ Advanced c w ∧ SameRegs c w ∧ w.pending.filter Access.real = c.warp.pending.filter Access.real
        ∧ MovesQuads c { w with pending := c.warp.pending }
        ∧ ((∃ a, a ∈ w.pending ∧ a.seq = s.uids ∧ a.kind = .fence e.2.2) ↔
            (∃ a, a ∈ c.warp.pending ∧ a.real = true ∧ a.within e.2.2 = true) ∨ ∃ x, x ∈ c.warp.waits ∧ x.within e.2.2 = true)))
  ∧ Goes .fenceTick .fenceTick (fun _ c => c.any = true ∧ c.warp.tick = none)
    (fun s c u w => OnlyWarp s c u ∧ SameRegs c w ∧ AdvancedTo c w (fun _ => .fenceTick)
      ∧ (∃ f, w.tick = some f ∧ f.quads = quadSet c.quads ∧ f.seq = s.uids ∧ f.edge = none) ∧ MovesQuads c { w with tick := none })
  ∧ Goes .rfence .rfence
    (fun s c => c.any = true ∧ (∀ a ∈ c.warp.pending, a.kind.writes = false)
      ∧ ∀ o ∈ s.channels, o.warp = c.warp.uid → o.access.kind.writes = false)
    (fun s c u w => u = { s with warps := u.warps, fresh := u.fresh, uids := u.uids, cores := u.cores } ∧ OtherWarps s u c.warp.uid ∧ SameRegs c w
      ∧ Advanced c w ∧ MovesQuads c w ∧ (u.coreOf c.core).shapes = [])
  ∧ ∀ x s t c, Reaches .wait x s t c → c.real ≠ 0 → (c.warp.paired = true → c.warp.queueFull = false) → (∀ r ∈ (c.spots t (tyWidth c.ty / 8) .r c.real).2, ∃ p, r.2 = .ok p) →
    ∃ u w k, exec (.wait x) s = .next u ∧ u.warpOf c.warp.uid = some w ∧ SameMemory s u ∧ OtherWarps s u c.warp.uid ∧ SameRegs c w
      ∧ (∀ q, q ∈ c.quads → (w.quad q).park = .waiting ∧ (w.quad q).path = c.path q) ∧ OtherQuads c w ∧ w.pending = c.warp.pending
      ∧ w.waits = c.warp.waits ++ [
        { seq := k, early := earlyLanes c.warp c.quads (writeRegs c.op c.x c.form), pc := c.pc, len := c.len, quads := quadSet c.quads, wide := decide (tyWidth c.ty = 64), ne := bitAt c.x.e 2,
          acq := if bitAt c.x.f 0 then some c.scope else none, ext := bitAt c.x.f 1, dst := c.x.d.toNat,
          timeout := bitField c.x.e 3 12, since := s.hb,
          lanes := (lanesOk (c.spots t (tyWidth c.ty / 8) .r c.real).2).map (fun r =>
            { lane := r.1, space := r.2.space, name := r.2.name, addr := r.2.key, remote := r.2.remote,
              operand := BitVec.ofNat 64 (c.b r.1), result := none, stirred := true }) }]

/-- A `bar` is performed once every counted quad of the warp has parked at it and nothing pending is ordered before it (19 R409 to R413; 07 R151, R155): one
update of the barrier word, whose phase completes with the last arrival and no debt. `bar.sync` parks the warp until the generation changes,
`bar.sync.spec` goes on speculating, and the others go on. No other byte of any memory changes. -/
def Obligations.BlockBarriers : Prop :=
  let word (s : State) (b : Block) (o : Nat) : Nat := s.bmem.read (b.key o) 8
  let gen (v : Nat) : Nat := v / 2 ^ 48
  let quota (v : Nat) : Nat := v / 2 ^ 38 % 2 ^ 10
  let arrived (v : Nat) : Nat := v / 2 ^ 28 % 2 ^ 10
  let debt (v : Nat) : Nat := v % 2 ^ 28
  let ends (v : Nat) : Bool := decide (arrived v + 1 = quota v ∧ debt v = 0)
  let counted (v : Nat) : Nat := if ends v then (gen v + 1) % 2 ^ 16 * 2 ^ 48 + quota v * 2 ^ 38 else v + 2 ^ 28
  let at' (s : State) (c : Ctx) (b : Block) (l o n : Nat) : Prop :=
    c.quads = c.warp.counted ∧ (∀ q, q ∈ c.quads → (c.path q).pc = c.pc) ∧ c.real.getLsbD l = true ∧ l < 32 ∧ (∀ k, k < l → c.real.getLsbD k = false)
      ∧ barOperands c.x c.warp.regs l = (o, n) ∧ s.blockOf c.warp.block = some b ∧ b.holds o 8 = true ∧ o % 8 = 0
      ∧ (∀ n, s.uids ≤ n → s.mayPerform c.warp (c.warp.barAccess b c.quads c.op c.x n) = true) ∧ c.warp.spec = none ∧ c.warp.paired = false
      ∧ c.warp.hidden = false ∧ c.warp.trapWait = none ∧ c.warp.barrier = none ∧ (s.coreOf c.warp.core).windows = [] ∧ Sound s
  let after (s : State) (b : Block) (o v : Nat) (u : State) : Prop := word u b o = v ∧ OnlyBytes s u .blk (b.key o) 8
  let goes (c : Ctx) (w : Warp) : Prop := (∀ q, q ∈ c.quads → (w.quad q).park = .running) ∧ w.barrier = none
  let steps (c : Ctx) (w : Warp) : Prop :=
    (∀ q, q ∈ c.quads → (w.quad q).path = { c.path q with pc := (c.path q).pc + BitVec.ofNat 55 c.len }) ∧ OtherQuads c w
  let waits (c : Ctx) (w : Warp) (o g : Nat) : Prop :=
    (∀ q, q ∈ c.quads → (w.quad q).park = .barrier) ∧ w.barrier = some { word := o, gen := BitVec.ofNat 16 g }
  (∀ b l o n, Goes .barInit .barInit
    (fun s c => at' s c b l o n ∧ n ≤ 1023 ∧ (b.tagged o = true →
      arrived (word s b o) = 0 ∧ debt (word s b o) = 0 ∧ ∀ v ∈ s.warps, v.block = c.warp.block → ∀ p, v.barrier = some p → p.word ≠ o))
    (fun s c u w => after s b o (n * 2 ^ 38) u ∧ goes c w ∧ steps c w ∧ SameRegs c w ∧ (u.blockAt c.warp.block).tagged o = decide (n ≠ 0)))
  ∧ (∀ b l o n, Goes .barArrive .barArrive
    (fun s c => at' s c b l o n ∧ b.tagged o = true ∧ arrived (word s b o) < quota (word s b o))
    (fun s c u w => after s b o (counted (word s b o)) u ∧ goes c w ∧ steps c w ∧ KeepsRegs c w.regs
      ∧ (NoneOwed c → (w.regs.uni c.x.d.toNat).toNat = gen (word s b o))))
  ∧ (∀ b l o n, Goes .barSync .barSync
    (fun s c => at' s c b l o n ∧ b.tagged o = true ∧ arrived (word s b o) < quota (word s b o))
    (fun s c u w => after s b o (counted (word s b o)) u ∧ steps c w ∧ SameRegs c w
      ∧ (ends (word s b o) = true → goes c w) ∧ (ends (word s b o) = false → waits c w o (gen (word s b o)))))
  ∧ (∀ b l o n, Goes .barSyncSpec .barSyncSpec
    (fun s c => at' s c b l o n ∧ b.tagged o = true ∧ arrived (word s b o) < quota (word s b o))
    (fun s c u w => after s b o (counted (word s b o)) u ∧ goes c w ∧ steps c w ∧ SameRegs c w
      ∧ (ends (word s b o) = true → w.spec = none)
      ∧ (ends (word s b o) = false → ∃ x, w.spec = some x ∧ x.word = o ∧ x.gen.toNat = gen (word s b o) ∧ x.buffer = [] ∧ x.reads = []
          ∧ x.wstat = c.warp.wstat)))
  ∧ (∀ b l o n, Goes .barWait .barWait (fun s c => at' s c b l o n ∧ b.tagged o = true)
    (fun s c u w => SameMemory s u ∧ steps c w ∧ SameRegs c w ∧ (gen (word s b o) ≠ n % 2 ^ 16 → goes c w)
      ∧ (gen (word s b o) = n % 2 ^ 16 → waits c w o (n % 2 ^ 16))))
  ∧ ∀ b l o n, Goes .barDebt .barDebt
    (fun s c => at' s c b l o n ∧ b.tagged o = true ∧ debt (word s b o) + n < 2 ^ 27 ∧ 0 < n)
    (fun s c u w => after s b o (word s b o + n) u ∧ goes c w ∧ steps c w ∧ SameRegs c w)

/-- `malloc` queues for banks and parks its warp, and the grant gives it the lowest free ones, zeroed; a request for none is granted at once.
`mfree` gives banks back, `mfill` writes one word of a line in each lane, `munbind` empties a slot, and `mbmap.all` lets every row of a binding
take part (10 R221; 17 R361, R362, R364, R365, R368). -/
def Obligations.MoldBanks : Prop :=
  let quiet (c : Ctx) : Prop := c.any = true ∧ c.warp.paired = false
  Goes .malloc .malloc (fun _ c => quiet c ∧ c.b 0 = 0)
    (fun s c u w => OnlyWarp s c u ∧ Advanced c w ∧ KeepsRegs c w.regs ∧ (NoneOwed c → w.regs.unis c.x.d.toNat 2 = 0))
  ∧ Goes .malloc .malloc (fun _ c => quiet c ∧ 0 < c.b 0 ∧ c.b 0 ≤ 64 ∧ (bitAt c.x.e 0 = true → c.b 0 % 2 = 0))
    (fun s c u w => SameMemory s u ∧ OtherWarps s u c.warp.uid ∧ SameRegs c w ∧ AdvancedTo c w (fun _ => .malloc)
      ∧ (u.coreOf c.core).mallocs = (s.coreOf c.core).mallocs
          ++ [{ warp := c.warp.uid, n := c.b 0, pair := bitAt c.x.e 0, dst := c.x.d.toNat, pc := c.pc }])
  ∧ (∀ (s : State) core r rest (w : Warp) b, (s.coreOf core).mallocs = r :: rest → r.pair = false → s.warpOf r.warp = some w →
      s.blockOf w.block = some b → b.uid = w.block → (∃ i, b.cores.findIdx? (fun c => c == core) = some i ∧ i < b.banks.length) →
      w.core = core → w.aliveQuads ≠ [] → w.ended = false → w.trapWait = none → (s.coreOf core).windows = [] → w.barrier = none →
      (∃ q, q ∈ w.counted ∧ ((w.quad q).park = .malloc ∨ (w.quad q).park = .running)) →
      r.n ≤ (bankNumbers (s.freeBanks core)).length → ∃ u v m, exec (.mallocGrant core) s = .next u ∧ u.warpOf r.warp = some v
        ∧ (u.coreOf core).mallocs = rest ∧ bankNumbers m = (bankNumbers (s.freeBanks core)).take r.n
        ∧ ((u.blockAt w.block).banksOn core) = b.banksOn core ||| m
        ∧ (owedOn w w.aliveQuads [(.uni, r.dst), (.uni, r.dst + 1)] = [] → v.regs.unis r.dst 2 = m.toNat)
        ∧ (∀ k, k < 64 → m.getLsbD k = true → ∀ i, i < 4096 → u.banks.byte (bankBase core k + i) = 0)
        ∧ (∀ a, (∀ k, k < 64 → m.getLsbD k = true → a < bankBase core k ∨ bankBase core k + 4096 ≤ a) → u.banks.byte a = s.banks.byte a)
        ∧ ∀ q, (w.quad q).park = .malloc → (v.quad q).park = .running)
  ∧ Goes .mfree .mfree
    (fun s c => quiet c ∧ (∀ k, k < 64 → (c.a 0).testBit k = true → ((s.blockAt c.warp.block).banksOn c.core).getLsbD k = true)
      ∧ (∀ v ∈ s.warps ++ s.shadows, v.block = c.warp.block → v.core = c.core → v.ended = false → v.usesBanks (BitVec.ofNat 64 (c.a 0)) = false)
      ∧ ∃ b, s.blockOf c.warp.block = some b ∧ ∃ i, b.cores.findIdx? (fun k => k == c.core) = some i ∧ i < b.banks.length)
    (fun s c u w => SameMemory s u ∧ SameRegs c w ∧ Advanced c w
      ∧ ∀ k, k < 64 → ((u.blockAt c.warp.block).banksOn c.core).getLsbD k
          = (((s.blockAt c.warp.block).banksOn c.core).getLsbD k && !(c.a 0).testBit k))
  ∧ Goes .mfill .mfill
    (fun s c => c.warp.paired = false ∧ c.bankOperand ≤ 63
      ∧ ((s.blockAt c.warp.block).banksOn c.core).getLsbD c.bankOperand = true)
    (fun s c u w => OtherWarps s u c.warp.uid ∧ SameRegs c w ∧ Advanced c w ∧ u.dev = s.dev ∧ u.bmem = s.bmem ∧ u.spad = s.spad
      ∧ (let at' (l : Nat) : Nat := bankBase c.core c.bankOperand + 128 * bitField c.x.e 8 5 + 4 * l
         (∀ l, l < 32 → c.real.getLsbD l = true → u.banks.read (at' l) 4 = c.a l % 2 ^ 32)
          ∧ ∀ a, (∀ l, l < 32 → c.real.getLsbD l = true → a < at' l ∨ at' l + 4 ≤ a) → u.banks.byte a = s.banks.byte a))
  ∧ Goes .munbind .munbind (fun _ c => c.any = true ∧ 0 < c.x.d.toNat % 8 ∧ c.x.d.toNat % 8 ≤ c.warp.slots.length)
    (fun s c u w => OnlyWarp s c u ∧ SameRegs c w ∧ Advanced c w ∧ w.slotOf (c.x.d.toNat % 8) = none
      ∧ ∀ k, k ≠ c.x.d.toNat % 8 → 0 < k → w.slotOf k = c.warp.slotOf k)
  ∧ ∀ bd, Goes .mbmap .mbmap
    (fun _ c => c.any = true ∧ 0 < c.x.d.toNat % 8 ∧ c.warp.slotOf (c.x.d.toNat % 8) = some bd ∧ bd.record.sparse = true ∧ bitAt c.x.e 0 = true)
    (fun s c u w => OnlyWarp s c u ∧ SameRegs c w ∧ Advanced c w
      ∧ w.slotOf (c.x.d.toNat % 8) = some { bd with record := { bd.record with rowmap := 1 }, rows := ~~~0 }
      ∧ ∀ k, k ≠ c.x.d.toNat % 8 → 0 < k → w.slotOf k = c.warp.slotOf k)

/-! ### Engines and queues -/

/-- A copy instruction whose block and records are in order puts its command at the end of its sprue and goes on (08 R174, R175; 20 R423, R424).
A `cpc` stays open until every living warp of its block has given a slice, and then enters, the last waiting for room (08 R172, R180). `qfence` puts an entry in every sprue that
it names; `qwait` parks while an earlier command of its warp is in one; its forms replay and discard the warp's faulted heads (08 R185; 20 R425,
R426). -/
def Obligations.Copies : Prop :=
  let ready (s t s' : State) (c : Ctx) (kind : CopyKind) (pb src dst : List Byte) (extra : Nat) : Prop :=
    Plain s c ∧ (s.coreOf c.core).sprues.length = 8
      ∧ (∀ f, s.ownFault c.core c.sprueField c.warp.uid = some f → f.told = true)
      ∧ t.readCopy c kind = (s', .ok (pb, src, dst)) ∧ s'.copyCheck c.warp.ctx c.sprueField (c.ask kind pb src dst extra) = none
  let command (s : State) (c : Ctx) (k : Nat) (kind : CopyKind) (pb src dst : List Byte) : Command :=
    Command.make k c.warp (s.blockAt c.warp.block) (Routes.ofBlock pb) ((c.ask kind pb src dst 0).work pb)
  let given (o : OpenCpc) (v : Warp) : Prop := ∃ g, g ∈ o.given ∧ g.1 = v.uid
  let living (s : State) (c : Ctx) (v : Warp) : Prop := v ∈ s.warps ∧ v.block = c.warp.block ∧ v.aliveQuads ≠ []
  let frame (s : State) (c : Ctx) (u : State) (w : Warp) : Prop := SameMemory s u ∧ OtherWarps s u c.warp.uid ∧ SameRegs c w ∧ Engine c w
  (∀ e ∈ ([(.cp, .cp, fun _ => .cp), (.cpg, .cpg, fun _ => .cpg), (.cps, .cps, fun _ => .cps), (.cpt, .cpt, fun x => .cpt (x.f == 1)),
           (.cpv, .cpv, fun x => .cpv (x.f == 1))] : List ((Fields → Instr) × Op × (Fields → CopyKind))),
    ∀ x s t c s' pb src dst, Reaches e.2.1 x s t c → ready s t s' c (e.2.2 x) pb src dst 0 → (s.sprue c.core c.sprueField).length < 16 →
    ∃ u w k, exec (e.1 x) s = .next u ∧ u.warpOf c.warp.uid = some w ∧ frame s c u w
      ∧ Joins s u c.core c.sprueField [command s c k (e.2.2 x) pb src dst])
  ∧ (∀ x s t c s' pb src dst, Reaches .cpc x s t c → ready s t s' c .cpc pb src dst 0 → s.cpcs = [] →
    (s.sprue c.core c.sprueField).length < 16 ∨ (∃ v, living s c v ∧ v.uid ≠ c.warp.uid) →
    ∃ u w k, exec (.cpc x) s = .next u ∧ u.warpOf c.warp.uid = some w ∧ frame s c u w
      ∧ ((∃ v, living s c v ∧ v.uid ≠ c.warp.uid) → Joins s u c.core c.sprueField [] ∧ u.cpcs =
          [{ core := c.core, named := (c.a 0, c.b 0), sprue := c.sprueField, cmd := command s c k .cpc pb src dst, given := [(c.warp.uid, c.pc, quadSet c.quads)] }])
      ∧ ((∀ v, living s c v → v.uid = c.warp.uid) →
          u.cpcs = [] ∧ Joins s u c.core c.sprueField [command s c k .cpc pb src dst]))
  ∧ (∀ x s t c s' pb src dst o, Reaches .cpc x s t c → s.cpcs = [o] → o.cmd.block = c.warp.block → ¬ given o c.warp → o.sprue = c.sprueField →
    o.core = c.core → o.named = (c.a 0, c.b 0) → ready s t s' c .cpc pb src dst o.bytes →
    (s.sprue c.core c.sprueField).length < 16 ∨ (∃ v, living s c v ∧ v.uid ≠ c.warp.uid ∧ ¬ given o v) →
    ∃ u w k, exec (.cpc x) s = .next u ∧ u.warpOf c.warp.uid = some w ∧ frame s c u w
      ∧ ((∃ v, living s c v ∧ v.uid ≠ c.warp.uid ∧ ¬ given o v) →
          Joins s u c.core c.sprueField [] ∧ u.cpcs = [o.add c.warp.uid k c.pc (quadSet c.quads) (originOf pb)])
      ∧ ((∀ v, living s c v → v.uid ≠ c.warp.uid → given o v) →
          u.cpcs = [] ∧ Joins s u c.core c.sprueField [(o.add c.warp.uid k c.pc (quadSet c.quads) (originOf pb)).cmd]))
  ∧ Goes .qfence .qfence
    (fun s c => Plain s c ∧ (s.coreOf c.core).sprues.length = 8 ∧ ∀ q, q ∈ c.maskSprues → (s.sprue c.core q).length < 16)
    (fun s c u w => frame s c u w ∧ (∀ k q, (k ≠ c.core ∨ q ∉ c.maskSprues) → u.sprue k q = s.sprue k q)
      ∧ ∃ mark, ∀ q, q ∈ c.maskSprues → ∃ k,
          u.sprue c.core q = s.sprue c.core q ++ [Command.make k c.warp (s.blockAt c.warp.block) Routes.none (.qfence mark)])
  ∧ Goes .qwait .qwait
    (fun s c => Plain s c ∧ ∀ q, q ∈ c.maskSprues → s.ownFault c.core q c.warp.uid = none)
    (fun s c u w => OnlyAsker s c u ∧ SameRegs c w ∧ OtherQuads c w
      ∧ (let waits : Prop := ∃ q x, q ∈ c.maskSprues ∧ x ∈ s.sprue c.core q ∧ x.warp = c.warp.uid ∧ x.uid < s.uids ∧ ∀ m, x.work ≠ .qfence m
         (¬ waits → Engine c w)
          ∧ (waits → ∀ q, q ∈ c.quads → (w.quad q).park = .qwait (quadSet c.maskSprues) s.uids ∧ (w.quad q).path = c.path q)))
  ∧ Goes .qwaitReplay .qwaitReplay (fun s c => Plain s c ∧ (s.coreOf c.core).sprues.length = 8)
    (fun s c u w => frame s c u w
      ∧ (∀ k q, (k ≠ c.core ∨ q ∉ c.maskSprues ∨ s.ownFault c.core q c.warp.uid = none) → u.sprue k q = s.sprue k q)
      ∧ ∀ q h rest, q ∈ c.maskSprues → s.ownFault c.core q c.warp.uid ≠ none → s.sprue c.core q = h :: rest →
          u.sprue c.core q = { h with fault := none, met := none, done := false, begun := false } :: rest)
  ∧ Goes .qwaitDiscard .qwaitDiscard
    (fun s c => Plain s c ∧ (s.coreOf c.core).sprues.length = 8 ∧ (∀ q, q ∈ c.quads → (c.warp.quad q).park = .running)
      ∧ (s.events.filter (fun e => e.1 == coreDie c.core)).length + c.maskSprues.length ≤ 4096)
    (fun s c u w => SameMemory s u ∧ SameRegs c w
      ∧ (∀ q, q ∈ c.quads → (w.quad q).park = .running
          ∧ (w.quad q).path = { c.path q with pc := (c.path q).pc + BitVec.ofNat 55 c.len })
      ∧ (∀ k q, (k ≠ c.core ∨ q ∉ c.maskSprues ∨ s.ownFault c.core q c.warp.uid = none) → u.sprue k q = s.sprue k q)
      ∧ (∀ q h rest, q ∈ c.maskSprues → s.ownFault c.core q c.warp.uid ≠ none → s.sprue c.core q = h :: rest →
          u.sprue c.core q = rest
            ∧ (h.routes.record = true → (coreDie c.core, s.cmdRecord c.core q h) ∈ u.events))
      ∧ ∀ x, x ∈ u.heldWrites ↔ x ∈ s.heldWrites ∧ ∀ p g r, p ∈ c.maskSprues → s.ownFault c.core p c.warp.uid ≠ none →
          s.sprue c.core p = g :: r → x.cmd ≠ g.uid)

/-- `mnopen` opens a job on a record in order and clears its ladle fields; `mnpush` enters what its lanes bring, in ascending lane order, and
`mnfeed` puts a feed in a sprue; `mndrain` begins the drain once, `mnisect` waits for it and reads COUNT, and `mnstat` reads the job's state;
`mnresume` takes a stopped job up again, and `mnclose` frees it (08 R188 to R197; 20 R427 to R431; 24 R456 to R458). The ladle writes STATUS and
its other fields back to the record after the instruction (08 R471). -/
def Obligations.LadleInstructions : Prop :=
  let named (s : State) (c : Ctx) (j : Job) : Prop := Plain s c ∧ s.jobNamed c.warp.ctx (c.a 0) = some j ∧ s.jobOf j.uid = some j
  let still (s : State) (c : Ctx) (u : State) (w : Warp) : Prop := SameMemory s u ∧ OtherWarps s u c.warp.uid ∧ Engine c w
  let awaited (s : State) (p : Park) : Prop := ∃ v q, v ∈ s.warps ∧ q ∈ v.quads ∧ q.park = p
  let pair (c : Ctx) (w : Warp) (v : Nat) : Prop := NoneOwed c → w.regs.unis c.x.d.toNat 2 = v % 2 ^ 64
  let waits (c : Ctx) (w : Warp) : Prop := w.retired = c.warp.retired ∧ ∀ q, q ∈ c.quads → (w.quad q).path = c.path q
  let others (s u : State) (j : Job) : Prop := ∀ o, o.uid ≠ j.uid → (o ∈ u.jobs ↔ o ∈ s.jobs)
  let status (j : Job) (st : Nat) : Job := { j with status := st, writes := j.writes ++ [.field 60 4 st] }
  let run (j : Job) : List Byte := (sortEntries j.entries).flatMap LadleEntry.bytes
  (∀ x s t c s' routes l, Reaches .mnopen x s t c → Plain s c → t.readOpen c = (s', .ok (routes, l)) → jobBad l = false →
    s.jobNamed c.warp.ctx (c.a 0) = none → (s.jobs.filter (fun j => j.cluster == coreCluster c.core)).length < 16 →
    ∃ u w k, exec (.mnopen x) s = .next u ∧ u.warpOf c.warp.uid = some w ∧ still s c u w ∧ SameRegs c w
      ∧ s.uids ≤ k ∧ u.jobs = s.jobs ++ [Job.ofBytes k (c.a 0) c.warp (s.blockAt c.warp.block) routes l])
  ∧ (∀ x s t c s' routes l, Reaches .mnopen x s t c → Plain s c → t.readOpen c = (s', .ok (routes, l)) → jobBad l = false →
    s.jobNamed c.warp.ctx (c.a 0) = none → 16 ≤ (s.jobs.filter (fun j => j.cluster == coreCluster c.core)).length →
    ∃ u w, exec (.mnopen x) s = .next u ∧ u.warpOf c.warp.uid = some w ∧ SameMemory s u ∧ OtherWarps s u c.warp.uid ∧ u.jobs = s.jobs
      ∧ ∀ q, q ∈ c.quads → (w.quad q).park = .mnopen ∧ (w.quad q).path = c.path q)
  ∧ (∀ j, Goes .mnpush .mnpush
    (fun s c => named s c j ∧ j.status = 0 ∧ j.writes = [] ∧ bitField c.x.e 0 6 < j.nstream ∧ c.warp.cast = false
      ∧ j.refuses (bitField c.x.e 0 6) c.pushes = none ∧ s.resident j.cluster + c.pushes.length ≤ 65536)
    (fun s c u w => still s c u w ∧ SameRegs c w ∧ others s u j
      ∧ (let stream := bitField c.x.e 0 6
         ∃ k, u.jobOf j.uid = some k
          ∧ k.entries = j.entries ++ (List.range c.pushes.length).map (fun i =>
              { coord := (c.pushes.getD i (0, 0)).1, value := j.kept (c.pushes.getD i (0, 0)).2, stream, seq := Cells.get 0 j.seqs stream + i })
          ∧ Cells.get 0 k.seqs stream = Cells.get 0 j.seqs stream + c.pushes.length
          ∧ (∀ st, st ≠ stream → Cells.get 0 k.seqs st = Cells.get 0 j.seqs st)
          ∧ (c.pushes ≠ [] → c.warp.uid ∈ k.pushers)
          ∧ { k with entries := j.entries, seqs := j.seqs, lastKeys := j.lastKeys, owners := j.owners, pushers := j.pushers } = j)))
  ∧ (∀ j, Goes .mnpush .mnpush
    (fun s c => named s c j ∧ j.status = 0 ∧ bitField c.x.e 0 6 < j.nstream ∧ c.warp.cast = false ∧ c.pushes ≠ []
      ∧ j.refuses (bitField c.x.e 0 6) c.pushes = none ∧ j.writes ≠ [])
    (fun s c u w => SameMemory s u ∧ OtherWarps s u c.warp.uid ∧ u.jobs = s.jobs ∧ waits c w))
  ∧ (∀ j, Goes .mnfeed .mnfeed
    (fun s c => named s c j ∧ j.status = 0 ∧ bitField c.x.e 3 6 < j.nstream ∧ c.b 0 % (if bitAt c.x.e 9 then 8 else 16) = 0
      ∧ (s.coreOf c.core).sprues.length = 8 ∧ (s.sprue c.core c.sprueField).length < 16)
    (fun s c u w => still s c u w ∧ SameRegs c w ∧ u.jobs = s.jobs ∧ ∃ k, Joins s u c.core c.sprueField
      [Command.make k c.warp (s.blockAt c.warp.block) Routes.none (.feed j.uid (c.b 0) 0 (c.c 0) (bitField c.x.e 3 6) (bitAt c.x.e 9))]))
  ∧ (∀ j, Goes .mndrain .mndrain (fun s c => named s c j ∧ j.status < 3)
    (fun s c u w => SameMemory s u ∧ SameRegs c w ∧ others s u j ∧ u.jobOf j.uid = some (if j.status = 0 then status j 1 else j)
      ∧ (0 < j.status ∨ ¬ awaited s .mnisect → OtherWarps s u c.warp.uid ∧ Engine c w)))
  ∧ (∀ j, Goes .mnisect .mnisect (fun s c => named s c j ∧ j.op = 4 ∧ j.status < 3)
    (fun s c u w => SameMemory s u ∧ (j.status = 2 → still s c u w ∧ u.jobs = s.jobs ∧ pair c w j.count)
      ∧ (j.status < 2 → SameRegs c w ∧ others s u j ∧ u.jobOf j.uid = some (if j.status = 0 then status j 1 else j) ∧ waits c w
          ∧ ∀ q, q ∈ c.quads → (w.quad q).park = .mnisect)))
  ∧ (∀ j, Goes .mnstat .mnstat (fun s c => named s c j)
    (fun s c u w => still s c u w ∧ u.jobs = s.jobs
      ∧ pair c w (j.status % 16 + j.fstream % 64 * 2 ^ 8 + j.runs % 2 ^ 16 * 2 ^ 16 + j.emitted % 2 ^ 32 * 2 ^ 32)))
  ∧ (∀ j, Goes .mnresume .mnresume (fun s c => named s c j)
    (fun s c u w => SameRegs c w ∧ others s u j
      ∧ (j.resuming = some true → u.jobs = s.jobs ∧ waits c w)
      ∧ (j.resuming = some false → still s c u w ∧ u.jobOf j.uid = some { j with resuming := none })
      ∧ (j.resuming = none → j.status ≠ 3 → j.status ≠ 4 → still s c u w ∧ u.jobs = s.jobs)
      ∧ (j.resuming = none → j.status = 3 →
          u.jobOf j.uid = some (status { j with fault := none, feeds := [], going := j.going ++ j.feeds } 0)
            ∧ SameMemory s u ∧ (¬ awaited s .mnisect → OtherWarps s u c.warp.uid ∧ Engine c w))
      ∧ ∀ s1 s2 cap rmax, j.resuming = none → j.status = 4 → s.readRange (.engine c.warp.uid) j.through j.ctx (j.name + 24) 8 = (s1, .ok cap) →
          s1.readRange (.engine c.warp.uid) j.through j.ctx (j.name + 40) 2 = (s2, .ok rmax) →
          let k : Job := { j with spillCap := leAt cap 0 8, runMax := min 4096 (leAt rmax 0 2) }
          (j.entries = [] → u.jobOf j.uid = some (status { k with fault := none, feeds := [], going := j.going ++ j.feeds } 0) ∧ SameMemory s u
            ∧ (¬ awaited s .mnisect → OtherWarps s u c.warp.uid ∧ Engine c w))
            ∧ (j.entries ≠ [] → j.writes = [] → j.spilled + (run j).length ≤ k.spillCap → j.runs < k.runMax →
                u.jobOf j.uid = some { k with writes := k.runWrites (run j), resuming := some true } ∧ waits c w)))
  ∧ ∀ j, Goes .mnclose .mnclose (fun s c => named s c j)
    (fun s c u w => SameRegs c w
      ∧ (j.status = 2 ∧ (j.writes ≠ [] ∨ j.acted = false) → SameMemory s u ∧ u.jobs = s.jobs ∧ waits c w)
      ∧ (j.status ≠ 2 ∨ (j.writes = [] ∧ j.acted = true) → (∀ k, k ∈ u.jobs ↔ k ∈ s.jobs ∧ k.uid ≠ j.uid)
          ∧ (j.status = 2 → SameMemory s u)
          ∧ (¬ awaited s .mnopen → ¬ awaited s .mnisect → j.status = 2 ∨ (c.warp.waits = [] ∧ c.warp.spec = none) → Engine c w)
          ∧ (¬ awaited s .mnopen → ¬ awaited s .mnisect → j.status = 2 → OtherWarps s u c.warp.uid)))

/-- `launch`, `tdep`, `signal`, `evq` and `sysc` act on the die once everything that their warp issued before is complete: a task record enters
the die's table, a dependence counter falls, a vector becomes pending, a record joins the event queue, a command block is taken (20 R432 to R434;
02 R36; 04 R75, R80; 08 R183). `coll` and `savew` put their commands in a sprue, `restw` applies the parts that it names, `yieldb` offers its
block and `perf` reads a counter (20 R435, R436, R439 to R441, R461). -/
def Obligations.SystemInstructions : Prop :=
  let still (s : State) (c : Ctx) (u : State) (w : Warp) : Prop := SameMemory s u ∧ OtherWarps s u c.warp.uid ∧ Engine c w
  let free (s : State) (c : Ctx) : Prop := Plain s c ∧ Settled s c
  let room (s : State) (c : Ctx) : Prop := (s.coreOf c.core).sprues.length = 8 ∧ (s.sprue c.core c.sprueField).length < 16
  let command (s : State) (c : Ctx) (k : Nat) (work : CmdWork) : Command := Command.make k c.warp (s.blockAt c.warp.block) Routes.none work
  (∀ x s t c s' bs r st idx, Reaches .launch x s t c → free s c → t.recordDev c (c.a 0) 4 = (s', .ok bs) →
    s'.enterTask (coreDie c.core) c.warp.ctx (TaskRec.ofBytes bs) = (r, st, idx) →
    ∃ u w, exec (.launch x) s = .next u ∧ u.warpOf c.warp.uid = some w ∧ still s c u w ∧ u.tasks = r.tasks
      ∧ (NoneOwed c → w.regs.uni c.x.d.toNat = BitVec.ofNat 32 (if st = 0 then 4096 * coreDie c.core + idx else 2 ^ 31 + st))
      ∧ (st ≠ 0 → u.tasks = s.tasks)
      ∧ (st = 0 → (TaskRec.ofBytes bs).dep ≠ 0 → ∃ k, u.tasks = s.tasks ++ [k] ∧ k.die = coreDie c.core ∧ k.idx = idx ∧ k.ctx = c.warp.ctx
          ∧ k.rec' = TaskRec.ofBytes bs ∧ k.counter = (TaskRec.ofBytes bs).dep ∧ k.ready = false
          ∧ ∀ o ∈ s.tasks, o.die = coreDie c.core → o.idx ≠ idx))
  ∧ (let die (c : Ctx) : Nat := natField (c.a 0) 12 2
     let named (s : State) (c : Ctx) : Option Task := s.taskOf (die c) (c.a 0 % 4096)
     Goes .tdep .tdep
      (fun s c => free s c ∧ c.a 0 < 2 ^ 14 ∧ ∃ p, s.partOfCtx c.warp.ctx = some p ∧ onDie p.desc (die c) = true)
      (fun s c u w => still s c u w ∧ SameRegs c w
        ∧ ((∀ k, named s c = some k → k.counter = 0) → u.tasks = s.tasks)
        ∧ (∀ k, named s c = some k → c.b 0 < k.counter → named u c = some { k with counter := k.counter - c.b 0 })
        ∧ (∀ k, named s c = some k → 0 < k.counter → k.counter ≤ c.b 0 → k.ready = false → k.rec'.nparam = 0 → s.checkpointing k.ctx = false →
            named u c = some { k with counter := 0, ready := true, params := [] })))
  ∧ (∀ k d, Goes .signal .signal
    (fun s c => free s c ∧ c.a 0 ≤ 63 ∧ s.ctxOf c.warp.ctx = some k ∧ s.vdOf k.vd = some d)
    (fun s c u w => still s c u w ∧ SameRegs c w ∧ ∃ d', u.vdOf k.vd = some d' ∧ d' = { d with vectors := d'.vectors }
      ∧ ∀ i, d'.vectors[i]? = if i = c.a 0 then (d.vectors[i]?).map (fun v => { v with pending := true }) else d.vectors[i]?))
  ∧ Goes .evq .evq
    (fun s c => free s c ∧ (s.events.filter (fun e => e.1 == coreDie c.core)).length < 4096)
    (fun s c u w => still s c u w ∧ SameRegs c w ∧ u.events = s.events ++
      [(coreDie c.core,
        { ctx := c.warp.ctx, tag := BitVec.ofNat 64 (c.a 0), cause := 0, sprue := 0xFF, core := BitVec.ofNat 16 (s.coreNumber c.core), rows := 0,
          bytes := 0, faddr := 0 })])
  ∧ (∀ x s t c s1 s2 s3 hdr body key p k, Reaches .sysc x s t c → free s c → c.warp.waits = [] → t.recordDev c (c.a 0) 1 = (s1, .ok hdr) →
    (if leAt hdr 12 4 == 64 then s1.recordDev c (c.a 0 + 64) 1 else (s1, .ok [])) = (s2, .ok body) →
    s2.checkDev c.core c.warp.ctx (c.a 0) 64 .r = (s3, .ok (key, p)) → s.ctxOf c.warp.ctx = some k →
    ∃ u w j, exec (.sysc x) s = .next u ∧ u.warpOf c.warp.uid = some w ∧ Engine c w ∧ SameRegs c w
      ∧ u.commands = (if p = none then s.commands.map (seeWord u.dev (key + 32) 4) else s.commands) ++ [j]
      ∧ j.vd = k.vd ∧ j.queue = none ∧ j.die = coreDie c.core ∧ j.block = key ∧ j.code = leAt hdr 8 2 ∧ j.flags = leAt hdr 10 2 ∧ j.ctx = k.id
      ∧ j.sigvec = leAt hdr 48 1 ∧ j.body = body ∧ j.outcome = (blockStatus hdr body true).map (fun st => (st, 0))
      ∧ (p = none → u.dev.read (key + 32) 4 = 1 ∧ OnlyBytes s u .dev (key + 32) 4) ∧ (p ≠ none → SameMemory s u))
  ∧ (∀ x s t c s1 s2 l m, Reaches .coll x s t c → Plain s c → room s c → t.recordDev c (c.a 0) 1 = (s1, .ok l) → collBad l c.ty = false →
    c.b 0 < 2 ^ 55 → c.b 0 % 64 = 0 → c.c 0 < 2 ^ 55 → c.c 0 % 64 = 0 → s1.recordPiece c (leAt l 16 8 + 4 * leAt l 10 2) 4 1 = (s2, .ok m) →
    (leAt m 0 4 = s.pkg.toNat * 4 + coreDie c.core ∨ leAt m 0 4 = 0x3FF * 4 + coreDie c.core) → ∃ u w k, exec (.coll x) s = .next u ∧ u.warpOf c.warp.uid = some w ∧ still s c u w ∧ SameRegs c w
      ∧ Joins s u c.core c.sprueField [command s c k
        (.coll x.f.toNat x.t (c.a 0) (c.b 0) (c.c 0) (leAt l 0 8) (leAt l 8 2) (leAt l 10 2) (leAt l 12 2) (leAt l 32 4)
          (leAt l 24 8 + s2.collsOn c.warp.ctx (c.a 0)) s.hb)])
  ∧ (let parts (c : Ctx) : Nat := bitField c.x.e 3 4
     Goes .savew .savew
      (fun s c => Plain s c ∧ room s c ∧ c.wholeWarp = true ∧ c.a 0 < 2 ^ 55 ∧ c.a 0 % 64 = 0 ∧ c.warp.scored = [] ∧ c.warp.errors = [])
      (fun s c u w => still s c u w ∧ SameRegs c w ∧ ∃ k, Joins s u c.core c.sprueField
        [command s c k (.save (parts c) (c.a 0) (c.captured (parts c) (s.blockAt c.warp.block).cores.length) (natBit (parts c) 3))]))
  ∧ (∀ x s t c s' s'' sl, let parts := bitField c.x.e 0 4
    let b := s.blockAt c.warp.block
    Reaches .restw x s t c → free s c → c.warp.scored = [] → c.warp.trail = [] → c.warp.spec = none → c.wholeWarp = true → c.a 0 < 2 ^ 55 → c.a 0 % 64 = 0 →
    t.readSlot (.engine c.warp.uid) c.core c.warp.ctx (c.a 0) b.cores.length c.warp.wid c.warp.nreg parts = (s', .ok sl) → slotBad c.warp b c.core parts sl = none →
    s'.applySlot (.engine c.warp.uid) c.warp.uid c.core b (c.a 0) parts sl = (s'', none) →
    (natBit parts 0 = true → natBit (leAt sl.record 1576 4) 31 = false ∧ c.warp.trapWait = none ∧ c.warp.barrier = none ∧ c.warp.ended = false
      ∧ (s.coreOf c.warp.core).windows = [] ∧ ∃ q, q < 8 ∧ (pathOfRecord sl.record c.warp.absent q).living ≠ 0) →
    ∃ u w, exec (.restw x) s = .next u ∧ u.warpOf c.warp.uid = some w ∧ SameMemory s'' u ∧ (natBit parts 3 = false → SameMemory s u)
      ∧ (natBit parts 0 = false → Advanced c w ∧ w.trap = c.warp.trap ∧ ∀ n l, w.regs.uni n = c.warp.regs.uni n
          ∧ w.regs.pred n l = c.warp.regs.pred n l)
      ∧ (natBit parts 2 = true → ∀ v l, v < c.warp.nreg → v ≠ 255 → l < 32 → w.regs.vec v l = BitVec.ofNat 32 (leAt sl.vregs (128 * v + 4 * l) 4))
      ∧ (natBit parts 2 = false → ∀ v l, l < 32 → w.regs.vec v l = c.warp.regs.vec v l)
      ∧ (natBit parts 0 = true →
          (∀ q, q < 8 → (w.quad q).path = pathOfRecord sl.record c.warp.absent q ∧ (w.quad q).park = .running)
            ∧ (∀ n, n < c.warp.nureg → n < 64 → w.regs.uni n = BitVec.ofNat 32 (leAt sl.record (64 + 4 * n) 4))
            ∧ (∀ p l, p < 7 → l < 32 → w.regs.pred p l = natBit (leAt sl.record (320 + l) 1) p)
            ∧ w.region = BitVec.ofNat 64 (leAt sl.record 24 8) ∧ w.rcount = BitVec.ofNat 32 (leAt sl.record 32 4)
            ∧ w.wstat = BitVec.ofNat 32 (leAt sl.record 40 4 % 64) ||| BitVec.ofNat 32 c.pourFlags ∧ w.trap = (trapOfRecord sl.record).1
            ∧ w.inTrap = decide (leAt sl.record 52 1 = 1)))
  ∧ Goes .yieldb .yieldb (fun s c => Plain s c)
    (fun s c u w => OnlyAsker s c u ∧ SameRegs c w ∧ w.offered = true ∧ Engine c { w with offered := false })
  ∧ Goes .perf .perf (fun s c => Plain s c ∧ c.a 0 ≤ 7)
    (fun s c u w => still s c u w
      ∧ ∀ l, NoneOwed c → l < 32 → c.lanes.getLsbD l = true → c.x.d.toNat + 2 ≤ 255 →
          let v := w.regs.vecs c.x.d.toNat l 2
          match c.a 0 with
          | 0 => v = c.warp.retired.toNat
          | 1 => v = (BitVec.ofNat 64 ((s.coreOf c.core).clk - c.warp.startClk)).toNat
          | 2 => v = c.warp.pours.toNat
          | 3 => v = c.warp.steps.toNat
          | 4 => v = (u.coreOf c.core).rebuilt.toNat
          | 5 => v = (u.coreOf c.core).busyWaits.toNat
          | 6 => v = (s.coreOf c.core).copied.toNat
          | _ => v = Cells.get 0 s.ladleIn (coreCluster c.core) % 2 ^ 64)

/-! ### Events -/

/-- The heartbeat: an edge counts by one on the root, which sends its value to every package on its CLASS 3 routes, on a locked package behind its root,
and on one that has lost its root; a package that joins takes the root's value with the tick flit and is locked; a correction goes up by one
toward the root, never back (01 R22, R23). A flit that is good and next is taken and acknowledged, kept for this package or sent on toward its
destination; a bad one is answered by a NAK (01 R14 to R16, R18; a second NAK for one gap and the place of a tick flit's value are the model's choices,
logs 72 and 73). A port trains at the width that its lanes allow and replays, and one that could not is down (01 R12, R13, R16). A `.sys` operation
without an answer fails after 65,536 heartbeats and settles with what is known of it (01 R20, R21). A host reads and writes where its device's windows
lie (02 R25). -/
def Obligations.FabricEvents : Prop :=
  let edged (s u : State) : Prop := u.hb = s.hb + 1
    ∧ u = { s with hb := u.hb, edgeNs := s.ns, locked := u.locked, contexts := u.contexts, margins := u.margins, ports := u.ports, out := u.out }
  let unlocked (s u : State) : Prop := u.hb = s.hb ∧ u.locked = false ∧ u.out = s.out ++ [.lockReport false] ∧ SameMemory s u
  let tick (s : State) (f : Flit) : Prop := f.kind = 2 ∧ f.cls = 3 ∧ f.src = s.root ∧ f.dst = s.pkg
  (∀ s, s.change = none → s.pkg = s.root ∨ s.routed = false ∨ (s.joined = true ∧ s.locked = true ∧ s.hb.toNat < s.rootHb.toNat) →
    ∃ u, exec .heartbeatTick s = .next u ∧ edged s u ∧ u.locked = s.locked
      ∧ (s.pkg ≠ s.root → u.ports = s.ports ∧ u.out = s.out)
      ∧ (s.pkg = s.root → ∀ d k, (s.routes.filter (fun r => r.cls == 3 && r.dst != s.pkg)).map (fun r => r.dst) = [d] → s.routeTo d 3 = .ok k →
          (s.portOf k).retry.length < 512 → (s.portOf k).waiting = [] → u.out = s.out ∧ ∃ g, (u.portOf k).sent = (s.portOf k).sent ++ [g]
            ∧ g.cls = 3 ∧ g.kind = 2 ∧ g.dst = d ∧ g.src = s.pkg ∧ leAt g.payload 0 8 = u.hb.toNat))
  ∧ (∀ s, s.pkg ≠ s.root → s.routed = true → s.joined = false ∨ s.locked = false ∨ s.rootHb.toNat ≤ s.hb.toNat → exec .heartbeatTick s = .next s)
  ∧ (∀ root s, (s.pkg = s.root → exec (.tickFlitReceive root) s = .next s)
    ∧ (s.pkg ≠ s.root → s.joined = false → exec (.tickFlitReceive root) s = .next { s with
        rootHb := root, routed := true, hb := root, edgeNs := s.ns, joined := true, locked := true })
    ∧ (s.pkg ≠ s.root → s.joined = true → s.locked = false ∨ s.hb.toNat + 1 ≠ s.rootHb.toNat ∨ s.rootHb = root →
        (s.hb = root → exec (.tickFlitReceive root) s = .next { s with rootHb := root, routed := true, locked := true })
        ∧ (s.hb ≠ root → (s.locked = true ∧ s.hb + 1 ≠ root) ∨ s.routed = false → ∃ u, exec (.tickFlitReceive root) s = .next u ∧ unlocked s u
            ∧ u.rootHb = root ∧ u.routed = true)
        ∧ (s.hb ≠ root → s.routed = true → s.locked = false ∨ s.hb + 1 = root →
            exec (.tickFlitReceive root) s = .next { s with rootHb := root, routed := true }))
    ∧ (s.pkg ≠ s.root → s.joined = true → s.locked = true → s.routed = true → s.change = none → s.hb.toNat + 1 = s.rootHb.toNat → root = s.rootHb + 1 →
        ∃ u, exec (.tickFlitReceive root) s = .next u ∧ u.hb = s.rootHb ∧ u.rootHb = root ∧ u.locked = true ∧ SameMemory s u))
  ∧ (∀ s, s.pkg ≠ s.root → s.change = none → s.locked = false → s.routed = true → s.joined = true → s.hb.toNat < s.rootHb.toNat →
    ∃ u, exec .counterCorrection s = .next u ∧ edged s u ∧ u.locked = decide (u.hb = s.rootHb) ∧ u.ports = s.ports ∧ u.out = s.out)
  ∧ (∀ pkg s, pkg ≠ s.root → ∃ u, exec (.rootSelection pkg) s = .next u ∧ u.root = pkg ∧ u.routed = true ∧ u.hb = s.hb
    ∧ u.locked = decide (pkg = s.pkg) ∧ SameMemory s u)
  ∧ (∀ s, s.pkg ≠ s.root → s.routed = true → ∃ u, exec .rootRouteLoss s = .next u ∧ u.routed = false ∧ unlocked s u)
  ∧ (∀ pkg routes s, ∃ u, exec (.packageProvisioning pkg routes) s = .next u ∧ u.pkg = pkg ∧ u.routes = routes.filter (fun r => r.port < 16)
    ∧ u.hb = s.hb ∧ SameMemory s u ∧ (pkg ≠ s.root → pkg ≠ s.pkg → s.contexts = [] → u.joined = false ∧ u.locked = false)
    ∧ (pkg ≠ s.root → pkg ≠ s.pkg → s.contexts ≠ [] → u.joined = s.joined ∧ u.locked = false)
    ∧ (pkg ≠ s.root → pkg = s.pkg → u.joined = s.joined ∧ u.locked = s.locked) ∧ (pkg = s.root → u.joined = true ∧ u.locked = true))
  ∧ (∀ port f s, port < 16 → (s.portOf port).up = true → flitBad f = false → f.seq = (s.portOf port).expect → tick s f →
    ∃ v, v = { s with ports := v.ports } ∧ (v.portOf port).expect = (s.portOf port).expect + 1
      ∧ exec (.flitReceive port f) s = exec (.tickFlitReceive (BitVec.ofNat 64 (leAt f.payload 0 8))) v)
  ∧ (∀ port f s, port < 16 → (s.portOf port).up = true → flitBad f = true ∨ f.seq ≠ (s.portOf port).expect ∨ ¬ tick s f →
    ∃ u, exec (.flitReceive port f) s = .next u ∧ SameMemory s u
    ∧ (let p := s.portOf port
       let q := u.portOf port
       let n := (f.ack - p.acked).toNat
       (flitBad f = false → f.seq = p.expect → f.kind = 0 ∨ f.dst = s.pkg →
          q.expect = p.expect + 1 ∧ q.nakOut = false ∧ q.inbox = p.inbox ++ (if f.kind = 0 then [] else [f])
            ∧ (f.nak = false → q.naks = 0) ∧ (f.nak = true → q.naks = if p.nakSeq = f.ack + 1 then p.naks + 1 else 1)
            ∧ (p.waiting = [] → n ≤ p.retry.length → q.acked = f.ack ∧ q.retry = p.retry.drop n
                ∧ q.sent = p.sent ++ (if f.nak = true then p.retry.drop n else [])))
        ∧ (flitBad f = false → f.seq = p.expect → f.kind ≠ 0 → f.dst ≠ s.pkg → ∀ k, s.routeTo f.dst f.cls.toNat = .ok k → k ≠ port →
            (s.portOf k).waiting = [] →
            ((s.portOf k).retry.length < 512 → ∃ g, (u.portOf k).sent = (s.portOf k).sent ++ [g] ∧ g.payload = f.payload ∧ g.dst = f.dst
              ∧ g.src = f.src ∧ g.seq = (s.portOf k).nextSeq)
            ∧ (512 ≤ (s.portOf k).retry.length → (u.portOf k).sent = (s.portOf k).sent ∧ (u.portOf k).waiting = [f]))
        ∧ (flitBad f = true ∨ f.seq ≠ p.expect → q.expect = p.expect ∧ q.inbox = p.inbox
            ∧ (p.nakOut = true → flitBad f = false → q = p)
            ∧ (p.nakOut = false ∨ flitBad f = true → p.retry.length < 512 → p.waiting = [] →
                ∃ g, q.sent = p.sent ++ [g] ∧ g.nak = true ∧ g.ack = p.expect - 1 ∧ q.nakOut = true))))
  ∧ (∀ e ∈ ([(.portRetrain, true), (.portTraining, false)] : List ((Nat → BitVec 4 → Instr) × Bool)), ∀ port lanes s, port < 16 →
      (e.2 = true → 8 ≤ (s.portOf port).naks) → ∃ u, exec (e.1 port lanes) s = .next u ∧ SameMemory s u
        ∧ (let p := s.portOf port
           let q := u.portOf port
           (lanes ≠ 0 → q.up = true ∧ q.naks = 0 ∧ q.retry = p.retry ∧ q.sent = p.sent ++ p.retry ∧ q.untrained = false
            ∧ q.width = (if lanes = 0xF then 4 else if lanes &&& 3 = 3 ∨ lanes &&& 12 = 12 then 2 else 1))
           ∧ (lanes = 0 → q = { p with untrained := true })))
  ∧ (∀ port s, port < 16 → (s.portOf port).up = true → (s.portOf port).untrained = true →
    ∃ u, exec (.portDown port) s = .next u ∧ (u.portOf port).up = false ∧ (u.portOf port).retry = [] ∧ (u.portOf port).waiting = [] ∧ SameMemory s u)
  ∧ (∀ port s, (s.portOf port).untrained = false → exec (.portDown port) s = .next s)
  ∧ (∀ op o s, s.channels.find? (fun o => o.uid == op) = some o → o.failed = none → 65536 ≤ (s.hb - o.since).toNat →
    ∃ u o' p, exec (.sysResponseTimeout op) s = .next u ∧ u.channels.find? (fun o => o.uid == op) = some o' ∧ o'.failed = some (2 * 256 + p)
      ∧ o'.since = s.hb ∧ SameMemory s u)
  ∧ (∀ op answer o why s, s.channels.find? (fun o => o.uid == op) = some o → o.failed = some why → s.canSettle o answer = true →
    ∃ u, exec (.fabricOutcomeSettle op answer) s = .next u
      ∧ ((∀ who write, o.access.kind ≠ .ask who write) → ∀ p, p ∈ u.channels → p.uid ≠ op)
      ∧ ∀ who write, o.access.kind = .ask who write →
          (∀ core q x y a, s.sentUnder op = some (core, q, x, y, a) → s.commandAt x.uid = some (core, q, x) → x.works = [y] → x.begun = true →
            x.heldWrites = 0 → x.fault = none → x.met = none →
            ∃ z f, u.commandAt x.uid = some (core, q, z) ∧ z.fault = some f ∧ f.cause = 0x1C ∧ z.works = [])
          ∧ (s.sentUnder op = none → who ≠ .engine 0 → s.tasks = [] → ∃ a, a ∈ u.answers ∧ a.who = who ∧ a.bytes = none ∧ a.cause = 0x1C))
  ∧ (∀ req s, (∀ v, v ∈ s.vdevs → v.permits req = false) →
      exec (.hostRequest req) s = .next { s with out := s.out ++ [.fabricError req.host] })
  ∧ (∀ req v s, v ∈ s.vdevs → v.permits req = true → ∃ u, exec (.hostRequest req) s = .next u ∧
      (let told (bs : List Byte) : Prop := u.out = s.out ++ [.hostData req.host (BitVec.ofNat 64 req.pa) bs]
       match req.op with
       | .read n => (s.rangeBad req.pa n = false → SameMemory s u ∧ told (s.dev.bytes req.pa n))
           ∧ (s.rangeBad req.pa n = true → SameMemory s u ∧ u.out = s.out ++ [.fabricError req.host])
       | .write data => s.tornLine req.pa data.length = false → OnlyBytes s u .dev req.pa data.length ∧ told []
           ∧ ∀ i b, data[i]? = some b → u.dev.byte (req.pa + i) = b
       | .atom op ty b c =>
           let n := tyWidth ty.toNat / 8
           let old := s.dev.read req.pa n
           s.rangeBad req.pa n = false → s.tornLine req.pa n = false → OnlyBytes s u .dev req.pa n ∧ told (leBytes n old)
             ∧ u.dev.read req.pa n = atomResult (atomOpOf op) ty.toNat old (b.toNat % 2 ^ (8 * n)) c.toNat % 2 ^ (8 * n)))
  ∧ ∀ pkg cls o w p s, s.channels.find? (fun o => o.inChannel && o.pkg == pkg && o.cls == cls) = some o →
    s.warpOf o.warp = some w → Busy s w → o.failed = none → o.access.kind = .store → o.access.parts = [p] → p.bytes ≤ 8 → o.access.space = .dev →
    s.rangeBad p.addr p.bytes = false → s.tornLine p.addr p.bytes = false → (∀ t ∈ w.late, t.1 ≠ o.access.seq) →
    ∃ u, exec (.channelDeliver pkg cls) s = .next u
      ∧ u.dev.read p.addr p.bytes = p.data.toNat % 2 ^ (8 * p.bytes) ∧ OnlyBytes s u .dev p.addr p.bytes ∧ (∀ x, x ∈ u.channels → x.uid ≠ o.uid)
      ∧ (o.uid, s.hb) ∈ u.performedOps

/-- Cold reset and every transition of Table 3-7 leave all memory zero and no partition, device, context or task (03 R73, R74). The power cap lowers
and raises the setpoint of each island by one step (11 R256), a thermal trip begins the kill of every context (11 R257), and a supply sag
stretches one island (11 R255; the numbers of the islands are the model's choice, log 74). An idle core is gated, and tested when it wakes (11 R251, R252, R254); one that fails is withdrawn (11 R253), and
a bank that fails is retired once its group's parity is whole (06 R136). Parity follows its queue, or is recomputed (06 R133). A single-bit error
is corrected, and a double-bit one stays in its word (11 R248, R250). -/
def Obligations.HardwareEvents : Prop :=
  let bare (u : State) : Prop := SameMemory State.reset u ∧ u.parts = [] ∧ u.vdevs = [] ∧ u.contexts = [] ∧ u.tasks = [] ∧ u.blocks = [] ∧ u.warps = []
  let others (s u : State) (core : Nat) : Prop := ∀ k, k ≠ core → u.coreOf k = s.coreOf k
  let recent (s : State) (t : BitVec 64) : Bool := decide ((s.hb - t).toNat < 2 ^ 23)
  (∀ s, ∃ u, exec .coldReset s = .next u ∧ bare u ∧ u.hb = 0 ∧ u.life = s.life ∧ u.identity = s.identity ∧ u.pkg = s.pkg ∧ u.routes = s.routes
    ∧ u.joined = decide (s.pkg = s.root) ∧ u.locked = decide (s.pkg = s.root)
    ∧ ∀ core, s.tests = [(core, .fail)] → core < 448 → (u.coreOf core).withdrawn = true)
  ∧ (let table : List (LifeCycle × LifeCycle) :=
      [(.manufacturing, .provisioned), (.provisioned, .deployed), (.provisioned, .retired), (.deployed, .provisioned), (.deployed, .retired)]
     ∀ s dest, ((s.life, dest) ∈ table → ∃ u, exec (.lifeCycleTransition dest) s = .next u ∧ bare u ∧ u.life = dest ∧ u.identity = decide (dest ≠ .retired)
        ∧ u.hb = s.hb ∧ u.pkg = s.pkg)
      ∧ ((s.life, dest) ∉ table → exec (.lifeCycleTransition dest) s = .next { s with out := s.out ++ [.error] }))
  ∧ (∀ watts cap hot s, 1024 ≤ (s.hb - s.powerHb).toNat → ∃ u, exec (.powerCapCheck watts cap hot) s = .next u ∧ SameMemory s u ∧ u.powerHb = s.hb
      ∧ (∀ c, cap = some c → u.cap = if 1500 ≤ c ∧ c ≤ 3000 then c else s.cap) ∧ (cap = none → u.cap = s.cap)
      ∧ ∀ i, i < 64 →
          let old := Cells.get 0 s.setpoints i
          Cells.get 0 u.setpoints i =
            if u.cap < watts ∨ i ∈ hot then min 35 (old + 1) else if watts * 100 ≤ u.cap * 95 then old - 1 else old)
  ∧ (∀ die s, ∃ u, exec (.thermalTrip die) s = .next u ∧ SameMemory s u ∧ u.tripped = true
      ∧ ∀ c x, s.ctxOf c = some x → ∃ y, u.ctxOf c = some y ∧ (y.killing = true ∨ y.killed = true))
  ∧ (∀ s, exec .thermalTripRecovery s = .next { s with tripped := false })
  ∧ (∀ island s, island < 84 → ∃ u, exec (.supplySag island) s = .next u ∧ u = { s with stretched := u.stretched }
      ∧ ∀ i, i ∈ u.stretched ↔ i = island ∨ i ∈ s.stretched)
  ∧ (∀ island s, ∃ u, exec (.supplyRecovery island) s = .next u ∧ u = { s with stretched := u.stretched }
      ∧ ∀ i, i ∈ u.stretched ↔ i ≠ island ∧ i ∈ s.stretched)
  ∧ (∀ core s, (s.coreOf core).gated = false → (s.coreOf core).withdrawn = false → (s.coreOf core).withdrawing = false → (∀ b, b ∈ s.blocks → core ∉ b.cores) →
      (∀ q, q ∈ (s.coreOf core).sprues → q = []) → 8192 ≤ (s.hb - (s.coreOf core).idleSince).toNat → ∃ u, exec (.coreGate core) s = .next u
      ∧ u = { s with cores := u.cores } ∧ u.coreOf core = { s.coreOf core with gated := true } ∧ others s u core)
  ∧ (∀ core test s, (s.coreOf core).gated = true → ∃ u, exec (.coreWake core test) s = .next u ∧ others s u core ∧ u.dev = s.dev ∧ u.spad = s.spad
      ∧ (∀ i, i < 262144 → u.bmem.byte (262144 * core + i) = 0 ∧ u.banks.byte (bankBase core 0 + i) = 0)
      ∧ (∀ a, a < 262144 * core ∨ 262144 * core + 262144 ≤ a → u.bmem.byte a = s.bmem.byte a)
      ∧ (u.coreOf core).gated = false ∧ (u.coreOf core).clk = 0
      ∧ match test with
        | .pass => (u.coreOf core).withdrawn = false
        | .banks failed => s.groups = [] →
            ((∀ f g, f ∈ failed → g ∈ failed → f.2 ≤ 4 ∧ (f.1 = g.1 → f.2 = g.2)) →
              (u.coreOf core).withdrawn = false ∧ ∀ f, f ∈ failed → (u.groupOf ⟨.block, core, f.1⟩).retired = [f.2])
            ∧ ((∃ f g, f ∈ failed ∧ g ∈ failed ∧ f.1 = g.1 ∧ f.2 ≠ g.2) → (u.coreOf core).withdrawn = true)
        | .fail => (u.coreOf core).withdrawn = true)
  ∧ (∀ core check s, (s.coreOf core).withdrawn = false →
      check = true ∨ (s.coreOf core).withdrawing = true ∨ 4 ≤ ((s.coreOf core).regErrors.filter (recent s)).length →
      ∃ u, exec (.coreWithdraw core check) s = .next u
      ∧ ((∃ b, b ∈ u.blocks ∧ core ∈ b.cores) → (u.coreOf core).withdrawing = true)
      ∧ ((∀ b, b ∈ s.blocks → core ∉ b.cores) →
          SameMemory s u ∧ u.coreOf core = { s.coreOf core with withdrawn := true, withdrawing := false, gated := false } ∧ others s u core))
  ∧ (∀ group bank s, bank ∉ (s.groupOf group).retired → bank ≤ 4 →
      (let mine (double : Bool) := (s.groupOf group).reports.filter (fun r => r.1 == bank && r.2.1 == double && recent s r.2.2)
       4 ≤ (mine true).length ∨ 1024 ≤ (mine false).length) → ∃ u, exec (.bankRetire group bank) s = .next u ∧ SameMemory s u
      ∧ (u.groupOf group).retired = (s.groupOf group).retired ++ [bank] ∧ (u.groupOf group).queue = [] ∧ (u.groupOf group).recompute = [])
  ∧ (∀ group row delta rest s, (s.groupOf group).queue = (row, delta) :: rest → s.doubleAt group 4 row = false →
      ∃ u, exec (.parityApply group) s = .next u ∧ SameMemory s u ∧ u.bankWord group 4 row = s.bankWord group 4 row ^^^ delta
      ∧ (u.groupOf group).queue = rest ∧ ∀ r, r ≠ row → u.bankWord group 4 r = s.bankWord group 4 r)
  ∧ (∀ group row s, row ∈ (s.groupOf group).recompute → (s.groupOf group).retired = [] → (∀ b, b < 4 → s.doubleAt group b row = false) →
      ∃ u, exec (.parityRecompute group row) s = .next u ∧ SameMemory s u ∧ row ∉ (u.groupOf group).recompute
      ∧ (∀ e, e ∈ (u.groupOf group).queue ↔ e ∈ (s.groupOf group).queue ∧ e.1 ≠ row)
      ∧ u.bankWord group 4 row =
          s.bankWord group 0 row ^^^ s.bankWord group 1 row ^^^ s.bankWord group 2 row ^^^ s.bankWord group 3 row)
  ∧ (∀ target s, ∃ u, exec (.softError target true) s = .next u ∧ SameMemory s u ∧
      match target with
      | .vreg n reg lane => ∀ w, s.warpOf n = some w → s.shadowOf n = none → ∃ v, u.warpOf n = some v ∧ ⟨.vec, reg, lane⟩ ∈ v.errors
      | .ureg n reg => ∀ w, s.warpOf n = some w → s.shadowOf n = none → ∃ v, u.warpOf n = some v ∧ ⟨.uni, reg, 0⟩ ∈ v.errors
      | .pred n p lane => ∀ w, s.warpOf n = some w → s.shadowOf n = none → ∃ v, u.warpOf n = some v ∧ ⟨.pred, p, lane⟩ ∈ v.errors
      | .moldWord core bank word => Cells.get false u.badBankWords (bankBase core bank / 4 + word) = true
      | .stackLine n line => ∀ w, s.warpOf n = some w → line ∈ w.lines → ∃ v, u.warpOf n = some v ∧ line ∈ v.badLines
      | .icache core => (u.coreOf core).icache = []
      | .bankWord id bank row => u.doubleAt id bank row = true
      | .devLine line => Cells.get false u.badLines line = true)
  ∧ ∀ target s, (∀ core, target ≠ .icache core) → (∀ id bank row, target ≠ .bankWord id bank row) → exec (.softError target false) s = .next s

/-- A command block is taken from its queue and, once it has an outcome, completes in it (02 R29 to R31). A command that may run and is not barred does
what Table 2-3 says: NOP, CREATE_CONTEXT, DESTROY_CONTEXT, MAP, UNMAP, LAUNCH_TASK, HOST_COPY with its pieces, FENCE, KILL_CONTEXT,
CHECKPOINT_EXPORT and CHECKPOINT_IMPORT, SET_SLICE and QUERY (02 R33, R37 to R43; 03 R58). -/
def Obligations.CommandEvents : Prop :=
  let runs (s : State) (code : Nat) (c : JrfCommand) (v : VDev) : Prop := s.running code = some (c, v) ∧ s.barred c v = none ∧ s.zeroed = []
  let ended (u : State) (c : JrfCommand) (st r : Nat) : Prop := ∃ d, u.cmdOf c.uid = some d ∧ d.outcome = some (st, BitVec.ofNat 64 r)
  let goes (u : State) (c : JrfCommand) : Prop := ∃ d, u.cmdOf c.uid = some d ∧ d.outcome = none ∧ 1 ≤ d.phase
  (∀ vd queue v q s, s.vdOf vd = some v → v.queues[queue]? = some q → q.enable = true → v.pausing = false → v.paused = none → s.badLines = [] →
    s.dev.read q.desc 8 ≠ s.dev.read (q.desc + 8) 8 →
    (let key := s.dev.read (s.dev.read (q.desc + 8) 8) 8
     let body := if s.dev.read (key + 12) 4 = 64 then s.dev.bytes (key + 64) 64 else []
     key ≠ 0 → key % 64 = 0 → key < 2 ^ 40 → v.inWindow key 64 = true → v.inWindow key (64 + body.length) = true →
     key + 36 ≤ q.desc + 8 ∨ q.desc + 16 ≤ key + 32 →
     ∃ u j, exec (.queueTake vd queue) s = .next u ∧ u.commands.getLast? = some j
      ∧ u.commands.dropLast.map (fun d => { d with watch := none }) = s.commands.map (fun d => { d with watch := none })
      ∧ u.dev.read (key + 32) 4 = 1 ∧ u.dev.read (q.desc + 8) 8 = key
      ∧ j.vd = vd ∧ j.queue = some queue ∧ j.die = q.die ∧ j.block = key ∧ j.code = s.dev.read (key + 8) 2 ∧ j.flags = s.dev.read (key + 10) 2
      ∧ j.ctx = s.dev.read (key + 24) 4 ∧ j.sigvec = s.dev.read (key + 48) 1 ∧ j.body = body
      ∧ (∀ d, d ∈ s.commands → d.vd = vd → d.queue = some queue → j.flags.testBit 1 = true → d.uid ∈ j.after)
      ∧ (j.code = 8 → leAt body 0 1 = 4 → j.outcome = none → ∀ word, (u.checkDev (dieCore q.die) j.ctx (leAt body 32 8) 8 .r).2 = .ok (word, none) →
          j.watch = some (word, BitVec.ofNat 64 (leAt body 40 8), u.dev.read word 8 == leAt body 40 8))))
  ∧ (∀ vd queue v q s, s.vdOf vd = some v → v.queues[queue]? = some q →
      q.enable = false ∨ v.pausing = true ∨ v.paused ≠ none ∨ s.dev.read (s.dev.read (q.desc + 8) 8) 8 = 0 → exec (.queueTake vd queue) s = .next s)
  ∧ (∀ cmd c st r s, s.cmdOf cmd = some c → c.outcome = some (st, r) → (∀ d, d ∈ c.after → s.cmdOf d = none) → s.badLines = [] → c.block + 48 ≤ 2 ^ 40 →
      ∃ u, exec (.commandComplete cmd) s = .next u ∧ u.cmdOf cmd = none
      ∧ u.dev.read (c.block + 32) 4 = 2 ∧ u.dev.read (c.block + 36) 4 = st % 2 ^ 32 ∧ u.dev.read (c.block + 40) 8 = r.toNat
      ∧ OnlyBytes s u .dev (c.block + 32) 16
      ∧ (c.flags.testBit 0 = true → ∀ v x, s.vdOf c.vd = some v → v.vectors[c.sigvec]? = some x →
          ∃ v' x', u.vdOf c.vd = some v' ∧ v'.vectors[c.sigvec]? = some x' ∧ x'.pending = true))
  ∧ (∀ c v s, runs s 0 c v → ∃ u, exec .nopCmd s = .next u ∧ ended u c 0 0 ∧ SameMemory s u)
  ∧ (∀ c v s, runs s 1 c v → c.field 92 1 ≤ 7 → c.field 93 1 < 4 → c.field 64 8 % 65536 = 0 → c.field 64 8 < 768000000000 → c.field 72 8 < 2 ^ 55 →
      c.field 72 8 + c.field 80 8 ≤ 2 ^ 55 → s.contexts.length < Config.contextCapacity → ∃ u x, exec .createContext s = .next u ∧ x ∈ u.contexts
      ∧ u.contexts.length = s.contexts.length + 1 ∧ ended u c 0 x.id ∧ s.lastCtx < x.id ∧ u.lastCtx = x.id ∧ x.vd = v.num ∧ x.root = c.field 64 8
      ∧ x.saveBase = c.field 72 8 ∧ x.saveSize = c.field 80 8 ∧ x.watchdog = c.field 88 4 ∧ x.maxPrio = c.field 92 1 ∧ x.killed = false
      ∧ x.castOk = (c.field 93 1).testBit 0 ∧ x.pairedOk = (c.field 93 1).testBit 1 ∧ SameMemory s u)
  ∧ (∀ c v x s, runs s 2 c v → s.ctxOf c.ctx = some x → ∃ u, exec .destroyContext s = .next u ∧ SameMemory s u
      ∧ ((∀ t, t ∈ s.tasks → t.ctx = c.ctx → t.ready = false) → x.killing = false ∨ x.killed = true →
          ended u c 0 0 ∧ u.ctxOf c.ctx = none ∧ (∀ t, t ∈ u.tasks ↔ t ∈ s.tasks ∧ t.ctx ≠ c.ctx))
      ∧ ((∃ t, t ∈ s.tasks ∧ t.ctx = c.ctx ∧ t.ready = true) → ended u c 5 0 ∧ u.tasks = s.tasks))
  ∧ (∀ c v x e s, runs s 3 c v → s.ctxOf c.ctx = some x → v.iface = .unlocked → s.badLines = [] →
      (let va := c.field 64 8
       let pa := c.field 72 8
       let pkg := c.field 88 2
       c.field 80 8 = 65536 → c.field 90 1 = 0 → c.field 91 1 ≤ 7 → pkg ≤ 0x3FF → va + 65536 ≤ 2 ^ 55 → va % 65536 = 0 → pa % 65536 = 0 →
       pa + 65536 ≤ 2 ^ 40 → (pkg = 0x3FF ∨ pkg = s.pkg.toNat → v.inWindow pa 65536 = true) → s.leafAt x.root va = none → s.entryAt x.root va 3 = some e →
       ∃ u, exec .map s = .next u ∧ ended u c 0 0 ∧ u.dev.read e 8 = pkg * 2 ^ 40 + pa + 4 * c.field 91 1 + 3 ∧ OnlyBytes s u .dev e 8))
  ∧ (∀ c v x e s, runs s 4 c v → s.ctxOf c.ctx = some x → c.phase = 0 → s.badLines = [] →
      (let va := c.field 64 8
       c.field 72 8 = 65536 → va + 65536 ≤ 2 ^ 55 → va % 65536 = 0 → s.leafAt x.root va = some 3 → s.entryAt x.root va 3 = some e →
       ∃ u, exec .unmap s = .next u ∧ u.dev.read e 8 = 0 ∧ OnlyBytes s u .dev e 8
        ∧ (∀ l, l ∈ u.dieLeaves → l.2.ctx = c.ctx → l.2.level = 3 → l.2.page ≠ va / 65536)
        ∧ (s.rangeBusy c.ctx va 65536 = false → ended u c 0 0) ∧ (s.rangeBusy c.ctx va 65536 = true → goes u c)))
  ∧ (∀ c v r st idx s, runs s 5 c v → (s.noteWork c.ctx).launchAt c.asker c.die c.ctx (c.field 64 8) = (r, .ok (st, idx)) →
      ∃ u, exec .launchTask s = .next u ∧ ended u c st (if st = 0 then 4096 * c.die + idx else 0) ∧ u.tasks = r.tasks ∧ SameMemory s u)
  ∧ (∀ c v r e s, runs s 5 c v → (s.noteWork c.ctx).launchAt c.asker c.die c.ctx (c.field 64 8) = (r, .error e) →
      ∃ u, exec .launchTask s = .next u ∧ u.tasks = s.tasks ∧ SameMemory s u ∧ (e.later = true → goes u c)
        ∧ (e.later = false → ended u c (if e.cause = 0x1C then stFabric else if e.cause = 0x16 then stConfig else stFault) 0))
  ∧ (∀ c v s, runs s 6 c v → c.field 88 1 ≤ 2 → c.field 89 2 ≤ 0x3FF → c.field 91 2 ≤ 0x3FF → ∃ u, exec .hostCopy s = .next u ∧ SameMemory s u
      ∧ (c.field 80 8 = 0 → ended u c 0 0) ∧ (c.field 80 8 ≠ 0 → goes u c))
  ∧ (∀ cmd c v data s' s,
      (let n := min (2 ^ 20) (c.field 80 8 - c.copied)
       s.cmdOf cmd = some c → s.vdOf c.vd = some v → v.pausing = false → v.paused = none → c.code = 6 → c.phase ≠ 0 → c.outcome = none → s.zeroed = [] →
       (c.field 88 1 = 0 → data.length = n) → s.copyPiece c n data = (s', none) → ∃ u d, exec (.hostCopyPiece cmd data none) s = .next u
        ∧ u.dev = s'.dev ∧ u.out = s'.out ∧ u.cmdOf cmd = some d ∧ d.copied = c.copied + n
        ∧ (c.field 80 8 ≤ c.copied + n → d.outcome = some (0, BitVec.ofNat 64 (c.copied + n))) ∧ (c.copied + n < c.field 80 8 → d.outcome = none)
        ∧ (c.field 88 1 = 1 → ∀ r bs, s.readRange c.asker (dieCore c.die) c.ctx (c.field 64 8 + c.copied) n = (r, .ok bs) →
            u.out = s.out ++ [.hostData (BitVec.ofNat 10 (c.field 91 2)) (BitVec.ofNat 64 (c.field 72 8 + c.copied)) bs])))
  ∧ (∀ c v s, runs s 7 c v → ∃ u, exec .fence s = .next u ∧ ended u c 0 0 ∧ SameMemory s u)
  ∧ (∀ c v x s, runs s 9 c v → s.ctxOf c.ctx = some x → ∃ u, exec .killContext s = .next u ∧ SameMemory s u
      ∧ (x.killed = true → ended u c 0 0)
      ∧ (x.killed = false → x.killing = false → goes u c ∧ ∃ y, u.ctxOf c.ctx = some y ∧ y.killing = true))
  ∧ (∀ ctx x s, s.ctxOf ctx = some x → x.killing = true → x.killed = false → s.quiescent ctx = true →
      ∃ u y, exec (.writeQuiescence ctx) s = .next u ∧ u.ctxOf ctx = some y ∧ y.killed = true ∧ (∀ w, w ∈ u.warps → w.ctx ≠ ctx)
      ∧ (∀ t, t ∈ u.tasks → t.ctx ≠ ctx) ∧ ∀ j, j ∈ u.jobs → j.ctx ≠ ctx)
  ∧ (∀ c v s s1 s2 s3 s4 shs data, runs s 10 c v → s.ctxBusy c.ctx = false →
      (let core := dieCore c.die
       let len := shs.foldl (fun n sh => n + tensorBytes sh) 128
       (s.noteWork c.ctx).tensors c.asker core c.ctx (c.field 64 8) (c.field 72 4) = (s1, .ok shs) → len ≤ c.field 88 8 →
       s1.tensorData c.asker core c.ctx shs = (s2, .ok data) → s2.writeRange c.asker core c.ctx (c.field 80 8 + 128) data = (s3, none) →
       s3.writeRange c.asker core c.ctx (c.field 80 8)
        (leBytes 4 1 ++ leBytes 4 shs.length ++ leBytes 8 len ++ leBytes 8 (s.guestTime v).toNat ++ leBytes 40 0 ++ sha512 data) = (s4, none) →
       ∃ u, exec .checkpointExport s = .next u ∧ ended u c 0 len ∧ u.dev = s4.dev))
  ∧ (∀ c v s s1 s2 s3 s4 shs h data, runs s 11 c v → s.ctxBusy c.ctx = false →
      (let core := dieCore c.die
       (s.noteWork c.ctx).tensors c.asker core c.ctx (c.field 72 8) (c.field 80 4) = (s1, .ok shs) →
       s1.readRange c.asker core c.ctx (c.field 64 8) 128 = (s2, .ok h) → leAt h 0 4 = 1 → leAt h 4 4 = shs.length →
       leAt h 8 8 = shs.foldl (fun n sh => n + tensorBytes sh) 128 →
       s2.readRange c.asker core c.ctx (c.field 64 8 + 128) (leAt h 8 8 - 128) = (s3, .ok data) → h.drop 64 = sha512 data → entriesMatch shs data = true →
       s3.placeTensors c.asker core c.ctx shs data = (s4, none) →
       ∃ u, exec .checkpointImport s = .next u ∧ ended u c 0 0 ∧ u.dev = s4.dev ∧ u.spad = s4.spad))
  ∧ (∀ c v s, runs s 12 c v → s.change = none → c.field 65 1 ≤ 1 → 0 < c.field 68 4 → (∀ p, s.partOf v.pid = some p → s.saveTime p.desc ≤ c.field 68 4) →
      ∃ u, exec .setSlice s = .next u ∧ ended u c 0 0 ∧ SameMemory s u
      ∧ u.vdOf c.vd = some { v with weight := c.field 64 1, quantum := c.field 68 4, wall := c.field 65 1 == 1 })
  ∧ ∀ e ∈ ([(.queryFigures, 0, fun _ _ => packageFigures), (.queryPortWidth, 1, fun s _ => s.portWidths),
            (.querySaveTime, 2, fun s v => [match s.partOf v.pid with | some p => s.saveTime p.desc | none => 0]),
            (.queryRetired, 3, fun s _ => s.retiredList), (.queryRevision, 4, fun _ _ => [Config.revision.toNat]),
            (.queryTime, 5, fun s v => [(s.guestTime v).toNat])] : List (Instr × Nat × (State → VDev → List Nat))),
      ∀ c v s, runs s 13 c v → c.field 64 2 = e.2.1 → s.change = none → s.badLines = [] →
        (let bs := queryBytes e.2.1 (e.2.2 s v)
         bs.length ≤ c.field 80 4 → v.inWindow (c.field 72 8) bs.length = true → ∃ u, exec e.1 s = .next u ∧ ended u c 0 bs.length
          ∧ OnlyBytes s u .dev (c.field 72 8) bs.length ∧ ∀ i b, bs[i]? = some b → u.dev.byte (c.field 72 8 + i) = b)

/-- SIGNAL_ON sets a vector's target, masks and unmasks it, and arms it for a task or a word (02 R35); a pending vector that is not masked is written
to its target (02 R36); and the oldest record of an event queue acts by its tag (08 R470). -/
def Obligations.SignalEvents : Prop :=
  let runs (s : State) (op : Nat) (c : JrfCommand) (v : VDev) : Prop :=
    s.running 8 = some (c, v) ∧ s.barred c v = none ∧ s.zeroed = [] ∧ c.field 64 1 = op ∧ c.field 65 1 ≤ 63
  let ended (u : State) (c : JrfCommand) (st : Nat) : Prop := ∃ d, u.cmdOf c.uid = some d ∧ d.outcome = some (st, 0)
  let vector (s u : State) (vd k : Nat) (f : Vector → Vector) : Prop :=
    ∀ v, s.vdOf vd = some v → ∃ v', u.vdOf vd = some v' ∧ v' = { v with vectors := v'.vectors }
      ∧ ∀ i, v'.vectors[i]? = if i = k then (v.vectors[i]?).map f else v.vectors[i]?
  (∀ c v s, runs s 0 c v → v.iface = .unlocked → c.field 80 2 ≤ 0x3FF → c.field 88 8 < 2 ^ 56 → ∃ u, exec .signalOnSetTarget s = .next u ∧ SameMemory s u
    ∧ ended u c 0 ∧ vector s u c.vd (c.field 65 1) (fun x =>
        { x with target := BitVec.ofNat 64 (c.field 72 8), pkg := BitVec.ofNat 10 (c.field 80 2), cookie := BitVec.ofNat 56 (c.field 88 8) }))
  ∧ (∀ e ∈ ([(.signalOnSetMask, 1, true), (.signalOnClearMask, 2, false)] : List (Instr × Nat × Bool)), ∀ c v s, runs s e.2.1 c v →
      ∃ u, exec e.1 s = .next u ∧ SameMemory s u ∧ ended u c 0 ∧ vector s u c.vd (c.field 65 1) (fun x => { x with mask := e.2.2 }))
  ∧ (∀ c v s, runs s 3 c v → c.field 96 8 < 2 ^ 14 → v.arms.length < 256 → ∃ u, exec .signalOnTaskArm s = .next u ∧ SameMemory s u ∧ ended u c 0
      ∧ u.vdOf c.vd = some { v with arms := v.arms ++ [.task (c.field 65 1) (c.field 96 8 / 4096) (c.field 96 8 % 4096)] })
  ∧ (∀ c v key value met s, runs s 4 c v → c.field 96 8 % 8 = 0 → v.arms.length < 256 → c.watch = some (key, value, met) → keyRemote key = none →
      ∃ u, exec .signalOnWordArm s = .next u ∧ SameMemory s u ∧ ended u c 0
      ∧ (met = true → vector s u c.vd (c.field 65 1) (fun x => { x with pending := true }))
      ∧ (met = false → u.vdOf c.vd = some { v with arms := v.arms ++ [.word (c.field 65 1) key value] }))
  ∧ (∀ c v s, runs s 4 c v → c.field 96 8 % 8 = 0 → c.watch = none → ∃ u, exec .signalOnWordArm s = .next u ∧ SameMemory s u ∧ ended u c stFault)
  ∧ (∀ vd k v x s, s.vdOf vd = some v → v.vectors[k]? = some x → k < 64 → x.pending = true → x.mask = false → x.target ≠ 0 → v.paused = none →
      s.change = none → s.badLines = [] → ∃ u v' x', exec (.signalWrite vd k) s = .next u ∧ u.vdOf vd = some v' ∧ v'.vectors[k]? = some x' ∧ x'.pending = false
      ∧ (x.pkg = 0x3FF ∨ x.pkg = s.pkg → u.dev.read x.target.toNat 8 = x.cookie.toNat * 256 + k ∧ OnlyBytes s u .dev x.target.toNat 8 ∧ u.out = s.out)
      ∧ (x.pkg ≠ 0x3FF → x.pkg ≠ s.pkg → SameMemory s u
          ∧ u.out = s.out ++ [.signal x.pkg x.target (BitVec.ofNat 64 (x.cookie.toNat * 256 + k))]))
  ∧ ∀ die r pre post s, s.events = pre ++ (die, r) :: post → (∀ e, e ∈ pre → e.1 ≠ die) → ∃ u, exec (.eventRecord die) s = .next u
      ∧ u.events = pre ++ post ∧ SameMemory s u
      ∧ (let tag := r.tag.toNat
         (r.cause = 0 → tag / 2 ^ 62 = 2 → ∀ x, s.ctxOf r.ctx = some x → vector s u x.vd (tag % 64) (fun x => { x with pending := true }))
          ∧ (r.cause = 0 → tag / 2 ^ 62 = 1 → ∀ p t, s.partOfCtx r.ctx = some p → onDie p.desc (tag / 2 ^ 12 % 4) = true →
              s.taskOf (tag / 2 ^ 12 % 4) (tag % 4096) = some t → tag / 2 ^ 16 % 2 ^ 32 < t.counter →
              u.taskOf (tag / 2 ^ 12 % 4) (tag % 4096) = some { t with counter := t.counter - tag / 2 ^ 16 % 2 ^ 32 })
          ∧ (r.cause = 0 → tag / 2 ^ 62 = 0 ∨ tag / 2 ^ 62 = 3 → u = { s with events := pre ++ post }))

/-- A layout change is committed, its tick is named once its clusters are quiet within 1 ms, it takes effect at the first edge of that tick with what a partition
gains zeroed, or is abandoned (03 R51 to R53). A margin cluster without work of its owner is idle after 64 heartbeats, is lent zeroed and claimed back
zeroed (03 R46 to R50). A slice that is over charges its device and hands on (03 R56, R57; all of it by the weight at its end, log 67). -/
def Obligations.PartitionEvents : Prop :=
  let zeroed (u : State) (k : Nat) : Prop :=
    ∀ i, i < 14 * 262144 → u.bmem.byte (14 * k * 262144 + i) = 0 ∧ u.banks.byte (bankBase (14 * k) 0 + i) = 0
  let edge (s : State) : Prop := s.pkg = s.root ∨ s.routed = false ∨ (s.joined = true ∧ s.locked = true ∧ s.hb.toNat < s.rootHb.toNat)
  let untouched (s u : State) (k : Nat) : Prop := (∀ j, j ∈ s.jobs → j.cluster ≠ k) → u.spad = s.spad ∧ u.versions = s.versions ∧ u.dev = s.dev
  (∀ parts ahead s, s.change = none → s.life ≠ .retired →
    (let fits : Prop := tableBad (mergeParts (s.parts.map (fun p => p.desc)) parts) = false ∧ 16 ≤ ahead.toNat
        ∧ s.unmapsMemory (mergeParts (s.parts.map (fun p => p.desc)) parts) = false ∧ s.outgrowsSlice parts = false
     (fits → exec (.layoutCommit parts ahead) s =
        .next { s with change := some { parts, ahead, since := s.ns, tick := none }, out := s.out ++ [.ok] })
      ∧ (¬ fits → exec (.layoutCommit parts ahead) s = .next { s with out := s.out ++ [.error] })))
  ∧ (∀ c s, s.change = some c → c.tick = none → (s.ns - c.since).toNat ≤ 1000000 →
      (s.changeQuiet c = true → exec .layoutSwap s = .next { s with change := some { c with tick := some (s.hb + c.ahead) } })
        ∧ (s.changeQuiet c = false → exec .layoutSwap s = .next s) ∧ exec .layoutAbandon s = .next s)
  ∧ (∀ c t s, s.change = some c → c.tick = some t → t.toNat ≤ (s.hb + 1).toNat → edge s → ∃ u, exec .heartbeatTick s = .next u ∧ u.change = none
      ∧ u.hb = s.hb + 1 ∧ u.parts.map (fun p => p.desc) = mergeParts (s.parts.map (fun p => p.desc)) c.parts
      ∧ ∀ d r i k, d ∈ c.parts → r ∈ d.hbm → i < r.2 → k < 65536 → (∀ p, s.partOf d.pid = some p → within p.desc.hbm (r.1 + i) 1 = false) →
          u.dev.byte (65536 * (r.1 + i) + k) = 0)
  ∧ (∀ c t s, s.change = some c → c.tick = some t → (s.hb + 1).toNat < t.toNat → edge s → ∃ u, exec .heartbeatTick s = .next u ∧ u.change = s.change
      ∧ u.parts = s.parts ∧ SameMemory s u)
  ∧ (∀ c s, s.change = some c → c.tick = none → 1000000 < (s.ns - c.since).toNat → exec .layoutAbandon s = .next { s with change := none }
      ∧ exec .layoutSwap s = .next s)
  ∧ (∀ k m s, s.marginOf k = some m → s.change = none → edge s → ∃ u, exec .heartbeatTick s = .next u ∧ u.marginOf k = some (
      let now := s.watchAll.ownerBusy k
      if m.lentTo.isSome = true then m else if m.busy = true ∨ now = true then { m with quiet := 0, busy := now, idle := false }
      else { m with quiet := m.quiet + 1 }))
  ∧ (∀ k m s, s.marginOf k = some m → m.lentTo = none → 64 ≤ m.quiet → m.busy = false → s.ownerBusy k = false →
      ∃ u, exec (.marginIdle k) s = .next u ∧ u = { s with margins := u.margins } ∧ u.marginOf k = some { m with idle := true })
  ∧ (∀ k m p q s, s.marginOf k = some m → s.marginOwner k = some p → m.idle = true → m.busy = false → m.lentTo = none → s.ownerBusy k = false →
      s.clusterIdle k = true → s.leaving k = false → lowestPart (s.parts.filter (s.mayBorrow p.desc k)) = some q →
      ∃ u, exec (.clusterLend k) s = .next u ∧ zeroed u k
      ∧ u.marginOf k = some { m with idle := false, lentTo := some q.desc.pid, claimed := false } ∧ untouched s u k)
  ∧ (∀ k m p pid s, s.marginOf k = some m → s.marginOwner k = some p → m.lentTo = some pid → m.claimed = true ∨ s.wouldClaim p.desc.pid k = true →
      ∃ u, exec (.clusterClaim k) s = .next u
      ∧ ((∃ b, b ∈ u.blocks ∧ b.cores.any (inCluster k) = true) → u.marginOf k = some { m with claimed := true })
      ∧ ((∀ b, b ∈ s.blocks → b.cores.any (inCluster k) = false) → s.clusterIdle k = true → zeroed u k ∧ untouched s u k
          ∧ u.marginOf k = some { m with idle := false, lentTo := none, claimed := false, quiet := 0, busy := false }))
  ∧ ∀ pid p s, s.partOf pid = some p → s.sliceOver p = true → ∃ u p', exec (.timeSliceSwitch pid) s = .next u ∧ SameMemory s u
      ∧ u.partOf pid = some p' ∧ p'.desc = p.desc ∧ p'.since = s.ns ∧ p'.running = ((s.charge p).nextDevice p).map (fun v => v.num)
      ∧ ∀ n v, p.running = some n → s.vdOf n = some v → ∃ v', u.vdOf n = some v' ∧ v' = { v with vtime := v'.vtime }
          ∧ (v.weight = 0 → v'.vtime = v.vtime) ∧ (v.weight ≠ 0 → v'.vtime = v.vtime + (s.ns - p.since).toNat * vtimeUnit / v.weight)

/-- Creation, configuration, pause, resumption, migration and reset of virtual devices (03 R54, R59 to R64; 02 R26, R43), the trusted interface (03
R66 to R69), attestation (03 R70 to R73), and the error log and queries of a retired package (11 R258; 03 R74). -/
def Obligations.DeviceEvents : Prop :=
  let sends (s u : State) (m : Message) : Prop := u = { s with out := s.out ++ [m] }
  let focused (s : State) (v : VDev) : Prop := s.vdOf s.focus = some v
  (∀ spec p s, s.partOf spec.pid = some p → s.life ≠ .retired → spec.num ≤ 15 → s.vdOf (16 * spec.pid + spec.num) = none → spec.dies.length ≤ 16 →
    (∀ d, d ∈ spec.dies → d ≤ 3) → spec.configAt % 64 = 0 → spec.configAt + 2048 ≤ 768000000000 →
    ∃ u v, exec (.createVirtualDevice spec) s = .next u ∧ u.vdOf (16 * spec.pid + spec.num) = some v
      ∧ u.out = s.out ++ [.queues spec.host ((List.range spec.dies.length).map (fun i => spec.configAt + 128 * i)), .ok]
      ∧ v.pausing = false ∧ v.pid = spec.pid ∧ v.host = spec.host ∧ v.iface = .unlocked ∧ v.paused = none ∧ v.queues.length = spec.dies.length ∧ v.weight = 1
      ∧ (∀ w, w ∈ v.windows → w = (0, 0))
      ∧ ∀ i die, spec.dies[i]? = some die → v.queues[i]? = some { desc := spec.configAt + 128 * i, die, enable := true }
          ∧ u.dev.read (spec.configAt + 128 * i) 8 = spec.configAt + 128 * i + 64 ∧ u.dev.read (spec.configAt + 128 * i + 8) 8 = spec.configAt + 128 * i + 64
          ∧ u.dev.read (spec.configAt + 128 * i + 96) 4 = 2)
  ∧ (∀ vd k len value v p s, s.vdOf vd = some v → s.partOf v.pid = some p → k ≤ 15 →
      (let old := v.windows.getD k (0, 0)
       let new := if len then (old.1, value) else (value, old.2)
       ∃ u, exec (.windowRegisterWrite vd k len value) s = .next u ∧ SameMemory s u
        ∧ (v.iface = .unlocked → windowInside p.desc new = true → (len = true → value.toNat < 2 ^ 24) →
            (len = false → bitField value 0 16 = 0 ∧ bitField value 40 19 = 0 ∧ bitField value 61 2 ≤ 1) →
            u.vdOf vd = some { v with windows := modifyAt (fun _ => new) k v.windows })
        ∧ (v.iface = .locked ∨ v.iface = .run → ∃ v', u.vdOf vd = some v' ∧ v'.iface = .error ∧ v'.windows = v.windows)
        ∧ (v.iface = .error → u = s)))
  ∧ (∀ vd v k q s, s.vdOf vd = some v → v.iface = .unlocked → v.queues[k]? = some q → s.badLines = [] →
      (∀ die enable, die ≤ 3 → ∃ u v', exec (.configRegionWrite vd (.queue k die enable)) s = .next u ∧ u.vdOf vd = some v'
        ∧ v'.queues[k]? = some { q with die, enable } ∧ u.dev.read (q.desc + 16) 1 = die ∧ u.dev.read (q.desc + 17) 1 = (if enable then 1 else 0)
        ∧ OnlyBytes s u .dev (q.desc + 16) 2)
      ∧ ∀ pa, pa % 64 = 0 → pa + 128 ≤ 768000000000 → ∃ u v', exec (.configRegionWrite vd (.queueAddress k pa)) s = .next u ∧ u.vdOf vd = some v'
        ∧ v'.queues[k]? = some { q with desc := pa } ∧ u.dev.read pa 8 = pa + 64 ∧ u.dev.read (pa + 8) 8 = pa + 64 ∧ u.dev.read (pa + 96) 4 = 2
        ∧ OnlyBytes s u .dev pa 128)
  ∧ (∀ vd v k x addr pkg cookie s, s.vdOf vd = some v → v.iface = .unlocked → v.vectors[k]? = some x →
      ∃ u v', exec (.configRegionWrite vd (.target k addr pkg cookie)) s = .next u ∧ SameMemory s u ∧ u.vdOf vd = some v'
        ∧ v'.vectors[k]? = some { x with target := addr, pkg, cookie })
  ∧ (∀ vd v s, s.vdOf vd = some v → v.paused = none → ∃ u v', exec (.pauseDevice vd) s = .next u ∧ u.vdOf vd = some v'
      ∧ (u.deviceBlocks vd ≠ [] → v'.pausing = true ∧ v'.paused = none)
      ∧ (s.deviceBlocks vd = [] → (∀ c, c ∈ s.commands → c.vd = vd → c.code = 6 → s.midPiece c = false) →
          v'.paused = some (s.ns + v.timeOff) ∧ v'.pausing = false ∧ v'.pausedHb = s.hb ∧ u.out = s.out ++ [.ok]))
  ∧ (∀ vd v t s, s.vdOf vd = some v → v.paused = some t → ∃ u v', exec (.resumeDevice vd) s = .next u ∧ SameMemory s u ∧ u.vdOf vd = some v'
      ∧ v' = { v with paused := none, timeOff := v'.timeOff, away := none, gained := false, vtime := v'.vtime } ∧ u.out = s.out ++ [.ok]
      ∧ (v.gained = false → v'.vtime = v.vtime)
      ∧ (let d : BitVec 64 := v.away.getD ((s.hb - v.pausedHb) * 128)
         s.ns + v'.timeOff = if v.wall = true ∧ t.toNat < (t + d).toNat then t + d else t + 1))
  ∧ (∀ vd dest v p s, dest.pkg ≠ s.pkg → s.vdOf vd = some v → s.partOf v.pid = some p → v.paused ≠ none → dest.stepping = Config.stepping → v.iface = .unlocked ∨ v.iface = .error → dest.room = true →
      dest.tasksFree = true → (∀ c, c ∈ s.contexts → c.vd = vd → s.quiescent c.id = true) → ∃ u, exec (.migrateDevice vd dest) s = .next u
      ∧ SameMemory s u ∧ u.vdOf vd = none ∧ (∀ c, c ∈ u.contexts ↔ c ∈ s.contexts ∧ c.vd ≠ vd) ∧ u.out = s.out ++ [.device dest.pkg (s.deviceImage v p.desc), .ok])
  ∧ (∀ vd dest x xs s, dest.pkg = s.pkg → s.arrived = x :: xs →
      (({ s with arrived := xs } : State).arrive vd x = none → exec (.migrateDevice vd dest) s = .next { s with out := s.out ++ [.error] })
      ∧ ∀ r, ({ s with arrived := xs } : State).arrive vd x = some r → ∃ u v', exec (.migrateDevice vd dest) s = .next u ∧ u.arrived = xs
          ∧ s.vdOf vd = none ∧ u.vdOf vd = some v' ∧ v'.pid = vd / 16 ∧ v'.paused = none ∧ v'.iface = x.vd.iface
          ∧ (∀ c, c ∈ x.contexts → s.ctxOf c.id = none ∧ ∃ y, u.ctxOf c.id = some y ∧ y.vd = vd)
          ∧ u.out = s.out ++ [.queues x.vd.host (v'.queues.map (fun q => q.desc)), .ok])
  ∧ (∀ e ∈ ([(fun vd => Instr.virtualDeviceReset vd, false), (fun _ => Instr.stopInterfaceRequest, true)] : List ((Nat → Instr) × Bool)),
      ∀ vd v s, s.vdOf vd = some v → (e.2 = true → s.focus = vd ∧ v.iface ≠ .unlocked) → s.change = none → (∀ c, c ∈ s.contexts → c.vd ≠ vd) →
      ∃ u v', exec (e.1 vd) s = .next u ∧ u.vdOf vd = some v' ∧ v'.iface = .unlocked ∧ v'.arms = [] ∧ v'.digest = leBytes 64 0
        ∧ (∀ x, x ∈ v'.vectors → x.mask = false ∧ x.pending = false) ∧ v'.windows = v.windows ∧ u.out = s.out ++ [.ok])
  ∧ (∀ v s, focused s v → ∃ u, exec .lockInterfaceRequest s = .next u ∧ SameMemory s u
      ∧ (v.iface = .unlocked → (∀ c, c ∈ s.contexts → c.vd ≠ v.num) → u.out = s.out ++ [.ok]
          ∧ u.vdOf s.focus = some { v with iface := .locked, digest := sha512 (s.configBytes v) })
      ∧ (v.iface ≠ .unlocked → sends s u .error))
  ∧ (∀ v s, focused s v → ∃ u, exec .startInterfaceRequest s = .next u ∧ SameMemory s u
      ∧ (v.iface = .locked → u.out = s.out ++ [.ok] ∧ u.vdOf s.focus = some { v with iface := .run }) ∧ (v.iface ≠ .locked → sends s u .error))
  ∧ (∀ v s, focused s v → ∃ u, exec .getDeviceInterfaceState s = .next u ∧ sends s u (.state v.iface))
  ∧ (∀ v s, focused s v → ∃ u, exec .getDeviceInterfaceReport s = .next u
      ∧ sends s u (if s.identity = true ∧ v.session = true then .report (s.report v) (Config.sign (sha512 (s.report v))) else .error))
  ∧ (∀ v s, focused s v → ∃ u v', exec .securedSessionFail s = .next u ∧ SameMemory s u ∧ u.vdOf s.focus = some v' ∧ v'.session = false
      ∧ v'.iface = (if v.iface = .locked ∨ v.iface = .run then .error else v.iface))
  ∧ (∀ e ∈ ([(.getVersion, 0), (.getCapabilities, 1)] : List (Instr × Nat)),
      (∀ v s, focused s v → s.life ≠ .retired → ∃ u, exec e.1 s = .next u ∧ sends s u (.bytes (spdmAnswer e.2 v)))
        ∧ ∀ s, s.life = .retired → ∃ u, exec e.1 s = .next u ∧ sends s u (.bytes (Config.spdmBody e.2 [])))
  ∧ (∀ v s, focused s v → ∃ u, exec .negotiateAlgorithms s = .next u ∧ sends s u (.algorithms [.ed25519, .sha512, .ecdhP384, .aes256Gcm]))
  ∧ (∀ v s, focused s v → s.identity = true →
      (∃ u, exec .getDigests s = .next u ∧ sends s u (.digests (sha512 Config.certificates)))
        ∧ (∃ u, exec .getCertificate s = .next u ∧ sends s u (.bytes Config.certificates))
        ∧ (∃ u, exec .challenge s = .next u ∧ sends s u (.signed (spdmAnswer 5 v) (Config.sign (sha512 (spdmAnswer 5 v)))))
        ∧ ∃ u, exec .keyExchange s = .next u ∧ SameMemory s u ∧ u.vdOf s.focus = some { v with exchanged := true }
            ∧ u.out = s.out ++ [.signed (spdmAnswer 7 v) (Config.sign (sha512 (spdmAnswer 7 v)))])
  ∧ (∀ v s, focused s v → s.identity = false → ∀ i ∈ [Instr.getDigests, .getCertificate, .challenge, .keyExchange],
      ∃ u, exec i s = .next u ∧ sends s u .error)
  ∧ (∀ v s, focused s v → ∃ u, exec .getMeasurements s = .next u ∧ sends s u (.digests (s.measurements v)))
  ∧ (∀ v s, focused s v → ∃ u, exec .finish s = .next u ∧ SameMemory s u
      ∧ (v.exchanged = true → u.vdOf s.focus = some { v with exchanged := false, session := true } ∧ u.out = s.out ++ [.bytes (spdmAnswer 8 v)])
      ∧ (v.exchanged = false → sends s u .error))
  ∧ (∀ v s, focused s v → v.session = true → ∃ u v', exec .endSession s = .next u ∧ SameMemory s u ∧ u.vdOf s.focus = some v' ∧ v'.session = false
      ∧ v'.iface = (if v.iface = .locked ∨ v.iface = .run then .error else v.iface) ∧ u.out = s.out ++ [.bytes (spdmAnswer 9 v)])
  ∧ (∀ v s, focused s v → v.session = true → ∃ u, exec .keyUpdate s = .next u ∧ sends s u (.bytes (spdmAnswer 10 v)))
  ∧ (∀ v s, focused s v → ∃ u, exec .errorLogRead s = .next u ∧ sends s u (.log v.log))
  ∧ ∀ item s, s.life = .retired → ∃ u, exec (.queryItem item) s = .next u ∧ sends s u
      (if item = 0 then .bytes (queryBytes 0 packageFigures) else if item = 3 then .bytes (queryBytes 3 s.retiredList)
       else if item = 4 then .bytes (queryBytes 4 [Config.revision.toNat]) else .error)

/-- A block starts whole on the set that the scheduler places it on, with its warps, quads and parameters as R118 and R119 give (04 R85 to R88; 05
R115). A task whose blocks are done leaves its entry, and its successors' counters fall (04 R79 to R81). A pipeline moves one core toward a
queue that is full or empty (04 R84). A block that makes room is saved whole in its slot and restored from it (04 R92 to R95), and one that cannot
be restored stops its stage (R99). The watchdog traps the warps of a context (04 R100). -/
def Obligations.SchedulingEvents : Prop :=
  (∀ e ∈ ([(.blockStart, true), (.consumerBlockStart, false)] : List ((Nat → Nat → Nat → Instr) × Bool)), ∀ die idx stage w set s,
    (stage = 0 ↔ e.2 = true) → s.wanted die idx stage = some w → w.saved = none → s.placement w = some set →
    (let d := w.desc
     let places := s.warpSlots d w.task.rec'.paired set
     ∃ u b, exec (e.1 die idx stage) s = .next u ∧ u.blocks = s.blocks ++ [b] ∧ b.uid = s.uids ∧ b.die = w.task.die ∧ b.task = w.task.idx
      ∧ b.stage = stage ∧ b.index = w.index ∧ b.cores = set ∧ b.bmem = d.bmem ∧ b.nwarp = d.nwarp ∧ b.tags = []
      ∧ (∃ t t' g g', s.taskOf die idx = some t ∧ u.taskOf die idx = some t' ∧ t.stages[stage]? = some g ∧ t'.stages[stage]? = some g'
          ∧ g'.next = g.next + 1)
      ∧ u.warps.length = s.warps.length + places.length
      ∧ (∀ i p, places[i]? = some p → ∃ v, u.warps[s.warps.length + i]? = some v ∧ v.uid = s.uids + 1 + i ∧ v.block = b.uid ∧ v.ctx = w.task.ctx
          ∧ v.wid = p.1 ∧ v.core = set.getD (p.1 % max 1 d.cores) 0 ∧ v.slot = p.2 ∧ v.nreg = 8 * d.vregs ∧ v.nureg = d.uregs ∧ v.ended = false
          ∧ v.wctl = startWctl w.task.rec' ∧ v.wstat = 0 ∧ v.inTrap = false ∧ v.trap.tbase = 0
          ∧ (∀ n l, v.regs.vec n l = 0) ∧ (∀ n, v.regs.uni n = if n < 16 then w.task.params.getD n 0 else 0)
          ∧ (∀ q, q < 8 → (v.quad q).path.pc = BitVec.ofNat 55 (w.task.rec'.code + d.entry) ∧ (v.quad q).path.stack = []
              ∧ (v.quad q).path.active = (v.quad q).path.living ∧ (v.quad q).park = .running)
          ∧ ∀ l, l < 32 → ((v.quad (l / 4)).path.living.getLsbD (l % 4) = decide (32 * v.wid + 4 * (l / 4) < d.threads))
              ∧ (v.helper.getLsbD l = decide (32 * v.wid + 4 * (l / 4) < d.threads ∧ d.threads ≤ 32 * v.wid + l)))
      ∧ (Sound s → d.cores = 1 → d.bmem ≤ 262144 → ∀ i, 4 * i + 4 ≤ d.bmem →
          u.bmem.read (b.key (4 * i)) 4 = (w.task.params.getD (i + 16) 0).toNat)))
  ∧ (∀ die idx t c s, s.taskOf die idx = some t → s.ctxOf t.ctx = some c → c.killing = false → c.killed = false → t.finished = true →
      s.taskBusy die idx = false →
      (let next : List (Nat × Nat) := (t.rec'.succ.take t.rec'.nsucc).map (fun v => (bitField v 12 2, bitField v 0 12))
       ∃ u, exec (.taskComplete die idx) s = .next u ∧ SameMemory s u
        ∧ (∀ x, x ∈ u.tasks → ¬(x.die = die ∧ x.idx = idx ∧ x.order = t.order))
        ∧ ((∀ p x, p ∈ next → s.taskOf p.1 p.2 = some x → next.count p < x.counter) →
            ∀ p x, p ≠ (die, idx) → s.taskOf p.1 p.2 = some x → u.taskOf p.1 p.2 = some { x with counter := x.counter - next.count p })
        ∧ ∀ p x r bs, next = [p] → p ≠ (die, idx) → s.taskOf p.1 p.2 = some x → x.counter = 1 → x.ready = false → s.checkpointing x.ctx = false →
            s.readRange (.engine x.order) (dieCore p.1) x.ctx x.rec'.param (4 * x.rec'.nparam) = (r, .ok bs) →
            ∃ y, u.taskOf p.1 p.2 = some y ∧ y.counter = 0 ∧ y.ready = true
              ∧ y.params = (List.range x.rec'.nparam).map (fun i => BitVec.ofNat 32 (leAt bs (4 * i) 4))))
  ∧ (∀ die idx t e d p g depth flags made used s, s.taskOf die idx = some t → t.ready = true → t.rec'.marker = false → t.rec'.nstage = 2 →
      s.hb.toNat % 64 = 0 → t.evalHb ≠ s.hb → s.ns = s.edgeNs → t.rec'.stages = [e, d] → t.stages = [p, g] →
      s.queueOf t d = some (depth, flags, made, used) →
      (let full : Prop := 3 * depth ≤ 4 * (made - used) ∧ 1 < p.cores.length
       let low : Prop := 4 * (made - used) ≤ depth ∧ 1 < g.cores.length ∧ p.next < e.blocks
       ∃ u t' p' g', exec (.stageRebalance die idx) s = .next u ∧ SameMemory s u ∧ u.taskOf die idx = some t'
        ∧ t' = { t with evalHb := s.hb, stages := [p', g'] } ∧ p' = { p with cores := p'.cores } ∧ g' = { g with cores := g'.cores }
        ∧ (full → ∃ c, c ∈ p.cores ∧ p'.cores = p.cores.filter (fun x => x != c) ∧ g'.cores = g.cores ++ [c])
        ∧ (¬ full → low → ∃ c, c ∈ g.cores ∧ g'.cores = g.cores.filter (fun x => x != c) ∧ p'.cores = p.cores ++ [c])
        ∧ (¬ full → ¬ low → p' = p ∧ g' = g)))
  ∧ (∀ uid b s, s.wantOver uid ≠ none ∨ s.mustGo uid = true ∨ b.leaving = true → s.blockOf uid = some b →
      ∃ u, exec (.blockEvict uid) s = .next u ∧ ∀ c, u.blockOf uid = some c → c.leaving = true)
  ∧ (∀ uid b t s, s.wantOver uid ≠ none ∨ s.mustGo uid = true ∨ b.leaving = true → s.blockOf uid = some b → s.taskOf b.die b.task = some t →
      (let s0 := (match s.wantOver uid with | some w => s.reserve w | none => s).onBlock uid (fun b => { b with leaving := true })
       let s1 := s0.holdFaults { b with leaving := true }
       let s2 : State := { s1 with warps := s1.warps.map (fun (w : Warp) => if w.block == uid then w.squash else w) }
       let ws := s2.warps.filter (fun w => w.block == uid)
       let s3 := ws.foldl (fun s w => s.writeBackAll w.uid) (s2.noteWork t.ctx)
       let n := b.cores.length
       s0.quietBlock uid = true → s0.goesOn uid = false → s1.commandsOver uid = true →
       ∀ x s4 image s5, s3.ctxOf t.ctx = some x → x.killing = false → s3.imageOf b (b.bmem / 64) = (s4, .ok image) →
        s4.writeChunks noAsker (dieCore b.die) t.ctx (s1.slotAddr b.die b.task b.stage b.saveSlot)
          ((0, b.header 2 s4.hb) :: image ++ (tagsAt n, b.tagBytes) :: s4.bankImages b ++ ws.map (s4.recordOf n)) = (s5, none) →
        ∃ u k, exec (.blockEvict uid) s = .next u ∧ u.dev = s5.dev ∧ u.blockOf uid = none ∧ (∀ v, v ∈ u.warps → v.block ≠ uid) ∧ k ∈ u.saved
          ∧ k.uid = uid ∧ k.die = b.die ∧ k.task = b.task ∧ k.stage = b.stage ∧ k.index = b.index ∧ k.slot = b.saveSlot
          ∧ k.warps.map (fun v => v.uid) = ws.map (fun v => v.uid)))
  ∧ (∀ die idx stage w k r s, s.wanted die idx stage = some w → w.saved = some k →
      (let stuck (u : State) : Prop := ∀ t g, u.taskOf k.die k.task = some t → t.stages[k.stage]? = some g → g.stuck = true
       let head := s.readRange noAsker (dieCore k.die) k.ctx (s.slotAddr k.die k.task k.stage k.slot) 256
       (∀ e, head = (r, .error e) → ∃ u, exec (.blockRestore die idx stage) s = .next u ∧ stuck u)
        ∧ ∀ header, head = (r, .ok header) →
          (headerBad w.desc header = true → ∃ u, exec (.blockRestore die idx stage) s = .next u ∧ stuck u)
          ∧ ∀ set s1 bases s2 s3, headerBad w.desc header = false → r.placement w = some set → s.blockOf k.uid = none → (∀ v, v ∈ s.warps → v.block ≠ k.uid) →
            r.chooseBases w.desc set w.desc.cores = (s1, bases) →
            (let b := w.block k.uid k.slot set bases ((List.range w.desc.cores).map (fun j => BitVec.ofNat 64 (leAt header (64 + 8 * j) 8)))
             let base := r.slotAddr k.die k.task k.stage k.slot
             ({ s1 with blocks := s1.blocks ++ [b] } : State).applyBlock noAsker (dieCore k.die) k.ctx b base header = (s2, none) →
             s2.restoreWarps (s2.blockAt k.uid) w.desc k.ctx base (r.warpSlots w.desc w.task.rec'.paired set) k.warps = (s3, none) →
             ∃ u b', exec (.blockRestore die idx stage) s = .next u ∧ (∀ x, x ∈ u.saved → x.uid ≠ k.uid) ∧ u.blockOf k.uid = some b'
              ∧ b'.cores = set ∧ b'.index = w.index ∧ b'.die = w.task.die ∧ b'.task = w.task.idx ∧ b'.stage = w.stage ∧ b'.saveSlot = k.slot
              ∧ ∀ x, x ∈ k.warps → ∃ v, v ∈ u.warps ∧ v.uid = x.uid ∧ v.block = k.uid ∧ v.wid = x.wid)))
  ∧ ∀ ctx c s, s.ctxOf ctx = some c → c.watchdog ≠ 0 → c.watchdog ≤ c.count → ∃ u c', exec (.watchdogFire ctx) s = .next u ∧ u.ctxOf ctx = some c'
      ∧ c'.count = 0
      ∧ ∀ w, w ∈ s.warps → s.warpOf w.uid = some w → w.ctx = ctx → w.ended = false → w.aliveQuads ≠ [] → TrapsAtOnce s w →
          w.trap.tbase ≠ 0 → (∀ q, (w.quad q).before = none) → ∃ v, u.warpOf w.uid = some v ∧ v.inTrap = true ∧ v.trap.tcause = 0x1A ∧ v.trap.taddr = 0 ∧ v.trap.tinfo = 0
            ∧ v.trap.tmask = w.realLanes ∧ v.trap.tbase = w.trap.tbase

/-- The head of a sprue issues its accesses, performs them one by one, completes with its routes, or traps 1,024 heartbeats after its fault (07 R160; 08 R182 to
R185); a feed of a ladle job is read entry by entry, and a drain merges its runs, writes its output and acts on its routes (08 R191 to R198). A collective combines the
data of every rank along a tree, or times out (20 R436, R437). A versioned write acts when its version comes, or is dropped (07 R167 to R169). A wait wakes or times out
(19 R415); `fence.tick` ends after the next edge (07 R156); a sleep ends (18 R388); a packing window closes (05 R110); a sparse pour steps (10 R233); a shadow's operation
is compared (11 R245, R246); a line of the stack cache is written back (06 R127). -/
def Obligations.EngineEvents : Prop :=
  let idle (s : State) (uid : Nat) : Prop := ∀ w, s.warpOf uid = some w → Busy s w
  let entersHandler (w v : Warp) (cause : Nat) (mask : LaneMask) : Prop :=
    v.inTrap = true ∧ v.trap.tcause = BitVec.ofNat 32 cause ∧ v.trap.tmask = mask ∧ v.trap.tbase = w.trap.tbase
  let ready (s : State) (core q : Nat) (x : Command) (rest : List Command) (begun : Bool) : Prop :=
    s.cpcs = [] ∧ s.sprue core q = x :: rest ∧ s.commandAt x.uid = some (core, q, x) ∧ x.done = false ∧ x.fault = none ∧ x.begun = begun
  let near (a : CmdAccess) : Prop := a.space = .dev → keyRemote a.key = none
  (∀ core pick x rest parts base captured image s, ready s core (pick % 8) x rest false → x.work = .save parts base captured image → s.orderedBefore x.after = true →
    ∃ u y l, exec (.copyPerform core pick) s = .next u ∧ SameMemory s u ∧ u.sprue core (pick % 8) = y :: l ∧ y.begun = true
      ∧ ∀ r, (∃ z, z ∈ y.works ∧ z.rows = [r]) ↔ r < (s.saveRows x captured image).length ∧ r ∉ x.rows)
  ∧ (∀ core pick x rest parts base captured image y row s r bad, ready s core (pick % 8) x rest true → x.work = .save parts base captured image →
      x.works[pick / 8]? = some y → (s.saveRows x captured image)[y.rows.headD 0]? = some row →
      (s.noteWork x.ctx).saveRow core base x row = (r, bad) → (∀ e, bad = some e → e.later = false) →
      ∃ u z l, exec (.copyPerform core pick) s = .next u ∧ SameMemory r u ∧ u.sprue core (pick % 8) = z :: l
        ∧ (∀ v, v ∈ z.works → v.rows ≠ [y.rows.headD 0]) ∧ (bad = none → y.rows.headD 0 ∈ z.rows) ∧ (bad ≠ none → z.rows = x.rows ∧ z.done = false))
  ∧ (∀ core pick x rest src dst origins index perm version timeout s t ms, ready s core (pick % 8) x rest false →
      x.work = .copy .cp src dst origins index perm version timeout → x.lost = [] → s.orderedBefore x.after = true →
      (let p := x.plan []
       s.locate (.engine x.uid) core x.ctx (s.blockOf x.block) p x.rows ((List.range p.rows).filter (fun r => !x.rows.contains r || false)) = (t, ms) →
       (∀ m, m ∈ ms → ∃ l, m.2 = .ok l) →
       ∃ u y l, exec (.copyPerform core pick) s = .next u ∧ SameMemory t u ∧ u.sprue core (pick % 8) = y :: l ∧ y.begun = true
        ∧ ∀ r l, r < p.rows → ms.find? (fun m => m.1 == r) = some (r, .ok l) → (p.start [r] true l).accs ≠ [] → p.start [r] true l ∈ y.works))
  ∧ (∀ core pick x rest kind src dst origins index perm version timeout i k y a s, ready s core (pick % 8) x rest true →
      x.work = .copy kind src dst origins index perm version timeout → (kind == .cpt true && y.swaps) = false → x.next[pick / 8]? = some (i, k) →
      x.works[i]? = some y → y.accs[k]? = some a →
      (let act := exec (.copyPerform core pick) s
       (∀ r vs, near a → a.write = [] → (s.noteWork x.ctx).readElems src.esz a.reads = (r, .ok vs) →
          ∃ u z l, act = .next u ∧ SameMemory r u ∧ u.sprue core (pick % 8) = z :: l
            ∧ (y.accs.filter (fun b => b != a) ≠ [] → { y with accs := y.accs.filter (fun b => b != a), got := y.got ++ vs } ∈ z.works))
        ∧ (∀ r e, near a → a.write = [] → (s.noteWork x.ctx).readElems src.esz a.reads = (r, .error e) →
          ∃ u z l, act = .next u ∧ SameMemory r u ∧ u.sprue core (pick % 8) = z :: l ∧ ∀ v, v ∈ z.works → v.rows ≠ y.rows)
        ∧ (∀ r, near a → a.write ≠ [] → (∀ add, kind ≠ .cpv add) → (s.noteWork x.ctx).writeRun a.space a.write = (r, none) →
          ∃ u z l, act = .next u ∧ SameMemory r u ∧ u.sprue core (pick % 8) = z :: l
            ∧ (x.works = [y] → y.accs = [a] → y.dsts = [] → x.heldWrites = 0 →
                z.works = [] ∧ z.done = x.met.isNone ∧ z.fault = x.met.map (fun f => { f.2 with since := s.hb })))
        ∧ (∀ r e, near a → a.write ≠ [] → (∀ add, kind ≠ .cpv add) → (s.noteWork x.ctx).writeRun a.space a.write = (r, some e) →
          ∃ u z l, act = .next u ∧ SameMemory r u ∧ u.sprue core (pick % 8) = z :: l ∧ ∀ v, v ∈ z.works → v.rows ≠ y.rows)
        ∧ (∀ add, near a → a.write ≠ [] → kind = .cpv add → ∃ u h, act = .next u ∧ SameMemory s u ∧ u.heldWrites = s.heldWrites ++ [h] ∧ h.cmd = x.uid ∧ h.ctx = x.ctx
            ∧ h.expect = version ∧ h.add = (if add then some dst.ty else none) ∧ h.data = a.write.map (fun c => (c.1, c.2.value))
            ∧ h.deadline = s.hb + BitVec.ofNat 64 (1024 * timeout))
        ∧ ∀ pkg port, a.space = .dev → keyRemote a.key = some pkg → s.routeTo pkg 0 = .ok port → s.mayTake port (s.request x.ctx x.uid) = true →
            ∃ u o, act = .next u ∧ SameMemory s u ∧ u.channels = s.channels ++ [o] ∧ o.pkg = pkg ∧ o.cls = 0 ∧ o.inChannel = true ∧ o.since = s.hb))
  ∧ (∀ core pick x rest src dst origins index perm version timeout i k y s r e, ready s core (pick % 8) x rest true →
      x.work = .copy (.cpt true) src dst origins index perm version timeout → y.swaps = true → x.next[pick / 8]? = some (i, k) → x.works[i]? = some y →
      s.readElems src.esz (y.accs.flatMap (fun a => a.reads)) = (r, .error e) → ∃ u, exec (.copyPerform core pick) s = .next u ∧ SameMemory s u)
  ∧ (∀ core q x rest mark s, s.sprue core q = x :: rest → x.work = .qfence mark → s.fenceMet core mark = true →
      ∃ u, exec (.commandCompletion core q) s = .next u ∧ SameMemory s u ∧ ∀ p y, y ∈ u.sprue core p → y ∈ s.sprue core p ∧ y.work ≠ .qfence mark)
  ∧ (∀ core q x rest s, s.sprue core q = x :: rest → (∀ m, x.work ≠ .qfence m) → x.fault = none → x.done = true →
      (x.routes.record = true → s.ringFull (coreDie core) = false) → x.routes.barrier = false →
      (x.routes.task = true → ∀ t, s.taskOf x.routes.die x.routes.index = some t → 1 < t.counter) → idle s x.warp →
      ∃ u, exec (.commandCompletion core q) s = .next u ∧ SameMemory s u ∧ u.sprue core q = rest
        ∧ u.events = s.events ++ (if x.routes.record then [(coreDie core, s.cmdRecord core q x)] else [])
        ∧ ∀ t, s.taskOf x.routes.die x.routes.index = some t → u.taskOf x.routes.die x.routes.index =
            some (if x.routes.task then { t with counter := t.counter - 1 } else t))
  ∧ (∀ core q x rest f w s, s.sprue core q = x :: rest → x.fault = some f → s.warpOf x.warp = some w → f.told = false →
      1024 ≤ (s.hb - f.since).toNat → w.realLanes ≠ 0 → w.ended = false → w.aliveQuads ≠ [] → TrapsAtOnce s w → w.trap.tbase ≠ 0 →
      (∀ q, (w.quad q).before = none) → ∃ u v, exec (.copyFaultTimeout core q) s = .next u
      ∧ u.warpOf x.warp = some v ∧ entersHandler w v f.cause.toNat w.realLanes ∧ v.trap.taddr = f.addr ∧ v.trap.tinfo = f.info
      ∧ u.sprue core q = { x with fault := some { f with told := true } } :: rest)
  ∧ (∀ core q x rest op ty record src dst key npart rank bytes timeout index since peers s s1 rs s2, s.sprue core q = x :: rest →
      x.work = .coll op ty record src dst key npart rank bytes timeout index since →
      (let ms := s.members key index
       let data (r : CollMember × Except Bad (List Byte)) : List CollPeer := match r.2 with | .ok d => [r.1.peer d] | .error _ => []
       let all := peers ++ rs.flatMap data
       let ranked := (List.range npart).map (fun k => all.find? (fun p => p.rank == k))
       (∃ m, m ∈ ms ∧ m.core = core ∧ m.sprue = q) → s.readMembers ms = (s1, rs) → (∀ r, r ∈ rs → ∃ d, r.2 = .ok d) →
       (∀ p, p ∈ ranked → ∃ v, p = some v ∧ v.op = op ∧ v.ty = ty ∧ v.bytes = bytes) →
       s1.writeMembers (combineAll op ty.toNat ((ranked.filterMap (fun p => p)).map (fun p => p.data)) 0 (bytes / max 1 (tyWidth ty.toNat / 8))) index ms =
        (s2, none) →
       ∃ u, exec (.collComplete core q peers) s = .next u ∧ u.dev = s2.dev
        ∧ ∀ m, m ∈ ms → ∀ y l, s2.sprue m.core m.sprue = y :: l → ∃ z, u.sprue m.core m.sprue = z :: l ∧ z.done = true))
  ∧ (∀ t l, t ∉ setFS ++ setFD → l.length ≤ 4096 → (∀ a, a ∈ l → a < 2 ^ tyWidth t) → combineTree (collElem 0 t) 12 l = l.sum % 2 ^ tyWidth t)
  ∧ (∀ core q x rest op ty record src dst key npart rank bytes timeout index since s table entry, s.sprue core q = x :: rest →
      x.work = .coll op ty record src dst key npart rank bytes timeout index since → x.done = false → x.fault = none → timeout ≠ 0 →
      1024 * timeout ≤ (s.hb - since).toNat →
      (let here := (s.members key index).map (fun m => m.rank)
       let missing := ((List.range npart).find? (fun r => !here.contains r)).getD 0
       (s.readRange (.engine x.uid) core x.ctx (record + 16) 8).2 = .ok table →
       (s.readRange (.engine x.uid) core x.ctx (leAt table 0 8 + 4 * missing) 4).2 = .ok entry →
       ∃ u f, exec (.collTimeout core q) s = .next u ∧ SameMemory s u
        ∧ u.sprue core q = { x with fault := some f } :: rest ∧ f.cause = 0x1C ∧ f.told = false))
  ∧ (∀ core q x rest job base off count stream keysOnly j s t e, s.sprue core q = x :: rest → x.work = .feed job base off count stream keysOnly → x.done = false →
      s.orderedBefore x.after = true → s.jobOf job = some j → j.status = 0 → count ≠ 0 → j.writes = [] → s.resident j.cluster + 1 ≤ 65536 →
      (let f : StoppedFeed := { base, off, count, stream, keysOnly }
       s.feedEntry j f = (t, .ok e) → j.refuses stream [e] = none →
       ∃ u k, exec (.feedStreamRead core q) s = .next u ∧ SameMemory t u ∧ u.jobOf job = some k ∧ k.status = 0
        ∧ k.entries = j.entries ++ [{ coord := e.1, value := j.kept e.2, stream, seq := Cells.get 0 j.seqs stream }]
        ∧ u.sprue core q = { x with begun := true, work := .feed job base (off + f.width) (count - 1) stream keysOnly, done := count == 1 } :: rest))
  ∧ (∀ core q x rest job base off count stream keysOnly s, s.sprue core q = x :: rest → x.work = .feed job base off count stream keysOnly → x.done = false →
      s.orderedBefore x.after = true →
      (let f : StoppedFeed := { base, off, count, stream, keysOnly }
       (count = 0 ∨ s.jobOf job = none → ∃ u, exec (.feedStreamRead core q) s = .next u ∧ SameMemory s u
          ∧ u.sprue core q = { x with begun := true, done := true } :: rest)
        ∧ ∀ t, s.feedStep job f = (t, .wait) → exec (.feedStreamRead core q) s = .next t))
  ∧ (∀ e ∈ ([(.ladleDrainDone, false), (.spanFinalMerge, true)] : List ((Nat → Instr) × Bool)), ∀ job j s, s.jobOf job = some j → j.writes = [] → j.away = [] →
      (e.2 = false → j.span = false) → (e.2 = true → j.span = true ∧ j.final = true ∧ j.donePart + 1 = j.npart) →
      (∀ s1 runs, j.status = 1 → j.merged = false → j.op ≠ 4 → (s.noteWork j.ctx).readRuns j j.runs = (s1, .ok runs) →
        (let ps := j.pieces (j.emits (runs ++ j.entries))
         (∀ p, p ∈ ps → p.off + p.bytes.length ≤ p.limit) → ∃ u k, exec (e.1 job) s = .next u ∧ SameMemory s1 u ∧ u.jobOf job = some k
          ∧ k.merged = true ∧ k.entries = [] ∧ k.stopAt = none ∧ k.writes = j.outWrites ps))
      ∧ (j.status = 1 → j.merged = true →
          (let st := if j.stopAt.isNone then 2 else 5
           ∃ u k, exec (e.1 job) s = .next u ∧ SameMemory s u ∧ u.jobOf job = some k ∧ k.status = st ∧ (j.stopAt.isSome = true → k.fault = j.stopAt)
            ∧ k.writes = [.field 72 8 j.emitted] ++ (if j.op = 4 ∧ j.stopAt = none then [.field 80 8 j.count] else []) ++ [.field 60 4 st]))
      ∧ (j.status = 2 → j.acted = false → s.jobRoom j = true → j.routes.barrier = false → j.routes.task = false →
          ∃ u k, exec (e.1 job) s = .next u ∧ SameMemory s u ∧ u.jobOf job = some k ∧ k = { j with acted := true }
            ∧ (j.routes.record = false → u.events = s.events)
            ∧ (j.routes.record = true → ∃ r, u.events = s.events ++ [(coreDie j.core, r)] ∧ r.ctx = j.ctx ∧ r.tag = j.routes.tag ∧ r.cause = 0 ∧ r.sprue = 0xFF
                ∧ r.rows = BitVec.ofNat 32 j.emitted ∧ r.bytes = BitVec.ofNat 64 j.written)))
  ∧ (∀ line index h s, (s.heldWrites.filter (fun h => h.line == line))[index]? = some h → s.version line = h.expect → s.badLines = [] →
      (let base := (h.data.headD (64 * line, 0)).1
       ∃ u, exec (.versionApply line index) s = .next u ∧ u.bmem = s.bmem ∧ u.spad = s.spad ∧ u.banks = s.banks
        ∧ (∀ k, u.version k = if k = line then (h.expect + 1) % 256 else s.version k)
        ∧ (∀ g, g ∈ u.heldWrites → g ∈ s.heldWrites ∧ ¬(g.cmd = h.cmd ∧ g.index = h.index))
        ∧ (∀ a, a < base ∨ base + h.data.length ≤ a → u.dev.byte a = s.dev.byte a)
        ∧ (∀ i c, h.data[i]? = some c → h.add = none → u.dev.byte (base + i) = c.2)))
  ∧ (∀ line index h s, (s.heldWrites.filter (fun h => h.line == line))[index]? = some h → h.deadline.toNat ≤ s.hb.toNat →
      ∃ u, exec (.versionTimeout line index) s = .next u ∧ SameMemory s u
        ∧ (∀ g, g ∈ u.heldWrites → g ∈ s.heldWrites ∧ ¬(g.cmd = h.cmd ∧ g.index = h.index))
        ∧ ∀ core q x, s.commandAt h.cmd = some (core, q, x) → x.begun = true → x.works = [] → x.heldWrites = 1 → x.met = none → x.fault = none →
            ∃ y f, u.commandAt h.cmd = some (core, q, y) ∧ y.fault = some f ∧ f.cause = 0x13 ∧ f.addr = BitVec.ofNat 64 h.name
              ∧ y.lost = x.lost ++ [(h.index, h.rows)])
  ∧ (∀ warp lane x l w v s s1, s.warpOf warp = some w → Busy s w → w.paired = false → lane < 32 →
      w.waits.findSome? (fun x => (x.lanes.find? (fun l => l.lane == lane && l.result.isNone)).map (fun l => (x, l))) = some (x, l) → l.stirred = true →
      w.trail = [] → s.mayPerform w (x.access l) = true → l.remote = none → x.wide = false → x.early = [] → s.readAt l.space l.addr 4 = (s1, .ok v) → v < 2 ^ 32 →
      x.lanes = [l] → ∃ u w', exec (.waitWake warp lane) s = .next u ∧ u.warpOf warp = some w'
        ∧ (decide (v = l.operand.toNat) = x.ne → w' = { w with waits := w.waits.map (fun y => if y.seq = x.seq then x.saw lane v else y) })
        ∧ (decide (v = l.operand.toNat) ≠ x.ne → (∀ y, y ∈ w'.waits → y ∈ w.waits ∧ y.seq ≠ x.seq)
            ∧ (x.dst < 255 → w'.regs.vec x.dst lane = BitVec.ofNat 32 v)
            ∧ (∀ n m, m < 32 → n ≠ x.dst ∨ m ≠ lane → w'.regs.vec n m = w.regs.vec n m)
            ∧ ∀ q, q < 8 → w.quads.length = 8 → (w'.quad q).park = (if x.quads.getLsbD q then .running else (w.quad q).park)
              ∧ (w'.quad q).path.pc = (w.quad q).path.pc + (if x.quads.getLsbD q then BitVec.ofNat 55 x.len else 0)))
  ∧ (∀ warp quad x w s, s.warpOf warp = some w → TrapsAtOnce s w → w.ended = false → w.trap.tbase ≠ 0 → w.waits.find? (fun x => x.quads.getLsbD quad) = some x →
      quad ∈ w.aliveQuads → x.timeout ≠ 0 → 1024 * x.timeout ≤ (s.hb - x.since).toNat →
      (let left := x.lanes.filter (fun l => l.result.isNone)
       left ≠ [] → ∃ u v, exec (.waitTimeout warp quad) s = .next u ∧ u.warpOf warp = some v
        ∧ entersHandler w v 0x10 (left.foldl (fun m l => maskSet m l.lane true) 0) ∧ (∀ y, y ∈ v.waits → y.seq ≠ x.seq)
        ∧ (∀ n m, v.regs.vec n m = w.regs.vec n m) ∧ v.trap.tfirst = BitVec.ofNat 64 x.pc.toNat ∧ v.trap.tinfo = 0
        ∧ ∀ l r, left = l :: r → v.trap.taddr = BitVec.ofNat 64 l.name))
  ∧ (∀ warp w t s, s.warpOf warp = some w → w.tick = some t → ∃ u, exec (.fenceTickComplete warp) s = .next u ∧ SameMemory s u
      ∧ (s.locked = false → u.warpOf warp = some { w with tick := some { t with edge := none } })
      ∧ (s.locked = true → t.edge = none → s.drained w.core t.seq = true → u.warpOf warp = some { w with tick := some { t with edge := some (s.hb + 1) } })
      ∧ (s.locked = true → t.edge = none → s.drained w.core t.seq = false → u = s)
      ∧ ∀ e, s.locked = true → t.edge = some e →
          (let early : Prop := s.hb.toNat < e.toNat ∨ s.hb = e ∧ (s.ns - s.edgeNs).toNat < 64
           (early → u = s)
           ∧ (¬ early → Busy s w → ∃ v, u.warpOf warp = some v ∧ v = { w with tick := none, quads := v.quads }
              ∧ ∀ q, (v.quad q).path = (w.quad q).path
                ∧ (v.quad q).park = (if t.quads.getLsbD q ∧ (w.quad q).park = .fenceTick then .running else (w.quad q).park))))
  ∧ (∀ warp quad w s, s.warpOf warp = some w → w.quads.length = 8 → (w.quad quad).park = .sleep → (w.quad quad).readyAt ≤ (s.coreOf w.core).clk →
      ∃ u v, exec (.sleepExpire warp quad) s = .next u ∧ OnlyWarps s u ∧ OtherWarps s u warp ∧ u.warpOf warp = some v ∧ v = { w with quads := v.quads }
        ∧ ∀ q, v.quad q = if q ∈ w.members (w.quad quad).gang ∧ (w.quad q).park = .sleep then { w.quad q with park := .running } else w.quad q)
  ∧ (∀ core pc s, ∃ u, exec (.packWindowClose core pc) s = .next u ∧ SameMemory s u
      ∧ (∀ v, v ∈ (u.coreOf core).windows ↔ v ∈ (s.coreOf core).windows ∧
          ∀ x, x ∈ (s.coreOf core).windows → x.pc = pc → x.block = v.block → v.pc = pc → (s.coreOf core).clk < x.opened + 256)
      ∧ ∀ x w q, x ∈ (s.coreOf core).windows → x.pc = pc → x.opened + 256 ≤ (s.coreOf core).clk → w ∈ s.windowWarps core x.block →
          s.warpOf w.uid = some w → q ∈ w.aliveQuads → q < w.quads.length → (w.quad q).park = .packing pc →
          ∃ v, u.warpOf w.uid = some v ∧ (v.quad q).park = .running ∧ (v.quad q).packed = true ∧ (v.quad q).path = (w.quad q).path)
  ∧ (∀ warp w s, s.warpOf warp = some w → w.mstep.active = true → w.mstep.done + 1 < w.mstep.total →
      ∃ u, exec (.sparsePourStep warp) s = .next u ∧ OnlyWarps s u ∧ OtherWarps s u warp
        ∧ u.warpOf warp = some { w with mstep := { w.mstep with done := w.mstep.done + 1 }, steps := w.steps + 1 })
  ∧ (∀ warp w v d h s, s.warpOf warp = some w → s.shadowOf warp = some v → v.offer = some d → w.trail.find? Trail.keyed = some h → w.spec = none →
      (h.compared = some d → Busy s w → ∃ u w' v', exec (.shadowCompare warp) s = .next u ∧ SameMemory s u ∧ u.warpOf warp = some w'
          ∧ u.shadowOf warp = some v' ∧ v'.offer = none ∧ w'.trail.find? Trail.keyed = some { h with released := true }
          ∧ w'.pending = w.pending.map (fun b => if h.seq ≠ 0 ∧ b.seq = h.seq then { b with held := false } else b)
          ∧ w'.agreed = (if h.seq = 0 then w.agreed ++ [h.quads] else w.agreed))
      ∧ (h.compared ≠ some d → bitAt w.region 0 = true → bitField w.rcount 0 2 < 3 → ∃ u w', exec (.shadowCompare warp) s = .next u ∧ SameMemory s u
          ∧ u.warpOf warp = some w' ∧ w'.rcount = BitVec.ofNat 32 (bitField w.rcount 0 2 + 1) ∧ w'.region = w.region ∧ w'.trail = []
          ∧ ∀ q, q ∈ w.aliveQuads → (w'.quad q).path.pc = BitVec.ofNat 55 (bitField w.region 2 53 * 4) ∧ (w'.quad q).path.active = (w.quad q).path.living))
  ∧ ∀ warp line w key r s, s.warpOf warp = some w → line ∈ w.lines → w.pins line = false → s.badLines = [] → ∃ u, exec (.stackWriteBack warp line) s = .next u
      ∧ (line ∉ w.dirty → SameMemory s u ∧ ∃ v, u.warpOf warp = some v ∧ line ∉ v.lines)
      ∧ (line ∈ w.dirty → s.translate w.core w.ctx ((s.stackOf w).1 + lineBytes * line) .w = (r, .ok key) →
          (∃ v, u.warpOf warp = some v ∧ line ∉ v.lines ∧ line ∉ v.dirty) ∧ OnlyBytes s u .dev key lineBytes
            ∧ ∀ i, i < lineBytes → u.dev.byte (key + i) = w.cache.byte (lineBytes * line + i))
end

