-- ==== Sys2Proof/Laws/Cells.lean ====
section
/-!
SUPPORT. Sparse data: a read after a write, and the canonical form that every operation keeps.
-/
namespace Sys2Proof.Machine

section
variable {α : Type} [DecidableEq α] (d : α)

/-! ### Reading back -/

omit [DecidableEq α] in
theorem Cells.get_erase (m : Cells α) (k j : Nat) : Cells.get d (Cells.erase m k) j = if j = k then d else Cells.get d m j := by
  induction m with
  | nil => simp [Cells.erase, Cells.get]
  | cons c m ih =>
    by_cases h : c.1 = k
    · by_cases hj : j = k
      · subst hj
        simpa [Cells.erase, h] using ih
      · have : ¬ c.1 = j := by omega
        simp [Cells.erase, h, ih, hj, Cells.get, show ¬ k = j by omega]
    · by_cases hj : c.1 = j
      · simp [Cells.erase, Cells.get, hj, show ¬ j = k by omega]
      · simp [Cells.erase, h, Cells.get, hj, ih]

theorem Cells.wfFrom_mono {lo lo' : Nat} {m : Cells α} (h : Cells.wfFrom d lo m = true) (hl : lo' ≤ lo) :
    Cells.wfFrom d lo' m = true := by
  cases m with
  | nil => rfl
  | cons c m =>
    simp only [Cells.wfFrom, Bool.and_eq_true, decide_eq_true_eq] at h ⊢
    exact ⟨⟨by omega, h.1.2⟩, h.2⟩

/-- A key below every listed key reads as the default. -/
theorem Cells.get_below {lo k : Nat} {m : Cells α} (h : Cells.wfFrom d lo m = true) (hk : k < lo) : Cells.get d m k = d := by
  induction m generalizing lo with
  | nil => rfl
  | cons c m ih =>
    simp only [Cells.wfFrom, Bool.and_eq_true, decide_eq_true_eq] at h
    have : ¬ c.1 = k := by omega
    simp only [Cells.get, this, if_false]
    exact ih h.2 (by omega)

omit [DecidableEq α] in
theorem Cells.get_insert (m : Cells α) (k j : Nat) (v : α) :
    Cells.get d (Cells.insert m k v) j = if j = k then v else Cells.get d m j := by
  induction m with
  | nil => by_cases hj : k = j <;> simp [Cells.insert, Cells.get, hj, eq_comm]
  | cons c m ih =>
    unfold Cells.insert
    split
    · by_cases hj : k = j <;> simp [Cells.get, hj, eq_comm]
    · split
      · by_cases hj : k = j
        · simp [Cells.get, hj]
        · simp [Cells.get, hj, show ¬ c.1 = j by omega, show ¬ j = k by omega]
      · by_cases hj : c.1 = j
        · simp [Cells.get, hj, show ¬ j = k by omega]
        · simp [Cells.get, hj, ih]

/-- A read after a write: the value written at its key, every other key as before. -/
theorem Cells.get_put (m : Cells α) (k j : Nat) (v : α) :
    Cells.get d (Cells.put d m k v) j = if j = k then v else Cells.get d m j := by
  unfold Cells.put
  split
  · rw [Cells.get_erase]; simp [*]
  · exact Cells.get_insert d m k j v

/-! ### The canonical form -/

theorem Cells.wfFrom_erase {lo : Nat} {m : Cells α} (h : Cells.wfFrom d lo m = true) (k : Nat) :
    Cells.wfFrom d lo (Cells.erase m k) = true := by
  induction m generalizing lo with
  | nil => rfl
  | cons c m ih =>
    simp only [Cells.wfFrom, Bool.and_eq_true, decide_eq_true_eq] at h
    unfold Cells.erase
    split
    · exact Cells.wfFrom_mono d (ih h.2) (by omega)
    · simp only [Cells.wfFrom, Bool.and_eq_true, decide_eq_true_eq]
      exact ⟨h.1, ih h.2⟩

theorem Cells.wfFrom_insert {lo : Nat} {m : Cells α} (h : Cells.wfFrom d lo m = true) {k : Nat} (hk : lo ≤ k) {v : α} (hv : v ≠ d) :
    Cells.wfFrom d lo (Cells.insert m k v) = true := by
  induction m generalizing lo with
  | nil => simp [Cells.insert, Cells.wfFrom, hk, hv]
  | cons c m ih =>
    simp only [Cells.wfFrom, Bool.and_eq_true, decide_eq_true_eq] at h
    unfold Cells.insert
    split
    · simp only [Cells.wfFrom, Bool.and_eq_true, decide_eq_true_eq]
      exact ⟨⟨hk, hv⟩, ⟨by omega, h.1.2⟩, h.2⟩
    · split
      · simp only [Cells.wfFrom, Bool.and_eq_true, decide_eq_true_eq]
        exact ⟨⟨hk, hv⟩, Cells.wfFrom_mono d h.2 (by omega)⟩
      · simp only [Cells.wfFrom, Bool.and_eq_true, decide_eq_true_eq]
        exact ⟨h.1, ih h.2 (by omega)⟩

theorem Cells.wf_put {m : Cells α} (h : Cells.wf d m = true) (k : Nat) (v : α) : Cells.wf d (Cells.put d m k v) = true := by
  unfold Cells.put
  split
  · exact Cells.wfFrom_erase d h k
  · exact Cells.wfFrom_insert d h (Nat.zero_le k) ‹_›

theorem Cells.wfFrom_filter {lo : Nat} {m : Cells α} (h : Cells.wfFrom d lo m = true) (f : Nat × α → Bool) :
    Cells.wfFrom d lo (m.filter f) = true := by
  induction m generalizing lo with
  | nil => rfl
  | cons c m ih =>
    simp only [Cells.wfFrom, Bool.and_eq_true, decide_eq_true_eq] at h
    unfold List.filter
    split
    · simp only [Cells.wfFrom, Bool.and_eq_true, decide_eq_true_eq]
      exact ⟨h.1, ih h.2⟩
    · exact Cells.wfFrom_mono d (ih h.2) (by omega)

/-- Equal contents are equal lists: two canonical lists that read alike are the same. -/
theorem Cells.wfFrom_ext {lo : Nat} {m n : Cells α} (hm : Cells.wfFrom d lo m = true) (hn : Cells.wfFrom d lo n = true)
    (h : ∀ k, Cells.get d m k = Cells.get d n k) : m = n := by
  induction m generalizing lo n with
  | nil =>
    cases n with
    | nil => rfl
    | cons c n =>
      simp only [Cells.wfFrom, Bool.and_eq_true, decide_eq_true_eq] at hn
      have := h c.1
      simp [Cells.get] at this
      exact absurd this.symm hn.1.2
  | cons b m ih =>
    simp only [Cells.wfFrom, Bool.and_eq_true, decide_eq_true_eq] at hm
    cases n with
    | nil =>
      have := h b.1
      simp [Cells.get] at this
      exact absurd this hm.1.2
    | cons c n =>
      have hn' := hn
      simp only [Cells.wfFrom, Bool.and_eq_true, decide_eq_true_eq] at hn
      have hk : b.1 = c.1 := by
        rcases Nat.lt_trichotomy b.1 c.1 with hlt | he | hgt
        · have e := h b.1
          rw [Cells.get_below d (lo := c.1) (m := c :: n)
            (by simp only [Cells.wfFrom, Bool.and_eq_true, decide_eq_true_eq]; exact ⟨⟨Nat.le_refl _, hn.1.2⟩, hn.2⟩) hlt] at e
          simp [Cells.get] at e
          exact absurd e hm.1.2
        · exact he
        · have e := h c.1
          rw [Cells.get_below d (lo := b.1) (m := b :: m)
            (by simp only [Cells.wfFrom, Bool.and_eq_true, decide_eq_true_eq]; exact ⟨⟨Nat.le_refl _, hm.1.2⟩, hm.2⟩) hgt] at e
          simp [Cells.get] at e
          exact absurd e.symm hn.1.2
      have hv : b.2 = c.2 := by
        have e := h b.1
        simpa [Cells.get, hk] using e
      have : b = c := Prod.ext hk hv
      subst this
      congr 1
      refine ih hm.2 hn.2 (fun k => ?_)
      by_cases hk' : b.1 = k
      · rw [Cells.get_below d hm.2 (by omega), Cells.get_below d hn.2 (by omega)]
      · have e := h k
        simpa [Cells.get, hk'] using e

end

/-! ### Bytes -/

theorem Memory.wf_nil : Memory.wf [] = true := rfl

theorem Memory.wf_setByte {m : Memory} (h : m.wf = true) (a : Nat) (v : Byte) : (m.setByte a v).wf = true := Cells.wf_put 0 h a v

theorem Memory.byte_setByte (m : Memory) (a b : Nat) (v : Byte) :
    (m.setByte a v).byte b = if b = a then v else m.byte b := Cells.get_put 0 m a b v

theorem Memory.wf_write {m : Memory} (h : m.wf = true) (a n v : Nat) : (m.write a n v).wf = true := by
  induction n generalizing m a v with
  | zero => exact h
  | succ n ih => exact ih (Memory.wf_setByte h a _) _ _

theorem Memory.wf_setBytes {m : Memory} (h : m.wf = true) (a : Nat) (bs : List Byte) : (m.setBytes a bs).wf = true := by
  induction bs generalizing m a with
  | nil => exact h
  | cons b bs ih => exact ih (Memory.wf_setByte h a b) _

theorem Memory.wf_zero {m : Memory} (h : m.wf = true) (lo n : Nat) : (m.zero lo n).wf = true := Cells.wfFrom_filter 0 h _

theorem Memory.wf_filter {m : Memory} (h : m.wf = true) (f : Host.Cell → Bool) : Memory.wf (m.filter f) = true :=
  Cells.wfFrom_filter 0 h f

/-- A byte outside a written range is as before. -/
theorem Memory.byte_write_outside (m : Memory) (a n v b : Nat) (hb : b < a ∨ a + n ≤ b) : (m.write a n v).byte b = m.byte b := by
  induction n generalizing m a v with
  | zero => rfl
  | succ n ih =>
    show ((m.setByte a (BitVec.ofNat 8 v)).write (a + 1) n (v / 256)).byte b = _
    rw [ih _ _ _ (by omega), Memory.byte_setByte]
    simp [show ¬ b = a by omega]

/-- A byte inside a written range. -/
theorem Memory.byte_write_inside (m : Memory) (a n v i : Nat) (hi : i < n) :
    (m.write a n v).byte (a + i) = BitVec.ofNat 8 (v / 256 ^ i) := by
  induction n generalizing m a v i with
  | zero => omega
  | succ n ih =>
    show ((m.setByte a (BitVec.ofNat 8 v)).write (a + 1) n (v / 256)).byte (a + i) = _
    cases i with
    | zero =>
      rw [Memory.byte_write_outside _ _ _ _ _ (by omega), Memory.byte_setByte]
      simp
    | succ i =>
      rw [show a + (i + 1) = a + 1 + i by omega, ih _ _ _ i (by omega), Nat.pow_succ, Nat.mul_comm, Nat.div_div_eq_div_mul]

end Sys2Proof.Machine
end

