-- ==== Sys2Proof/Laws/State.lean ====
section
/-!
SUPPORT. What each update of the state does to each of its fields: no proof has to unfold a record update.
-/
namespace Sys2Proof.Machine

/-! ### A warp put back -/

@[simp] theorem State.putWarp_agenda (s : State) (w : Warp) : (s.putWarp w).agenda = s.agenda := rfl
@[simp] theorem State.putWarp_here (s : State) (w : Warp) : (s.putWarp w).here = s.here := rfl
@[simp] theorem State.putWarp_cur (s : State) (w : Warp) : (s.putWarp w).cur = s.cur := rfl
@[simp] theorem State.putWarp_focus (s : State) (w : Warp) : (s.putWarp w).focus = s.focus := rfl
@[simp] theorem State.putWarp_fresh (s : State) (w : Warp) : (s.putWarp w).fresh = s.fresh := rfl
@[simp] theorem State.putWarp_uids (s : State) (w : Warp) : (s.putWarp w).uids = s.uids := rfl
@[simp] theorem State.putWarp_hb (s : State) (w : Warp) : (s.putWarp w).hb = s.hb := rfl
@[simp] theorem State.putWarp_ns (s : State) (w : Warp) : (s.putWarp w).ns = s.ns := rfl
@[simp] theorem State.putWarp_edgeNs (s : State) (w : Warp) : (s.putWarp w).edgeNs = s.edgeNs := rfl
@[simp] theorem State.putWarp_pkg (s : State) (w : Warp) : (s.putWarp w).pkg = s.pkg := rfl
@[simp] theorem State.putWarp_root (s : State) (w : Warp) : (s.putWarp w).root = s.root := rfl
@[simp] theorem State.putWarp_rootHb (s : State) (w : Warp) : (s.putWarp w).rootHb = s.rootHb := rfl
@[simp] theorem State.putWarp_locked (s : State) (w : Warp) : (s.putWarp w).locked = s.locked := rfl
@[simp] theorem State.putWarp_routed (s : State) (w : Warp) : (s.putWarp w).routed = s.routed := rfl
@[simp] theorem State.putWarp_joined (s : State) (w : Warp) : (s.putWarp w).joined = s.joined := rfl
@[simp] theorem State.putWarp_routes (s : State) (w : Warp) : (s.putWarp w).routes = s.routes := rfl
@[simp] theorem State.putWarp_ports (s : State) (w : Warp) : (s.putWarp w).ports = s.ports := rfl
@[simp] theorem State.putWarp_channels (s : State) (w : Warp) : (s.putWarp w).channels = s.channels := rfl
@[simp] theorem State.putWarp_answers (s : State) (w : Warp) : (s.putWarp w).answers = s.answers := rfl
@[simp] theorem State.putWarp_performedOps (s : State) (w : Warp) : (s.putWarp w).performedOps = s.performedOps := rfl
@[simp] theorem State.putWarp_life (s : State) (w : Warp) : (s.putWarp w).life = s.life := rfl
@[simp] theorem State.putWarp_identity (s : State) (w : Warp) : (s.putWarp w).identity = s.identity := rfl
@[simp] theorem State.putWarp_dev (s : State) (w : Warp) : (s.putWarp w).dev = s.dev := rfl
@[simp] theorem State.putWarp_versions (s : State) (w : Warp) : (s.putWarp w).versions = s.versions := rfl
@[simp] theorem State.putWarp_badLines (s : State) (w : Warp) : (s.putWarp w).badLines = s.badLines := rfl
@[simp] theorem State.putWarp_heldWrites (s : State) (w : Warp) : (s.putWarp w).heldWrites = s.heldWrites := rfl
@[simp] theorem State.putWarp_bmem (s : State) (w : Warp) : (s.putWarp w).bmem = s.bmem := rfl
@[simp] theorem State.putWarp_spad (s : State) (w : Warp) : (s.putWarp w).spad = s.spad := rfl
@[simp] theorem State.putWarp_banks (s : State) (w : Warp) : (s.putWarp w).banks = s.banks := rfl
@[simp] theorem State.putWarp_badBankWords (s : State) (w : Warp) : (s.putWarp w).badBankWords = s.badBankWords := rfl
@[simp] theorem State.putWarp_parity (s : State) (w : Warp) : (s.putWarp w).parity = s.parity := rfl
@[simp] theorem State.putWarp_groups (s : State) (w : Warp) : (s.putWarp w).groups = s.groups := rfl
@[simp] theorem State.putWarp_bankErrors (s : State) (w : Warp) : (s.putWarp w).bankErrors = s.bankErrors := rfl
@[simp] theorem State.putWarp_shadows (s : State) (w : Warp) : (s.putWarp w).shadows = s.shadows := rfl
@[simp] theorem State.putWarp_blocks (s : State) (w : Warp) : (s.putWarp w).blocks = s.blocks := rfl
@[simp] theorem State.putWarp_saved (s : State) (w : Warp) : (s.putWarp w).saved = s.saved := rfl
@[simp] theorem State.putWarp_cores (s : State) (w : Warp) : (s.putWarp w).cores = s.cores := rfl
@[simp] theorem State.putWarp_dieLeaves (s : State) (w : Warp) : (s.putWarp w).dieLeaves = s.dieLeaves := rfl
@[simp] theorem State.putWarp_tasks (s : State) (w : Warp) : (s.putWarp w).tasks = s.tasks := rfl
@[simp] theorem State.putWarp_lastIdx (s : State) (w : Warp) : (s.putWarp w).lastIdx = s.lastIdx := rfl
@[simp] theorem State.putWarp_zeroed (s : State) (w : Warp) : (s.putWarp w).zeroed = s.zeroed := rfl
@[simp] theorem State.putWarp_tables (s : State) (w : Warp) : (s.putWarp w).tables = s.tables := rfl
@[simp] theorem State.putWarp_events (s : State) (w : Warp) : (s.putWarp w).events = s.events := rfl
@[simp] theorem State.putWarp_cpcs (s : State) (w : Warp) : (s.putWarp w).cpcs = s.cpcs := rfl
@[simp] theorem State.putWarp_jobs (s : State) (w : Warp) : (s.putWarp w).jobs = s.jobs := rfl
@[simp] theorem State.putWarp_ladleIn (s : State) (w : Warp) : (s.putWarp w).ladleIn = s.ladleIn := rfl
@[simp] theorem State.putWarp_contexts (s : State) (w : Warp) : (s.putWarp w).contexts = s.contexts := rfl
@[simp] theorem State.putWarp_lastCtx (s : State) (w : Warp) : (s.putWarp w).lastCtx = s.lastCtx := rfl
@[simp] theorem State.putWarp_vdevs (s : State) (w : Warp) : (s.putWarp w).vdevs = s.vdevs := rfl
@[simp] theorem State.putWarp_commands (s : State) (w : Warp) : (s.putWarp w).commands = s.commands := rfl
@[simp] theorem State.putWarp_parts (s : State) (w : Warp) : (s.putWarp w).parts = s.parts := rfl
@[simp] theorem State.putWarp_change (s : State) (w : Warp) : (s.putWarp w).change = s.change := rfl
@[simp] theorem State.putWarp_margins (s : State) (w : Warp) : (s.putWarp w).margins = s.margins := rfl
@[simp] theorem State.putWarp_setpoints (s : State) (w : Warp) : (s.putWarp w).setpoints = s.setpoints := rfl
@[simp] theorem State.putWarp_stretched (s : State) (w : Warp) : (s.putWarp w).stretched = s.stretched := rfl
@[simp] theorem State.putWarp_cap (s : State) (w : Warp) : (s.putWarp w).cap = s.cap := rfl
@[simp] theorem State.putWarp_powerHb (s : State) (w : Warp) : (s.putWarp w).powerHb = s.powerHb := rfl
@[simp] theorem State.putWarp_tripped (s : State) (w : Warp) : (s.putWarp w).tripped = s.tripped := rfl
@[simp] theorem State.putWarp_reserves (s : State) (w : Warp) : (s.putWarp w).reserves = s.reserves := rfl
@[simp] theorem State.putWarp_tests (s : State) (w : Warp) : (s.putWarp w).tests = s.tests := rfl
@[simp] theorem State.putWarp_arrived (s : State) (w : Warp) : (s.putWarp w).arrived = s.arrived := rfl
@[simp] theorem State.putWarp_out (s : State) (w : Warp) : (s.putWarp w).out = s.out := rfl

/-! ### A warp changed -/

@[simp] theorem State.onWarp_agenda (s : State) (n : Nat) (f : Warp → Warp) : (s.onWarp n f).agenda = s.agenda := rfl
@[simp] theorem State.onWarp_here (s : State) (n : Nat) (f : Warp → Warp) : (s.onWarp n f).here = s.here := rfl
@[simp] theorem State.onWarp_cur (s : State) (n : Nat) (f : Warp → Warp) : (s.onWarp n f).cur = s.cur := rfl
@[simp] theorem State.onWarp_focus (s : State) (n : Nat) (f : Warp → Warp) : (s.onWarp n f).focus = s.focus := rfl
@[simp] theorem State.onWarp_fresh (s : State) (n : Nat) (f : Warp → Warp) : (s.onWarp n f).fresh = s.fresh := rfl
@[simp] theorem State.onWarp_uids (s : State) (n : Nat) (f : Warp → Warp) : (s.onWarp n f).uids = s.uids := rfl
@[simp] theorem State.onWarp_hb (s : State) (n : Nat) (f : Warp → Warp) : (s.onWarp n f).hb = s.hb := rfl
@[simp] theorem State.onWarp_ns (s : State) (n : Nat) (f : Warp → Warp) : (s.onWarp n f).ns = s.ns := rfl
@[simp] theorem State.onWarp_edgeNs (s : State) (n : Nat) (f : Warp → Warp) : (s.onWarp n f).edgeNs = s.edgeNs := rfl
@[simp] theorem State.onWarp_pkg (s : State) (n : Nat) (f : Warp → Warp) : (s.onWarp n f).pkg = s.pkg := rfl
@[simp] theorem State.onWarp_root (s : State) (n : Nat) (f : Warp → Warp) : (s.onWarp n f).root = s.root := rfl
@[simp] theorem State.onWarp_rootHb (s : State) (n : Nat) (f : Warp → Warp) : (s.onWarp n f).rootHb = s.rootHb := rfl
@[simp] theorem State.onWarp_locked (s : State) (n : Nat) (f : Warp → Warp) : (s.onWarp n f).locked = s.locked := rfl
@[simp] theorem State.onWarp_routed (s : State) (n : Nat) (f : Warp → Warp) : (s.onWarp n f).routed = s.routed := rfl
@[simp] theorem State.onWarp_joined (s : State) (n : Nat) (f : Warp → Warp) : (s.onWarp n f).joined = s.joined := rfl
@[simp] theorem State.onWarp_routes (s : State) (n : Nat) (f : Warp → Warp) : (s.onWarp n f).routes = s.routes := rfl
@[simp] theorem State.onWarp_ports (s : State) (n : Nat) (f : Warp → Warp) : (s.onWarp n f).ports = s.ports := rfl
@[simp] theorem State.onWarp_channels (s : State) (n : Nat) (f : Warp → Warp) : (s.onWarp n f).channels = s.channels := rfl
@[simp] theorem State.onWarp_answers (s : State) (n : Nat) (f : Warp → Warp) : (s.onWarp n f).answers = s.answers := rfl
@[simp] theorem State.onWarp_performedOps (s : State) (n : Nat) (f : Warp → Warp) : (s.onWarp n f).performedOps = s.performedOps := rfl
@[simp] theorem State.onWarp_life (s : State) (n : Nat) (f : Warp → Warp) : (s.onWarp n f).life = s.life := rfl
@[simp] theorem State.onWarp_identity (s : State) (n : Nat) (f : Warp → Warp) : (s.onWarp n f).identity = s.identity := rfl
@[simp] theorem State.onWarp_dev (s : State) (n : Nat) (f : Warp → Warp) : (s.onWarp n f).dev = s.dev := rfl
@[simp] theorem State.onWarp_versions (s : State) (n : Nat) (f : Warp → Warp) : (s.onWarp n f).versions = s.versions := rfl
@[simp] theorem State.onWarp_badLines (s : State) (n : Nat) (f : Warp → Warp) : (s.onWarp n f).badLines = s.badLines := rfl
@[simp] theorem State.onWarp_heldWrites (s : State) (n : Nat) (f : Warp → Warp) : (s.onWarp n f).heldWrites = s.heldWrites := rfl
@[simp] theorem State.onWarp_bmem (s : State) (n : Nat) (f : Warp → Warp) : (s.onWarp n f).bmem = s.bmem := rfl
@[simp] theorem State.onWarp_spad (s : State) (n : Nat) (f : Warp → Warp) : (s.onWarp n f).spad = s.spad := rfl
@[simp] theorem State.onWarp_banks (s : State) (n : Nat) (f : Warp → Warp) : (s.onWarp n f).banks = s.banks := rfl
@[simp] theorem State.onWarp_badBankWords (s : State) (n : Nat) (f : Warp → Warp) : (s.onWarp n f).badBankWords = s.badBankWords := rfl
@[simp] theorem State.onWarp_parity (s : State) (n : Nat) (f : Warp → Warp) : (s.onWarp n f).parity = s.parity := rfl
@[simp] theorem State.onWarp_groups (s : State) (n : Nat) (f : Warp → Warp) : (s.onWarp n f).groups = s.groups := rfl
@[simp] theorem State.onWarp_bankErrors (s : State) (n : Nat) (f : Warp → Warp) : (s.onWarp n f).bankErrors = s.bankErrors := rfl
@[simp] theorem State.onWarp_shadows (s : State) (n : Nat) (f : Warp → Warp) : (s.onWarp n f).shadows = s.shadows := rfl
@[simp] theorem State.onWarp_blocks (s : State) (n : Nat) (f : Warp → Warp) : (s.onWarp n f).blocks = s.blocks := rfl
@[simp] theorem State.onWarp_saved (s : State) (n : Nat) (f : Warp → Warp) : (s.onWarp n f).saved = s.saved := rfl
@[simp] theorem State.onWarp_cores (s : State) (n : Nat) (f : Warp → Warp) : (s.onWarp n f).cores = s.cores := rfl
@[simp] theorem State.onWarp_dieLeaves (s : State) (n : Nat) (f : Warp → Warp) : (s.onWarp n f).dieLeaves = s.dieLeaves := rfl
@[simp] theorem State.onWarp_tasks (s : State) (n : Nat) (f : Warp → Warp) : (s.onWarp n f).tasks = s.tasks := rfl
@[simp] theorem State.onWarp_lastIdx (s : State) (n : Nat) (f : Warp → Warp) : (s.onWarp n f).lastIdx = s.lastIdx := rfl
@[simp] theorem State.onWarp_zeroed (s : State) (n : Nat) (f : Warp → Warp) : (s.onWarp n f).zeroed = s.zeroed := rfl
@[simp] theorem State.onWarp_tables (s : State) (n : Nat) (f : Warp → Warp) : (s.onWarp n f).tables = s.tables := rfl
@[simp] theorem State.onWarp_events (s : State) (n : Nat) (f : Warp → Warp) : (s.onWarp n f).events = s.events := rfl
@[simp] theorem State.onWarp_cpcs (s : State) (n : Nat) (f : Warp → Warp) : (s.onWarp n f).cpcs = s.cpcs := rfl
@[simp] theorem State.onWarp_jobs (s : State) (n : Nat) (f : Warp → Warp) : (s.onWarp n f).jobs = s.jobs := rfl
@[simp] theorem State.onWarp_ladleIn (s : State) (n : Nat) (f : Warp → Warp) : (s.onWarp n f).ladleIn = s.ladleIn := rfl
@[simp] theorem State.onWarp_contexts (s : State) (n : Nat) (f : Warp → Warp) : (s.onWarp n f).contexts = s.contexts := rfl
@[simp] theorem State.onWarp_lastCtx (s : State) (n : Nat) (f : Warp → Warp) : (s.onWarp n f).lastCtx = s.lastCtx := rfl
@[simp] theorem State.onWarp_vdevs (s : State) (n : Nat) (f : Warp → Warp) : (s.onWarp n f).vdevs = s.vdevs := rfl
@[simp] theorem State.onWarp_commands (s : State) (n : Nat) (f : Warp → Warp) : (s.onWarp n f).commands = s.commands := rfl
@[simp] theorem State.onWarp_parts (s : State) (n : Nat) (f : Warp → Warp) : (s.onWarp n f).parts = s.parts := rfl
@[simp] theorem State.onWarp_change (s : State) (n : Nat) (f : Warp → Warp) : (s.onWarp n f).change = s.change := rfl
@[simp] theorem State.onWarp_margins (s : State) (n : Nat) (f : Warp → Warp) : (s.onWarp n f).margins = s.margins := rfl
@[simp] theorem State.onWarp_setpoints (s : State) (n : Nat) (f : Warp → Warp) : (s.onWarp n f).setpoints = s.setpoints := rfl
@[simp] theorem State.onWarp_stretched (s : State) (n : Nat) (f : Warp → Warp) : (s.onWarp n f).stretched = s.stretched := rfl
@[simp] theorem State.onWarp_cap (s : State) (n : Nat) (f : Warp → Warp) : (s.onWarp n f).cap = s.cap := rfl
@[simp] theorem State.onWarp_powerHb (s : State) (n : Nat) (f : Warp → Warp) : (s.onWarp n f).powerHb = s.powerHb := rfl
@[simp] theorem State.onWarp_tripped (s : State) (n : Nat) (f : Warp → Warp) : (s.onWarp n f).tripped = s.tripped := rfl
@[simp] theorem State.onWarp_reserves (s : State) (n : Nat) (f : Warp → Warp) : (s.onWarp n f).reserves = s.reserves := rfl
@[simp] theorem State.onWarp_tests (s : State) (n : Nat) (f : Warp → Warp) : (s.onWarp n f).tests = s.tests := rfl
@[simp] theorem State.onWarp_arrived (s : State) (n : Nat) (f : Warp → Warp) : (s.onWarp n f).arrived = s.arrived := rfl
@[simp] theorem State.onWarp_out (s : State) (n : Nat) (f : Warp → Warp) : (s.onWarp n f).out = s.out := rfl

/-! ### A block changed -/

@[simp] theorem State.onBlock_agenda (s : State) (n : Nat) (f : Block → Block) : (s.onBlock n f).agenda = s.agenda := rfl
@[simp] theorem State.onBlock_here (s : State) (n : Nat) (f : Block → Block) : (s.onBlock n f).here = s.here := rfl
@[simp] theorem State.onBlock_cur (s : State) (n : Nat) (f : Block → Block) : (s.onBlock n f).cur = s.cur := rfl
@[simp] theorem State.onBlock_focus (s : State) (n : Nat) (f : Block → Block) : (s.onBlock n f).focus = s.focus := rfl
@[simp] theorem State.onBlock_fresh (s : State) (n : Nat) (f : Block → Block) : (s.onBlock n f).fresh = s.fresh := rfl
@[simp] theorem State.onBlock_uids (s : State) (n : Nat) (f : Block → Block) : (s.onBlock n f).uids = s.uids := rfl
@[simp] theorem State.onBlock_hb (s : State) (n : Nat) (f : Block → Block) : (s.onBlock n f).hb = s.hb := rfl
@[simp] theorem State.onBlock_ns (s : State) (n : Nat) (f : Block → Block) : (s.onBlock n f).ns = s.ns := rfl
@[simp] theorem State.onBlock_edgeNs (s : State) (n : Nat) (f : Block → Block) : (s.onBlock n f).edgeNs = s.edgeNs := rfl
@[simp] theorem State.onBlock_pkg (s : State) (n : Nat) (f : Block → Block) : (s.onBlock n f).pkg = s.pkg := rfl
@[simp] theorem State.onBlock_root (s : State) (n : Nat) (f : Block → Block) : (s.onBlock n f).root = s.root := rfl
@[simp] theorem State.onBlock_rootHb (s : State) (n : Nat) (f : Block → Block) : (s.onBlock n f).rootHb = s.rootHb := rfl
@[simp] theorem State.onBlock_locked (s : State) (n : Nat) (f : Block → Block) : (s.onBlock n f).locked = s.locked := rfl
@[simp] theorem State.onBlock_routed (s : State) (n : Nat) (f : Block → Block) : (s.onBlock n f).routed = s.routed := rfl
@[simp] theorem State.onBlock_joined (s : State) (n : Nat) (f : Block → Block) : (s.onBlock n f).joined = s.joined := rfl
@[simp] theorem State.onBlock_routes (s : State) (n : Nat) (f : Block → Block) : (s.onBlock n f).routes = s.routes := rfl
@[simp] theorem State.onBlock_ports (s : State) (n : Nat) (f : Block → Block) : (s.onBlock n f).ports = s.ports := rfl
@[simp] theorem State.onBlock_channels (s : State) (n : Nat) (f : Block → Block) : (s.onBlock n f).channels = s.channels := rfl
@[simp] theorem State.onBlock_answers (s : State) (n : Nat) (f : Block → Block) : (s.onBlock n f).answers = s.answers := rfl
@[simp] theorem State.onBlock_performedOps (s : State) (n : Nat) (f : Block → Block) : (s.onBlock n f).performedOps = s.performedOps := rfl
@[simp] theorem State.onBlock_life (s : State) (n : Nat) (f : Block → Block) : (s.onBlock n f).life = s.life := rfl
@[simp] theorem State.onBlock_identity (s : State) (n : Nat) (f : Block → Block) : (s.onBlock n f).identity = s.identity := rfl
@[simp] theorem State.onBlock_dev (s : State) (n : Nat) (f : Block → Block) : (s.onBlock n f).dev = s.dev := rfl
@[simp] theorem State.onBlock_versions (s : State) (n : Nat) (f : Block → Block) : (s.onBlock n f).versions = s.versions := rfl
@[simp] theorem State.onBlock_badLines (s : State) (n : Nat) (f : Block → Block) : (s.onBlock n f).badLines = s.badLines := rfl
@[simp] theorem State.onBlock_heldWrites (s : State) (n : Nat) (f : Block → Block) : (s.onBlock n f).heldWrites = s.heldWrites := rfl
@[simp] theorem State.onBlock_bmem (s : State) (n : Nat) (f : Block → Block) : (s.onBlock n f).bmem = s.bmem := rfl
@[simp] theorem State.onBlock_spad (s : State) (n : Nat) (f : Block → Block) : (s.onBlock n f).spad = s.spad := rfl
@[simp] theorem State.onBlock_banks (s : State) (n : Nat) (f : Block → Block) : (s.onBlock n f).banks = s.banks := rfl
@[simp] theorem State.onBlock_badBankWords (s : State) (n : Nat) (f : Block → Block) : (s.onBlock n f).badBankWords = s.badBankWords := rfl
@[simp] theorem State.onBlock_parity (s : State) (n : Nat) (f : Block → Block) : (s.onBlock n f).parity = s.parity := rfl
@[simp] theorem State.onBlock_groups (s : State) (n : Nat) (f : Block → Block) : (s.onBlock n f).groups = s.groups := rfl
@[simp] theorem State.onBlock_bankErrors (s : State) (n : Nat) (f : Block → Block) : (s.onBlock n f).bankErrors = s.bankErrors := rfl
@[simp] theorem State.onBlock_warps (s : State) (n : Nat) (f : Block → Block) : (s.onBlock n f).warps = s.warps := rfl
@[simp] theorem State.onBlock_shadows (s : State) (n : Nat) (f : Block → Block) : (s.onBlock n f).shadows = s.shadows := rfl
@[simp] theorem State.onBlock_saved (s : State) (n : Nat) (f : Block → Block) : (s.onBlock n f).saved = s.saved := rfl
@[simp] theorem State.onBlock_cores (s : State) (n : Nat) (f : Block → Block) : (s.onBlock n f).cores = s.cores := rfl
@[simp] theorem State.onBlock_dieLeaves (s : State) (n : Nat) (f : Block → Block) : (s.onBlock n f).dieLeaves = s.dieLeaves := rfl
@[simp] theorem State.onBlock_tasks (s : State) (n : Nat) (f : Block → Block) : (s.onBlock n f).tasks = s.tasks := rfl
@[simp] theorem State.onBlock_lastIdx (s : State) (n : Nat) (f : Block → Block) : (s.onBlock n f).lastIdx = s.lastIdx := rfl
@[simp] theorem State.onBlock_zeroed (s : State) (n : Nat) (f : Block → Block) : (s.onBlock n f).zeroed = s.zeroed := rfl
@[simp] theorem State.onBlock_tables (s : State) (n : Nat) (f : Block → Block) : (s.onBlock n f).tables = s.tables := rfl
@[simp] theorem State.onBlock_events (s : State) (n : Nat) (f : Block → Block) : (s.onBlock n f).events = s.events := rfl
@[simp] theorem State.onBlock_cpcs (s : State) (n : Nat) (f : Block → Block) : (s.onBlock n f).cpcs = s.cpcs := rfl
@[simp] theorem State.onBlock_jobs (s : State) (n : Nat) (f : Block → Block) : (s.onBlock n f).jobs = s.jobs := rfl
@[simp] theorem State.onBlock_ladleIn (s : State) (n : Nat) (f : Block → Block) : (s.onBlock n f).ladleIn = s.ladleIn := rfl
@[simp] theorem State.onBlock_contexts (s : State) (n : Nat) (f : Block → Block) : (s.onBlock n f).contexts = s.contexts := rfl
@[simp] theorem State.onBlock_lastCtx (s : State) (n : Nat) (f : Block → Block) : (s.onBlock n f).lastCtx = s.lastCtx := rfl
@[simp] theorem State.onBlock_vdevs (s : State) (n : Nat) (f : Block → Block) : (s.onBlock n f).vdevs = s.vdevs := rfl
@[simp] theorem State.onBlock_commands (s : State) (n : Nat) (f : Block → Block) : (s.onBlock n f).commands = s.commands := rfl
@[simp] theorem State.onBlock_parts (s : State) (n : Nat) (f : Block → Block) : (s.onBlock n f).parts = s.parts := rfl
@[simp] theorem State.onBlock_change (s : State) (n : Nat) (f : Block → Block) : (s.onBlock n f).change = s.change := rfl
@[simp] theorem State.onBlock_margins (s : State) (n : Nat) (f : Block → Block) : (s.onBlock n f).margins = s.margins := rfl
@[simp] theorem State.onBlock_setpoints (s : State) (n : Nat) (f : Block → Block) : (s.onBlock n f).setpoints = s.setpoints := rfl
@[simp] theorem State.onBlock_stretched (s : State) (n : Nat) (f : Block → Block) : (s.onBlock n f).stretched = s.stretched := rfl
@[simp] theorem State.onBlock_cap (s : State) (n : Nat) (f : Block → Block) : (s.onBlock n f).cap = s.cap := rfl
@[simp] theorem State.onBlock_powerHb (s : State) (n : Nat) (f : Block → Block) : (s.onBlock n f).powerHb = s.powerHb := rfl
@[simp] theorem State.onBlock_tripped (s : State) (n : Nat) (f : Block → Block) : (s.onBlock n f).tripped = s.tripped := rfl
@[simp] theorem State.onBlock_reserves (s : State) (n : Nat) (f : Block → Block) : (s.onBlock n f).reserves = s.reserves := rfl
@[simp] theorem State.onBlock_tests (s : State) (n : Nat) (f : Block → Block) : (s.onBlock n f).tests = s.tests := rfl
@[simp] theorem State.onBlock_arrived (s : State) (n : Nat) (f : Block → Block) : (s.onBlock n f).arrived = s.arrived := rfl
@[simp] theorem State.onBlock_out (s : State) (n : Nat) (f : Block → Block) : (s.onBlock n f).out = s.out := rfl

/-! ### A core put back -/

@[simp] theorem State.putCore_agenda (s : State) (c : Core) : (s.putCore c).agenda = s.agenda := rfl
@[simp] theorem State.putCore_here (s : State) (c : Core) : (s.putCore c).here = s.here := rfl
@[simp] theorem State.putCore_cur (s : State) (c : Core) : (s.putCore c).cur = s.cur := rfl
@[simp] theorem State.putCore_focus (s : State) (c : Core) : (s.putCore c).focus = s.focus := rfl
@[simp] theorem State.putCore_fresh (s : State) (c : Core) : (s.putCore c).fresh = s.fresh := rfl
@[simp] theorem State.putCore_uids (s : State) (c : Core) : (s.putCore c).uids = s.uids := rfl
@[simp] theorem State.putCore_hb (s : State) (c : Core) : (s.putCore c).hb = s.hb := rfl
@[simp] theorem State.putCore_ns (s : State) (c : Core) : (s.putCore c).ns = s.ns := rfl
@[simp] theorem State.putCore_edgeNs (s : State) (c : Core) : (s.putCore c).edgeNs = s.edgeNs := rfl
@[simp] theorem State.putCore_pkg (s : State) (c : Core) : (s.putCore c).pkg = s.pkg := rfl
@[simp] theorem State.putCore_root (s : State) (c : Core) : (s.putCore c).root = s.root := rfl
@[simp] theorem State.putCore_rootHb (s : State) (c : Core) : (s.putCore c).rootHb = s.rootHb := rfl
@[simp] theorem State.putCore_locked (s : State) (c : Core) : (s.putCore c).locked = s.locked := rfl
@[simp] theorem State.putCore_routed (s : State) (c : Core) : (s.putCore c).routed = s.routed := rfl
@[simp] theorem State.putCore_joined (s : State) (c : Core) : (s.putCore c).joined = s.joined := rfl
@[simp] theorem State.putCore_routes (s : State) (c : Core) : (s.putCore c).routes = s.routes := rfl
@[simp] theorem State.putCore_ports (s : State) (c : Core) : (s.putCore c).ports = s.ports := rfl
@[simp] theorem State.putCore_channels (s : State) (c : Core) : (s.putCore c).channels = s.channels := rfl
@[simp] theorem State.putCore_answers (s : State) (c : Core) : (s.putCore c).answers = s.answers := rfl
@[simp] theorem State.putCore_performedOps (s : State) (c : Core) : (s.putCore c).performedOps = s.performedOps := rfl
@[simp] theorem State.putCore_life (s : State) (c : Core) : (s.putCore c).life = s.life := rfl
@[simp] theorem State.putCore_identity (s : State) (c : Core) : (s.putCore c).identity = s.identity := rfl
@[simp] theorem State.putCore_dev (s : State) (c : Core) : (s.putCore c).dev = s.dev := rfl
@[simp] theorem State.putCore_versions (s : State) (c : Core) : (s.putCore c).versions = s.versions := rfl
@[simp] theorem State.putCore_badLines (s : State) (c : Core) : (s.putCore c).badLines = s.badLines := rfl
@[simp] theorem State.putCore_heldWrites (s : State) (c : Core) : (s.putCore c).heldWrites = s.heldWrites := rfl
@[simp] theorem State.putCore_bmem (s : State) (c : Core) : (s.putCore c).bmem = s.bmem := rfl
@[simp] theorem State.putCore_spad (s : State) (c : Core) : (s.putCore c).spad = s.spad := rfl
@[simp] theorem State.putCore_banks (s : State) (c : Core) : (s.putCore c).banks = s.banks := rfl
@[simp] theorem State.putCore_badBankWords (s : State) (c : Core) : (s.putCore c).badBankWords = s.badBankWords := rfl
@[simp] theorem State.putCore_parity (s : State) (c : Core) : (s.putCore c).parity = s.parity := rfl
@[simp] theorem State.putCore_groups (s : State) (c : Core) : (s.putCore c).groups = s.groups := rfl
@[simp] theorem State.putCore_bankErrors (s : State) (c : Core) : (s.putCore c).bankErrors = s.bankErrors := rfl
@[simp] theorem State.putCore_warps (s : State) (c : Core) : (s.putCore c).warps = s.warps := rfl
@[simp] theorem State.putCore_shadows (s : State) (c : Core) : (s.putCore c).shadows = s.shadows := rfl
@[simp] theorem State.putCore_blocks (s : State) (c : Core) : (s.putCore c).blocks = s.blocks := rfl
@[simp] theorem State.putCore_saved (s : State) (c : Core) : (s.putCore c).saved = s.saved := rfl
@[simp] theorem State.putCore_dieLeaves (s : State) (c : Core) : (s.putCore c).dieLeaves = s.dieLeaves := rfl
@[simp] theorem State.putCore_tasks (s : State) (c : Core) : (s.putCore c).tasks = s.tasks := rfl
@[simp] theorem State.putCore_lastIdx (s : State) (c : Core) : (s.putCore c).lastIdx = s.lastIdx := rfl
@[simp] theorem State.putCore_zeroed (s : State) (c : Core) : (s.putCore c).zeroed = s.zeroed := rfl
@[simp] theorem State.putCore_tables (s : State) (c : Core) : (s.putCore c).tables = s.tables := rfl
@[simp] theorem State.putCore_events (s : State) (c : Core) : (s.putCore c).events = s.events := rfl
@[simp] theorem State.putCore_cpcs (s : State) (c : Core) : (s.putCore c).cpcs = s.cpcs := rfl
@[simp] theorem State.putCore_jobs (s : State) (c : Core) : (s.putCore c).jobs = s.jobs := rfl
@[simp] theorem State.putCore_ladleIn (s : State) (c : Core) : (s.putCore c).ladleIn = s.ladleIn := rfl
@[simp] theorem State.putCore_contexts (s : State) (c : Core) : (s.putCore c).contexts = s.contexts := rfl
@[simp] theorem State.putCore_lastCtx (s : State) (c : Core) : (s.putCore c).lastCtx = s.lastCtx := rfl
@[simp] theorem State.putCore_vdevs (s : State) (c : Core) : (s.putCore c).vdevs = s.vdevs := rfl
@[simp] theorem State.putCore_commands (s : State) (c : Core) : (s.putCore c).commands = s.commands := rfl
@[simp] theorem State.putCore_parts (s : State) (c : Core) : (s.putCore c).parts = s.parts := rfl
@[simp] theorem State.putCore_change (s : State) (c : Core) : (s.putCore c).change = s.change := rfl
@[simp] theorem State.putCore_margins (s : State) (c : Core) : (s.putCore c).margins = s.margins := rfl
@[simp] theorem State.putCore_setpoints (s : State) (c : Core) : (s.putCore c).setpoints = s.setpoints := rfl
@[simp] theorem State.putCore_stretched (s : State) (c : Core) : (s.putCore c).stretched = s.stretched := rfl
@[simp] theorem State.putCore_cap (s : State) (c : Core) : (s.putCore c).cap = s.cap := rfl
@[simp] theorem State.putCore_powerHb (s : State) (c : Core) : (s.putCore c).powerHb = s.powerHb := rfl
@[simp] theorem State.putCore_tripped (s : State) (c : Core) : (s.putCore c).tripped = s.tripped := rfl
@[simp] theorem State.putCore_reserves (s : State) (c : Core) : (s.putCore c).reserves = s.reserves := rfl
@[simp] theorem State.putCore_tests (s : State) (c : Core) : (s.putCore c).tests = s.tests := rfl
@[simp] theorem State.putCore_arrived (s : State) (c : Core) : (s.putCore c).arrived = s.arrived := rfl
@[simp] theorem State.putCore_out (s : State) (c : Core) : (s.putCore c).out = s.out := rfl

/-! ### A core changed -/

@[simp] theorem State.onCore_agenda (s : State) (n : Nat) (f : Core → Core) : (s.onCore n f).agenda = s.agenda := rfl
@[simp] theorem State.onCore_here (s : State) (n : Nat) (f : Core → Core) : (s.onCore n f).here = s.here := rfl
@[simp] theorem State.onCore_cur (s : State) (n : Nat) (f : Core → Core) : (s.onCore n f).cur = s.cur := rfl
@[simp] theorem State.onCore_focus (s : State) (n : Nat) (f : Core → Core) : (s.onCore n f).focus = s.focus := rfl
@[simp] theorem State.onCore_fresh (s : State) (n : Nat) (f : Core → Core) : (s.onCore n f).fresh = s.fresh := rfl
@[simp] theorem State.onCore_uids (s : State) (n : Nat) (f : Core → Core) : (s.onCore n f).uids = s.uids := rfl
@[simp] theorem State.onCore_hb (s : State) (n : Nat) (f : Core → Core) : (s.onCore n f).hb = s.hb := rfl
@[simp] theorem State.onCore_ns (s : State) (n : Nat) (f : Core → Core) : (s.onCore n f).ns = s.ns := rfl
@[simp] theorem State.onCore_edgeNs (s : State) (n : Nat) (f : Core → Core) : (s.onCore n f).edgeNs = s.edgeNs := rfl
@[simp] theorem State.onCore_pkg (s : State) (n : Nat) (f : Core → Core) : (s.onCore n f).pkg = s.pkg := rfl
@[simp] theorem State.onCore_root (s : State) (n : Nat) (f : Core → Core) : (s.onCore n f).root = s.root := rfl
@[simp] theorem State.onCore_rootHb (s : State) (n : Nat) (f : Core → Core) : (s.onCore n f).rootHb = s.rootHb := rfl
@[simp] theorem State.onCore_locked (s : State) (n : Nat) (f : Core → Core) : (s.onCore n f).locked = s.locked := rfl
@[simp] theorem State.onCore_routed (s : State) (n : Nat) (f : Core → Core) : (s.onCore n f).routed = s.routed := rfl
@[simp] theorem State.onCore_joined (s : State) (n : Nat) (f : Core → Core) : (s.onCore n f).joined = s.joined := rfl
@[simp] theorem State.onCore_routes (s : State) (n : Nat) (f : Core → Core) : (s.onCore n f).routes = s.routes := rfl
@[simp] theorem State.onCore_ports (s : State) (n : Nat) (f : Core → Core) : (s.onCore n f).ports = s.ports := rfl
@[simp] theorem State.onCore_channels (s : State) (n : Nat) (f : Core → Core) : (s.onCore n f).channels = s.channels := rfl
@[simp] theorem State.onCore_answers (s : State) (n : Nat) (f : Core → Core) : (s.onCore n f).answers = s.answers := rfl
@[simp] theorem State.onCore_performedOps (s : State) (n : Nat) (f : Core → Core) : (s.onCore n f).performedOps = s.performedOps := rfl
@[simp] theorem State.onCore_life (s : State) (n : Nat) (f : Core → Core) : (s.onCore n f).life = s.life := rfl
@[simp] theorem State.onCore_identity (s : State) (n : Nat) (f : Core → Core) : (s.onCore n f).identity = s.identity := rfl
@[simp] theorem State.onCore_dev (s : State) (n : Nat) (f : Core → Core) : (s.onCore n f).dev = s.dev := rfl
@[simp] theorem State.onCore_versions (s : State) (n : Nat) (f : Core → Core) : (s.onCore n f).versions = s.versions := rfl
@[simp] theorem State.onCore_badLines (s : State) (n : Nat) (f : Core → Core) : (s.onCore n f).badLines = s.badLines := rfl
@[simp] theorem State.onCore_heldWrites (s : State) (n : Nat) (f : Core → Core) : (s.onCore n f).heldWrites = s.heldWrites := rfl
@[simp] theorem State.onCore_bmem (s : State) (n : Nat) (f : Core → Core) : (s.onCore n f).bmem = s.bmem := rfl
@[simp] theorem State.onCore_spad (s : State) (n : Nat) (f : Core → Core) : (s.onCore n f).spad = s.spad := rfl
@[simp] theorem State.onCore_banks (s : State) (n : Nat) (f : Core → Core) : (s.onCore n f).banks = s.banks := rfl
@[simp] theorem State.onCore_badBankWords (s : State) (n : Nat) (f : Core → Core) : (s.onCore n f).badBankWords = s.badBankWords := rfl
@[simp] theorem State.onCore_parity (s : State) (n : Nat) (f : Core → Core) : (s.onCore n f).parity = s.parity := rfl
@[simp] theorem State.onCore_groups (s : State) (n : Nat) (f : Core → Core) : (s.onCore n f).groups = s.groups := rfl
@[simp] theorem State.onCore_bankErrors (s : State) (n : Nat) (f : Core → Core) : (s.onCore n f).bankErrors = s.bankErrors := rfl
@[simp] theorem State.onCore_warps (s : State) (n : Nat) (f : Core → Core) : (s.onCore n f).warps = s.warps := rfl
@[simp] theorem State.onCore_shadows (s : State) (n : Nat) (f : Core → Core) : (s.onCore n f).shadows = s.shadows := rfl
@[simp] theorem State.onCore_blocks (s : State) (n : Nat) (f : Core → Core) : (s.onCore n f).blocks = s.blocks := rfl
@[simp] theorem State.onCore_saved (s : State) (n : Nat) (f : Core → Core) : (s.onCore n f).saved = s.saved := rfl
@[simp] theorem State.onCore_dieLeaves (s : State) (n : Nat) (f : Core → Core) : (s.onCore n f).dieLeaves = s.dieLeaves := rfl
@[simp] theorem State.onCore_tasks (s : State) (n : Nat) (f : Core → Core) : (s.onCore n f).tasks = s.tasks := rfl
@[simp] theorem State.onCore_lastIdx (s : State) (n : Nat) (f : Core → Core) : (s.onCore n f).lastIdx = s.lastIdx := rfl
@[simp] theorem State.onCore_zeroed (s : State) (n : Nat) (f : Core → Core) : (s.onCore n f).zeroed = s.zeroed := rfl
@[simp] theorem State.onCore_tables (s : State) (n : Nat) (f : Core → Core) : (s.onCore n f).tables = s.tables := rfl
@[simp] theorem State.onCore_events (s : State) (n : Nat) (f : Core → Core) : (s.onCore n f).events = s.events := rfl
@[simp] theorem State.onCore_cpcs (s : State) (n : Nat) (f : Core → Core) : (s.onCore n f).cpcs = s.cpcs := rfl
@[simp] theorem State.onCore_jobs (s : State) (n : Nat) (f : Core → Core) : (s.onCore n f).jobs = s.jobs := rfl
@[simp] theorem State.onCore_ladleIn (s : State) (n : Nat) (f : Core → Core) : (s.onCore n f).ladleIn = s.ladleIn := rfl
@[simp] theorem State.onCore_contexts (s : State) (n : Nat) (f : Core → Core) : (s.onCore n f).contexts = s.contexts := rfl
@[simp] theorem State.onCore_lastCtx (s : State) (n : Nat) (f : Core → Core) : (s.onCore n f).lastCtx = s.lastCtx := rfl
@[simp] theorem State.onCore_vdevs (s : State) (n : Nat) (f : Core → Core) : (s.onCore n f).vdevs = s.vdevs := rfl
@[simp] theorem State.onCore_commands (s : State) (n : Nat) (f : Core → Core) : (s.onCore n f).commands = s.commands := rfl
@[simp] theorem State.onCore_parts (s : State) (n : Nat) (f : Core → Core) : (s.onCore n f).parts = s.parts := rfl
@[simp] theorem State.onCore_change (s : State) (n : Nat) (f : Core → Core) : (s.onCore n f).change = s.change := rfl
@[simp] theorem State.onCore_margins (s : State) (n : Nat) (f : Core → Core) : (s.onCore n f).margins = s.margins := rfl
@[simp] theorem State.onCore_setpoints (s : State) (n : Nat) (f : Core → Core) : (s.onCore n f).setpoints = s.setpoints := rfl
@[simp] theorem State.onCore_stretched (s : State) (n : Nat) (f : Core → Core) : (s.onCore n f).stretched = s.stretched := rfl
@[simp] theorem State.onCore_cap (s : State) (n : Nat) (f : Core → Core) : (s.onCore n f).cap = s.cap := rfl
@[simp] theorem State.onCore_powerHb (s : State) (n : Nat) (f : Core → Core) : (s.onCore n f).powerHb = s.powerHb := rfl
@[simp] theorem State.onCore_tripped (s : State) (n : Nat) (f : Core → Core) : (s.onCore n f).tripped = s.tripped := rfl
@[simp] theorem State.onCore_reserves (s : State) (n : Nat) (f : Core → Core) : (s.onCore n f).reserves = s.reserves := rfl
@[simp] theorem State.onCore_tests (s : State) (n : Nat) (f : Core → Core) : (s.onCore n f).tests = s.tests := rfl
@[simp] theorem State.onCore_arrived (s : State) (n : Nat) (f : Core → Core) : (s.onCore n f).arrived = s.arrived := rfl
@[simp] theorem State.onCore_out (s : State) (n : Nat) (f : Core → Core) : (s.onCore n f).out = s.out := rfl

/-! ### A context changed -/

@[simp] theorem State.onCtx_agenda (s : State) (n : Nat) (f : Context → Context) : (s.onCtx n f).agenda = s.agenda := rfl
@[simp] theorem State.onCtx_here (s : State) (n : Nat) (f : Context → Context) : (s.onCtx n f).here = s.here := rfl
@[simp] theorem State.onCtx_cur (s : State) (n : Nat) (f : Context → Context) : (s.onCtx n f).cur = s.cur := rfl
@[simp] theorem State.onCtx_focus (s : State) (n : Nat) (f : Context → Context) : (s.onCtx n f).focus = s.focus := rfl
@[simp] theorem State.onCtx_fresh (s : State) (n : Nat) (f : Context → Context) : (s.onCtx n f).fresh = s.fresh := rfl
@[simp] theorem State.onCtx_uids (s : State) (n : Nat) (f : Context → Context) : (s.onCtx n f).uids = s.uids := rfl
@[simp] theorem State.onCtx_hb (s : State) (n : Nat) (f : Context → Context) : (s.onCtx n f).hb = s.hb := rfl
@[simp] theorem State.onCtx_ns (s : State) (n : Nat) (f : Context → Context) : (s.onCtx n f).ns = s.ns := rfl
@[simp] theorem State.onCtx_edgeNs (s : State) (n : Nat) (f : Context → Context) : (s.onCtx n f).edgeNs = s.edgeNs := rfl
@[simp] theorem State.onCtx_pkg (s : State) (n : Nat) (f : Context → Context) : (s.onCtx n f).pkg = s.pkg := rfl
@[simp] theorem State.onCtx_root (s : State) (n : Nat) (f : Context → Context) : (s.onCtx n f).root = s.root := rfl
@[simp] theorem State.onCtx_rootHb (s : State) (n : Nat) (f : Context → Context) : (s.onCtx n f).rootHb = s.rootHb := rfl
@[simp] theorem State.onCtx_locked (s : State) (n : Nat) (f : Context → Context) : (s.onCtx n f).locked = s.locked := rfl
@[simp] theorem State.onCtx_routed (s : State) (n : Nat) (f : Context → Context) : (s.onCtx n f).routed = s.routed := rfl
@[simp] theorem State.onCtx_joined (s : State) (n : Nat) (f : Context → Context) : (s.onCtx n f).joined = s.joined := rfl
@[simp] theorem State.onCtx_routes (s : State) (n : Nat) (f : Context → Context) : (s.onCtx n f).routes = s.routes := rfl
@[simp] theorem State.onCtx_ports (s : State) (n : Nat) (f : Context → Context) : (s.onCtx n f).ports = s.ports := rfl
@[simp] theorem State.onCtx_channels (s : State) (n : Nat) (f : Context → Context) : (s.onCtx n f).channels = s.channels := rfl
@[simp] theorem State.onCtx_answers (s : State) (n : Nat) (f : Context → Context) : (s.onCtx n f).answers = s.answers := rfl
@[simp] theorem State.onCtx_performedOps (s : State) (n : Nat) (f : Context → Context) : (s.onCtx n f).performedOps = s.performedOps := rfl
@[simp] theorem State.onCtx_life (s : State) (n : Nat) (f : Context → Context) : (s.onCtx n f).life = s.life := rfl
@[simp] theorem State.onCtx_identity (s : State) (n : Nat) (f : Context → Context) : (s.onCtx n f).identity = s.identity := rfl
@[simp] theorem State.onCtx_dev (s : State) (n : Nat) (f : Context → Context) : (s.onCtx n f).dev = s.dev := rfl
@[simp] theorem State.onCtx_versions (s : State) (n : Nat) (f : Context → Context) : (s.onCtx n f).versions = s.versions := rfl
@[simp] theorem State.onCtx_badLines (s : State) (n : Nat) (f : Context → Context) : (s.onCtx n f).badLines = s.badLines := rfl
@[simp] theorem State.onCtx_heldWrites (s : State) (n : Nat) (f : Context → Context) : (s.onCtx n f).heldWrites = s.heldWrites := rfl
@[simp] theorem State.onCtx_bmem (s : State) (n : Nat) (f : Context → Context) : (s.onCtx n f).bmem = s.bmem := rfl
@[simp] theorem State.onCtx_spad (s : State) (n : Nat) (f : Context → Context) : (s.onCtx n f).spad = s.spad := rfl
@[simp] theorem State.onCtx_banks (s : State) (n : Nat) (f : Context → Context) : (s.onCtx n f).banks = s.banks := rfl
@[simp] theorem State.onCtx_badBankWords (s : State) (n : Nat) (f : Context → Context) : (s.onCtx n f).badBankWords = s.badBankWords := rfl
@[simp] theorem State.onCtx_parity (s : State) (n : Nat) (f : Context → Context) : (s.onCtx n f).parity = s.parity := rfl
@[simp] theorem State.onCtx_groups (s : State) (n : Nat) (f : Context → Context) : (s.onCtx n f).groups = s.groups := rfl
@[simp] theorem State.onCtx_bankErrors (s : State) (n : Nat) (f : Context → Context) : (s.onCtx n f).bankErrors = s.bankErrors := rfl
@[simp] theorem State.onCtx_warps (s : State) (n : Nat) (f : Context → Context) : (s.onCtx n f).warps = s.warps := rfl
@[simp] theorem State.onCtx_shadows (s : State) (n : Nat) (f : Context → Context) : (s.onCtx n f).shadows = s.shadows := rfl
@[simp] theorem State.onCtx_blocks (s : State) (n : Nat) (f : Context → Context) : (s.onCtx n f).blocks = s.blocks := rfl
@[simp] theorem State.onCtx_saved (s : State) (n : Nat) (f : Context → Context) : (s.onCtx n f).saved = s.saved := rfl
@[simp] theorem State.onCtx_cores (s : State) (n : Nat) (f : Context → Context) : (s.onCtx n f).cores = s.cores := rfl
@[simp] theorem State.onCtx_dieLeaves (s : State) (n : Nat) (f : Context → Context) : (s.onCtx n f).dieLeaves = s.dieLeaves := rfl
@[simp] theorem State.onCtx_tasks (s : State) (n : Nat) (f : Context → Context) : (s.onCtx n f).tasks = s.tasks := rfl
@[simp] theorem State.onCtx_lastIdx (s : State) (n : Nat) (f : Context → Context) : (s.onCtx n f).lastIdx = s.lastIdx := rfl
@[simp] theorem State.onCtx_zeroed (s : State) (n : Nat) (f : Context → Context) : (s.onCtx n f).zeroed = s.zeroed := rfl
@[simp] theorem State.onCtx_tables (s : State) (n : Nat) (f : Context → Context) : (s.onCtx n f).tables = s.tables := rfl
@[simp] theorem State.onCtx_events (s : State) (n : Nat) (f : Context → Context) : (s.onCtx n f).events = s.events := rfl
@[simp] theorem State.onCtx_cpcs (s : State) (n : Nat) (f : Context → Context) : (s.onCtx n f).cpcs = s.cpcs := rfl
@[simp] theorem State.onCtx_jobs (s : State) (n : Nat) (f : Context → Context) : (s.onCtx n f).jobs = s.jobs := rfl
@[simp] theorem State.onCtx_ladleIn (s : State) (n : Nat) (f : Context → Context) : (s.onCtx n f).ladleIn = s.ladleIn := rfl
@[simp] theorem State.onCtx_lastCtx (s : State) (n : Nat) (f : Context → Context) : (s.onCtx n f).lastCtx = s.lastCtx := rfl
@[simp] theorem State.onCtx_vdevs (s : State) (n : Nat) (f : Context → Context) : (s.onCtx n f).vdevs = s.vdevs := rfl
@[simp] theorem State.onCtx_commands (s : State) (n : Nat) (f : Context → Context) : (s.onCtx n f).commands = s.commands := rfl
@[simp] theorem State.onCtx_parts (s : State) (n : Nat) (f : Context → Context) : (s.onCtx n f).parts = s.parts := rfl
@[simp] theorem State.onCtx_change (s : State) (n : Nat) (f : Context → Context) : (s.onCtx n f).change = s.change := rfl
@[simp] theorem State.onCtx_margins (s : State) (n : Nat) (f : Context → Context) : (s.onCtx n f).margins = s.margins := rfl
@[simp] theorem State.onCtx_setpoints (s : State) (n : Nat) (f : Context → Context) : (s.onCtx n f).setpoints = s.setpoints := rfl
@[simp] theorem State.onCtx_stretched (s : State) (n : Nat) (f : Context → Context) : (s.onCtx n f).stretched = s.stretched := rfl
@[simp] theorem State.onCtx_cap (s : State) (n : Nat) (f : Context → Context) : (s.onCtx n f).cap = s.cap := rfl
@[simp] theorem State.onCtx_powerHb (s : State) (n : Nat) (f : Context → Context) : (s.onCtx n f).powerHb = s.powerHb := rfl
@[simp] theorem State.onCtx_tripped (s : State) (n : Nat) (f : Context → Context) : (s.onCtx n f).tripped = s.tripped := rfl
@[simp] theorem State.onCtx_reserves (s : State) (n : Nat) (f : Context → Context) : (s.onCtx n f).reserves = s.reserves := rfl
@[simp] theorem State.onCtx_tests (s : State) (n : Nat) (f : Context → Context) : (s.onCtx n f).tests = s.tests := rfl
@[simp] theorem State.onCtx_arrived (s : State) (n : Nat) (f : Context → Context) : (s.onCtx n f).arrived = s.arrived := rfl
@[simp] theorem State.onCtx_out (s : State) (n : Nat) (f : Context → Context) : (s.onCtx n f).out = s.out := rfl

/-! ### A virtual device changed -/

@[simp] theorem State.onVd_agenda (s : State) (n : Nat) (f : VDev → VDev) : (s.onVd n f).agenda = s.agenda := rfl
@[simp] theorem State.onVd_here (s : State) (n : Nat) (f : VDev → VDev) : (s.onVd n f).here = s.here := rfl
@[simp] theorem State.onVd_cur (s : State) (n : Nat) (f : VDev → VDev) : (s.onVd n f).cur = s.cur := rfl
@[simp] theorem State.onVd_focus (s : State) (n : Nat) (f : VDev → VDev) : (s.onVd n f).focus = s.focus := rfl
@[simp] theorem State.onVd_fresh (s : State) (n : Nat) (f : VDev → VDev) : (s.onVd n f).fresh = s.fresh := rfl
@[simp] theorem State.onVd_uids (s : State) (n : Nat) (f : VDev → VDev) : (s.onVd n f).uids = s.uids := rfl
@[simp] theorem State.onVd_hb (s : State) (n : Nat) (f : VDev → VDev) : (s.onVd n f).hb = s.hb := rfl
@[simp] theorem State.onVd_ns (s : State) (n : Nat) (f : VDev → VDev) : (s.onVd n f).ns = s.ns := rfl
@[simp] theorem State.onVd_edgeNs (s : State) (n : Nat) (f : VDev → VDev) : (s.onVd n f).edgeNs = s.edgeNs := rfl
@[simp] theorem State.onVd_pkg (s : State) (n : Nat) (f : VDev → VDev) : (s.onVd n f).pkg = s.pkg := rfl
@[simp] theorem State.onVd_root (s : State) (n : Nat) (f : VDev → VDev) : (s.onVd n f).root = s.root := rfl
@[simp] theorem State.onVd_rootHb (s : State) (n : Nat) (f : VDev → VDev) : (s.onVd n f).rootHb = s.rootHb := rfl
@[simp] theorem State.onVd_locked (s : State) (n : Nat) (f : VDev → VDev) : (s.onVd n f).locked = s.locked := rfl
@[simp] theorem State.onVd_routed (s : State) (n : Nat) (f : VDev → VDev) : (s.onVd n f).routed = s.routed := rfl
@[simp] theorem State.onVd_joined (s : State) (n : Nat) (f : VDev → VDev) : (s.onVd n f).joined = s.joined := rfl
@[simp] theorem State.onVd_routes (s : State) (n : Nat) (f : VDev → VDev) : (s.onVd n f).routes = s.routes := rfl
@[simp] theorem State.onVd_ports (s : State) (n : Nat) (f : VDev → VDev) : (s.onVd n f).ports = s.ports := rfl
@[simp] theorem State.onVd_channels (s : State) (n : Nat) (f : VDev → VDev) : (s.onVd n f).channels = s.channels := rfl
@[simp] theorem State.onVd_answers (s : State) (n : Nat) (f : VDev → VDev) : (s.onVd n f).answers = s.answers := rfl
@[simp] theorem State.onVd_performedOps (s : State) (n : Nat) (f : VDev → VDev) : (s.onVd n f).performedOps = s.performedOps := rfl
@[simp] theorem State.onVd_life (s : State) (n : Nat) (f : VDev → VDev) : (s.onVd n f).life = s.life := rfl
@[simp] theorem State.onVd_identity (s : State) (n : Nat) (f : VDev → VDev) : (s.onVd n f).identity = s.identity := rfl
@[simp] theorem State.onVd_dev (s : State) (n : Nat) (f : VDev → VDev) : (s.onVd n f).dev = s.dev := rfl
@[simp] theorem State.onVd_versions (s : State) (n : Nat) (f : VDev → VDev) : (s.onVd n f).versions = s.versions := rfl
@[simp] theorem State.onVd_badLines (s : State) (n : Nat) (f : VDev → VDev) : (s.onVd n f).badLines = s.badLines := rfl
@[simp] theorem State.onVd_heldWrites (s : State) (n : Nat) (f : VDev → VDev) : (s.onVd n f).heldWrites = s.heldWrites := rfl
@[simp] theorem State.onVd_bmem (s : State) (n : Nat) (f : VDev → VDev) : (s.onVd n f).bmem = s.bmem := rfl
@[simp] theorem State.onVd_spad (s : State) (n : Nat) (f : VDev → VDev) : (s.onVd n f).spad = s.spad := rfl
@[simp] theorem State.onVd_banks (s : State) (n : Nat) (f : VDev → VDev) : (s.onVd n f).banks = s.banks := rfl
@[simp] theorem State.onVd_badBankWords (s : State) (n : Nat) (f : VDev → VDev) : (s.onVd n f).badBankWords = s.badBankWords := rfl
@[simp] theorem State.onVd_parity (s : State) (n : Nat) (f : VDev → VDev) : (s.onVd n f).parity = s.parity := rfl
@[simp] theorem State.onVd_groups (s : State) (n : Nat) (f : VDev → VDev) : (s.onVd n f).groups = s.groups := rfl
@[simp] theorem State.onVd_bankErrors (s : State) (n : Nat) (f : VDev → VDev) : (s.onVd n f).bankErrors = s.bankErrors := rfl
@[simp] theorem State.onVd_warps (s : State) (n : Nat) (f : VDev → VDev) : (s.onVd n f).warps = s.warps := rfl
@[simp] theorem State.onVd_shadows (s : State) (n : Nat) (f : VDev → VDev) : (s.onVd n f).shadows = s.shadows := rfl
@[simp] theorem State.onVd_blocks (s : State) (n : Nat) (f : VDev → VDev) : (s.onVd n f).blocks = s.blocks := rfl
@[simp] theorem State.onVd_saved (s : State) (n : Nat) (f : VDev → VDev) : (s.onVd n f).saved = s.saved := rfl
@[simp] theorem State.onVd_cores (s : State) (n : Nat) (f : VDev → VDev) : (s.onVd n f).cores = s.cores := rfl
@[simp] theorem State.onVd_dieLeaves (s : State) (n : Nat) (f : VDev → VDev) : (s.onVd n f).dieLeaves = s.dieLeaves := rfl
@[simp] theorem State.onVd_tasks (s : State) (n : Nat) (f : VDev → VDev) : (s.onVd n f).tasks = s.tasks := rfl
@[simp] theorem State.onVd_lastIdx (s : State) (n : Nat) (f : VDev → VDev) : (s.onVd n f).lastIdx = s.lastIdx := rfl
@[simp] theorem State.onVd_zeroed (s : State) (n : Nat) (f : VDev → VDev) : (s.onVd n f).zeroed = s.zeroed := rfl
@[simp] theorem State.onVd_tables (s : State) (n : Nat) (f : VDev → VDev) : (s.onVd n f).tables = s.tables := rfl
@[simp] theorem State.onVd_events (s : State) (n : Nat) (f : VDev → VDev) : (s.onVd n f).events = s.events := rfl
@[simp] theorem State.onVd_cpcs (s : State) (n : Nat) (f : VDev → VDev) : (s.onVd n f).cpcs = s.cpcs := rfl
@[simp] theorem State.onVd_jobs (s : State) (n : Nat) (f : VDev → VDev) : (s.onVd n f).jobs = s.jobs := rfl
@[simp] theorem State.onVd_ladleIn (s : State) (n : Nat) (f : VDev → VDev) : (s.onVd n f).ladleIn = s.ladleIn := rfl
@[simp] theorem State.onVd_contexts (s : State) (n : Nat) (f : VDev → VDev) : (s.onVd n f).contexts = s.contexts := rfl
@[simp] theorem State.onVd_lastCtx (s : State) (n : Nat) (f : VDev → VDev) : (s.onVd n f).lastCtx = s.lastCtx := rfl
@[simp] theorem State.onVd_commands (s : State) (n : Nat) (f : VDev → VDev) : (s.onVd n f).commands = s.commands := rfl
@[simp] theorem State.onVd_parts (s : State) (n : Nat) (f : VDev → VDev) : (s.onVd n f).parts = s.parts := rfl
@[simp] theorem State.onVd_change (s : State) (n : Nat) (f : VDev → VDev) : (s.onVd n f).change = s.change := rfl
@[simp] theorem State.onVd_margins (s : State) (n : Nat) (f : VDev → VDev) : (s.onVd n f).margins = s.margins := rfl
@[simp] theorem State.onVd_setpoints (s : State) (n : Nat) (f : VDev → VDev) : (s.onVd n f).setpoints = s.setpoints := rfl
@[simp] theorem State.onVd_stretched (s : State) (n : Nat) (f : VDev → VDev) : (s.onVd n f).stretched = s.stretched := rfl
@[simp] theorem State.onVd_cap (s : State) (n : Nat) (f : VDev → VDev) : (s.onVd n f).cap = s.cap := rfl
@[simp] theorem State.onVd_powerHb (s : State) (n : Nat) (f : VDev → VDev) : (s.onVd n f).powerHb = s.powerHb := rfl
@[simp] theorem State.onVd_tripped (s : State) (n : Nat) (f : VDev → VDev) : (s.onVd n f).tripped = s.tripped := rfl
@[simp] theorem State.onVd_reserves (s : State) (n : Nat) (f : VDev → VDev) : (s.onVd n f).reserves = s.reserves := rfl
@[simp] theorem State.onVd_tests (s : State) (n : Nat) (f : VDev → VDev) : (s.onVd n f).tests = s.tests := rfl
@[simp] theorem State.onVd_arrived (s : State) (n : Nat) (f : VDev → VDev) : (s.onVd n f).arrived = s.arrived := rfl
@[simp] theorem State.onVd_out (s : State) (n : Nat) (f : VDev → VDev) : (s.onVd n f).out = s.out := rfl

/-! ### A task changed -/

@[simp] theorem State.onTask_agenda (s : State) (d n : Nat) (f : Task → Task) : (s.onTask d n f).agenda = s.agenda := rfl
@[simp] theorem State.onTask_here (s : State) (d n : Nat) (f : Task → Task) : (s.onTask d n f).here = s.here := rfl
@[simp] theorem State.onTask_cur (s : State) (d n : Nat) (f : Task → Task) : (s.onTask d n f).cur = s.cur := rfl
@[simp] theorem State.onTask_focus (s : State) (d n : Nat) (f : Task → Task) : (s.onTask d n f).focus = s.focus := rfl
@[simp] theorem State.onTask_fresh (s : State) (d n : Nat) (f : Task → Task) : (s.onTask d n f).fresh = s.fresh := rfl
@[simp] theorem State.onTask_uids (s : State) (d n : Nat) (f : Task → Task) : (s.onTask d n f).uids = s.uids := rfl
@[simp] theorem State.onTask_hb (s : State) (d n : Nat) (f : Task → Task) : (s.onTask d n f).hb = s.hb := rfl
@[simp] theorem State.onTask_ns (s : State) (d n : Nat) (f : Task → Task) : (s.onTask d n f).ns = s.ns := rfl
@[simp] theorem State.onTask_edgeNs (s : State) (d n : Nat) (f : Task → Task) : (s.onTask d n f).edgeNs = s.edgeNs := rfl
@[simp] theorem State.onTask_pkg (s : State) (d n : Nat) (f : Task → Task) : (s.onTask d n f).pkg = s.pkg := rfl
@[simp] theorem State.onTask_root (s : State) (d n : Nat) (f : Task → Task) : (s.onTask d n f).root = s.root := rfl
@[simp] theorem State.onTask_rootHb (s : State) (d n : Nat) (f : Task → Task) : (s.onTask d n f).rootHb = s.rootHb := rfl
@[simp] theorem State.onTask_locked (s : State) (d n : Nat) (f : Task → Task) : (s.onTask d n f).locked = s.locked := rfl
@[simp] theorem State.onTask_routed (s : State) (d n : Nat) (f : Task → Task) : (s.onTask d n f).routed = s.routed := rfl
@[simp] theorem State.onTask_joined (s : State) (d n : Nat) (f : Task → Task) : (s.onTask d n f).joined = s.joined := rfl
@[simp] theorem State.onTask_routes (s : State) (d n : Nat) (f : Task → Task) : (s.onTask d n f).routes = s.routes := rfl
@[simp] theorem State.onTask_ports (s : State) (d n : Nat) (f : Task → Task) : (s.onTask d n f).ports = s.ports := rfl
@[simp] theorem State.onTask_channels (s : State) (d n : Nat) (f : Task → Task) : (s.onTask d n f).channels = s.channels := rfl
@[simp] theorem State.onTask_answers (s : State) (d n : Nat) (f : Task → Task) : (s.onTask d n f).answers = s.answers := rfl
@[simp] theorem State.onTask_performedOps (s : State) (d n : Nat) (f : Task → Task) : (s.onTask d n f).performedOps = s.performedOps := rfl
@[simp] theorem State.onTask_life (s : State) (d n : Nat) (f : Task → Task) : (s.onTask d n f).life = s.life := rfl
@[simp] theorem State.onTask_identity (s : State) (d n : Nat) (f : Task → Task) : (s.onTask d n f).identity = s.identity := rfl
@[simp] theorem State.onTask_dev (s : State) (d n : Nat) (f : Task → Task) : (s.onTask d n f).dev = s.dev := rfl
@[simp] theorem State.onTask_versions (s : State) (d n : Nat) (f : Task → Task) : (s.onTask d n f).versions = s.versions := rfl
@[simp] theorem State.onTask_badLines (s : State) (d n : Nat) (f : Task → Task) : (s.onTask d n f).badLines = s.badLines := rfl
@[simp] theorem State.onTask_heldWrites (s : State) (d n : Nat) (f : Task → Task) : (s.onTask d n f).heldWrites = s.heldWrites := rfl
@[simp] theorem State.onTask_bmem (s : State) (d n : Nat) (f : Task → Task) : (s.onTask d n f).bmem = s.bmem := rfl
@[simp] theorem State.onTask_spad (s : State) (d n : Nat) (f : Task → Task) : (s.onTask d n f).spad = s.spad := rfl
@[simp] theorem State.onTask_banks (s : State) (d n : Nat) (f : Task → Task) : (s.onTask d n f).banks = s.banks := rfl
@[simp] theorem State.onTask_badBankWords (s : State) (d n : Nat) (f : Task → Task) : (s.onTask d n f).badBankWords = s.badBankWords := rfl
@[simp] theorem State.onTask_parity (s : State) (d n : Nat) (f : Task → Task) : (s.onTask d n f).parity = s.parity := rfl
@[simp] theorem State.onTask_groups (s : State) (d n : Nat) (f : Task → Task) : (s.onTask d n f).groups = s.groups := rfl
@[simp] theorem State.onTask_bankErrors (s : State) (d n : Nat) (f : Task → Task) : (s.onTask d n f).bankErrors = s.bankErrors := rfl
@[simp] theorem State.onTask_warps (s : State) (d n : Nat) (f : Task → Task) : (s.onTask d n f).warps = s.warps := rfl
@[simp] theorem State.onTask_shadows (s : State) (d n : Nat) (f : Task → Task) : (s.onTask d n f).shadows = s.shadows := rfl
@[simp] theorem State.onTask_blocks (s : State) (d n : Nat) (f : Task → Task) : (s.onTask d n f).blocks = s.blocks := rfl
@[simp] theorem State.onTask_saved (s : State) (d n : Nat) (f : Task → Task) : (s.onTask d n f).saved = s.saved := rfl
@[simp] theorem State.onTask_cores (s : State) (d n : Nat) (f : Task → Task) : (s.onTask d n f).cores = s.cores := rfl
@[simp] theorem State.onTask_dieLeaves (s : State) (d n : Nat) (f : Task → Task) : (s.onTask d n f).dieLeaves = s.dieLeaves := rfl
@[simp] theorem State.onTask_lastIdx (s : State) (d n : Nat) (f : Task → Task) : (s.onTask d n f).lastIdx = s.lastIdx := rfl
@[simp] theorem State.onTask_zeroed (s : State) (d n : Nat) (f : Task → Task) : (s.onTask d n f).zeroed = s.zeroed := rfl
@[simp] theorem State.onTask_tables (s : State) (d n : Nat) (f : Task → Task) : (s.onTask d n f).tables = s.tables := rfl
@[simp] theorem State.onTask_events (s : State) (d n : Nat) (f : Task → Task) : (s.onTask d n f).events = s.events := rfl
@[simp] theorem State.onTask_cpcs (s : State) (d n : Nat) (f : Task → Task) : (s.onTask d n f).cpcs = s.cpcs := rfl
@[simp] theorem State.onTask_jobs (s : State) (d n : Nat) (f : Task → Task) : (s.onTask d n f).jobs = s.jobs := rfl
@[simp] theorem State.onTask_ladleIn (s : State) (d n : Nat) (f : Task → Task) : (s.onTask d n f).ladleIn = s.ladleIn := rfl
@[simp] theorem State.onTask_contexts (s : State) (d n : Nat) (f : Task → Task) : (s.onTask d n f).contexts = s.contexts := rfl
@[simp] theorem State.onTask_lastCtx (s : State) (d n : Nat) (f : Task → Task) : (s.onTask d n f).lastCtx = s.lastCtx := rfl
@[simp] theorem State.onTask_vdevs (s : State) (d n : Nat) (f : Task → Task) : (s.onTask d n f).vdevs = s.vdevs := rfl
@[simp] theorem State.onTask_commands (s : State) (d n : Nat) (f : Task → Task) : (s.onTask d n f).commands = s.commands := rfl
@[simp] theorem State.onTask_parts (s : State) (d n : Nat) (f : Task → Task) : (s.onTask d n f).parts = s.parts := rfl
@[simp] theorem State.onTask_change (s : State) (d n : Nat) (f : Task → Task) : (s.onTask d n f).change = s.change := rfl
@[simp] theorem State.onTask_margins (s : State) (d n : Nat) (f : Task → Task) : (s.onTask d n f).margins = s.margins := rfl
@[simp] theorem State.onTask_setpoints (s : State) (d n : Nat) (f : Task → Task) : (s.onTask d n f).setpoints = s.setpoints := rfl
@[simp] theorem State.onTask_stretched (s : State) (d n : Nat) (f : Task → Task) : (s.onTask d n f).stretched = s.stretched := rfl
@[simp] theorem State.onTask_cap (s : State) (d n : Nat) (f : Task → Task) : (s.onTask d n f).cap = s.cap := rfl
@[simp] theorem State.onTask_powerHb (s : State) (d n : Nat) (f : Task → Task) : (s.onTask d n f).powerHb = s.powerHb := rfl
@[simp] theorem State.onTask_tripped (s : State) (d n : Nat) (f : Task → Task) : (s.onTask d n f).tripped = s.tripped := rfl
@[simp] theorem State.onTask_reserves (s : State) (d n : Nat) (f : Task → Task) : (s.onTask d n f).reserves = s.reserves := rfl
@[simp] theorem State.onTask_tests (s : State) (d n : Nat) (f : Task → Task) : (s.onTask d n f).tests = s.tests := rfl
@[simp] theorem State.onTask_arrived (s : State) (d n : Nat) (f : Task → Task) : (s.onTask d n f).arrived = s.arrived := rfl
@[simp] theorem State.onTask_out (s : State) (d n : Nat) (f : Task → Task) : (s.onTask d n f).out = s.out := rfl

/-! ### A ladle job changed -/

@[simp] theorem State.onJob_agenda (s : State) (n : Nat) (f : Job → Job) : (s.onJob n f).agenda = s.agenda := rfl
@[simp] theorem State.onJob_here (s : State) (n : Nat) (f : Job → Job) : (s.onJob n f).here = s.here := rfl
@[simp] theorem State.onJob_cur (s : State) (n : Nat) (f : Job → Job) : (s.onJob n f).cur = s.cur := rfl
@[simp] theorem State.onJob_focus (s : State) (n : Nat) (f : Job → Job) : (s.onJob n f).focus = s.focus := rfl
@[simp] theorem State.onJob_fresh (s : State) (n : Nat) (f : Job → Job) : (s.onJob n f).fresh = s.fresh := rfl
@[simp] theorem State.onJob_uids (s : State) (n : Nat) (f : Job → Job) : (s.onJob n f).uids = s.uids := rfl
@[simp] theorem State.onJob_hb (s : State) (n : Nat) (f : Job → Job) : (s.onJob n f).hb = s.hb := rfl
@[simp] theorem State.onJob_ns (s : State) (n : Nat) (f : Job → Job) : (s.onJob n f).ns = s.ns := rfl
@[simp] theorem State.onJob_edgeNs (s : State) (n : Nat) (f : Job → Job) : (s.onJob n f).edgeNs = s.edgeNs := rfl
@[simp] theorem State.onJob_pkg (s : State) (n : Nat) (f : Job → Job) : (s.onJob n f).pkg = s.pkg := rfl
@[simp] theorem State.onJob_root (s : State) (n : Nat) (f : Job → Job) : (s.onJob n f).root = s.root := rfl
@[simp] theorem State.onJob_rootHb (s : State) (n : Nat) (f : Job → Job) : (s.onJob n f).rootHb = s.rootHb := rfl
@[simp] theorem State.onJob_locked (s : State) (n : Nat) (f : Job → Job) : (s.onJob n f).locked = s.locked := rfl
@[simp] theorem State.onJob_routed (s : State) (n : Nat) (f : Job → Job) : (s.onJob n f).routed = s.routed := rfl
@[simp] theorem State.onJob_joined (s : State) (n : Nat) (f : Job → Job) : (s.onJob n f).joined = s.joined := rfl
@[simp] theorem State.onJob_routes (s : State) (n : Nat) (f : Job → Job) : (s.onJob n f).routes = s.routes := rfl
@[simp] theorem State.onJob_ports (s : State) (n : Nat) (f : Job → Job) : (s.onJob n f).ports = s.ports := rfl
@[simp] theorem State.onJob_channels (s : State) (n : Nat) (f : Job → Job) : (s.onJob n f).channels = s.channels := rfl
@[simp] theorem State.onJob_answers (s : State) (n : Nat) (f : Job → Job) : (s.onJob n f).answers = s.answers := rfl
@[simp] theorem State.onJob_performedOps (s : State) (n : Nat) (f : Job → Job) : (s.onJob n f).performedOps = s.performedOps := rfl
@[simp] theorem State.onJob_life (s : State) (n : Nat) (f : Job → Job) : (s.onJob n f).life = s.life := rfl
@[simp] theorem State.onJob_identity (s : State) (n : Nat) (f : Job → Job) : (s.onJob n f).identity = s.identity := rfl
@[simp] theorem State.onJob_dev (s : State) (n : Nat) (f : Job → Job) : (s.onJob n f).dev = s.dev := rfl
@[simp] theorem State.onJob_versions (s : State) (n : Nat) (f : Job → Job) : (s.onJob n f).versions = s.versions := rfl
@[simp] theorem State.onJob_badLines (s : State) (n : Nat) (f : Job → Job) : (s.onJob n f).badLines = s.badLines := rfl
@[simp] theorem State.onJob_heldWrites (s : State) (n : Nat) (f : Job → Job) : (s.onJob n f).heldWrites = s.heldWrites := rfl
@[simp] theorem State.onJob_bmem (s : State) (n : Nat) (f : Job → Job) : (s.onJob n f).bmem = s.bmem := rfl
@[simp] theorem State.onJob_spad (s : State) (n : Nat) (f : Job → Job) : (s.onJob n f).spad = s.spad := rfl
@[simp] theorem State.onJob_banks (s : State) (n : Nat) (f : Job → Job) : (s.onJob n f).banks = s.banks := rfl
@[simp] theorem State.onJob_badBankWords (s : State) (n : Nat) (f : Job → Job) : (s.onJob n f).badBankWords = s.badBankWords := rfl
@[simp] theorem State.onJob_parity (s : State) (n : Nat) (f : Job → Job) : (s.onJob n f).parity = s.parity := rfl
@[simp] theorem State.onJob_groups (s : State) (n : Nat) (f : Job → Job) : (s.onJob n f).groups = s.groups := rfl
@[simp] theorem State.onJob_bankErrors (s : State) (n : Nat) (f : Job → Job) : (s.onJob n f).bankErrors = s.bankErrors := rfl
@[simp] theorem State.onJob_warps (s : State) (n : Nat) (f : Job → Job) : (s.onJob n f).warps = s.warps := rfl
@[simp] theorem State.onJob_shadows (s : State) (n : Nat) (f : Job → Job) : (s.onJob n f).shadows = s.shadows := rfl
@[simp] theorem State.onJob_blocks (s : State) (n : Nat) (f : Job → Job) : (s.onJob n f).blocks = s.blocks := rfl
@[simp] theorem State.onJob_saved (s : State) (n : Nat) (f : Job → Job) : (s.onJob n f).saved = s.saved := rfl
@[simp] theorem State.onJob_cores (s : State) (n : Nat) (f : Job → Job) : (s.onJob n f).cores = s.cores := rfl
@[simp] theorem State.onJob_dieLeaves (s : State) (n : Nat) (f : Job → Job) : (s.onJob n f).dieLeaves = s.dieLeaves := rfl
@[simp] theorem State.onJob_tasks (s : State) (n : Nat) (f : Job → Job) : (s.onJob n f).tasks = s.tasks := rfl
@[simp] theorem State.onJob_lastIdx (s : State) (n : Nat) (f : Job → Job) : (s.onJob n f).lastIdx = s.lastIdx := rfl
@[simp] theorem State.onJob_zeroed (s : State) (n : Nat) (f : Job → Job) : (s.onJob n f).zeroed = s.zeroed := rfl
@[simp] theorem State.onJob_tables (s : State) (n : Nat) (f : Job → Job) : (s.onJob n f).tables = s.tables := rfl
@[simp] theorem State.onJob_events (s : State) (n : Nat) (f : Job → Job) : (s.onJob n f).events = s.events := rfl
@[simp] theorem State.onJob_cpcs (s : State) (n : Nat) (f : Job → Job) : (s.onJob n f).cpcs = s.cpcs := rfl
@[simp] theorem State.onJob_ladleIn (s : State) (n : Nat) (f : Job → Job) : (s.onJob n f).ladleIn = s.ladleIn := rfl
@[simp] theorem State.onJob_contexts (s : State) (n : Nat) (f : Job → Job) : (s.onJob n f).contexts = s.contexts := rfl
@[simp] theorem State.onJob_lastCtx (s : State) (n : Nat) (f : Job → Job) : (s.onJob n f).lastCtx = s.lastCtx := rfl
@[simp] theorem State.onJob_vdevs (s : State) (n : Nat) (f : Job → Job) : (s.onJob n f).vdevs = s.vdevs := rfl
@[simp] theorem State.onJob_commands (s : State) (n : Nat) (f : Job → Job) : (s.onJob n f).commands = s.commands := rfl
@[simp] theorem State.onJob_parts (s : State) (n : Nat) (f : Job → Job) : (s.onJob n f).parts = s.parts := rfl
@[simp] theorem State.onJob_change (s : State) (n : Nat) (f : Job → Job) : (s.onJob n f).change = s.change := rfl
@[simp] theorem State.onJob_margins (s : State) (n : Nat) (f : Job → Job) : (s.onJob n f).margins = s.margins := rfl
@[simp] theorem State.onJob_setpoints (s : State) (n : Nat) (f : Job → Job) : (s.onJob n f).setpoints = s.setpoints := rfl
@[simp] theorem State.onJob_stretched (s : State) (n : Nat) (f : Job → Job) : (s.onJob n f).stretched = s.stretched := rfl
@[simp] theorem State.onJob_cap (s : State) (n : Nat) (f : Job → Job) : (s.onJob n f).cap = s.cap := rfl
@[simp] theorem State.onJob_powerHb (s : State) (n : Nat) (f : Job → Job) : (s.onJob n f).powerHb = s.powerHb := rfl
@[simp] theorem State.onJob_tripped (s : State) (n : Nat) (f : Job → Job) : (s.onJob n f).tripped = s.tripped := rfl
@[simp] theorem State.onJob_reserves (s : State) (n : Nat) (f : Job → Job) : (s.onJob n f).reserves = s.reserves := rfl
@[simp] theorem State.onJob_tests (s : State) (n : Nat) (f : Job → Job) : (s.onJob n f).tests = s.tests := rfl
@[simp] theorem State.onJob_arrived (s : State) (n : Nat) (f : Job → Job) : (s.onJob n f).arrived = s.arrived := rfl
@[simp] theorem State.onJob_out (s : State) (n : Nat) (f : Job → Job) : (s.onJob n f).out = s.out := rfl

/-! ### A fresh identifier -/

@[simp] theorem State.newUid_agenda (s : State) : s.newUid.2.agenda = s.agenda := rfl
@[simp] theorem State.newUid_here (s : State) : s.newUid.2.here = s.here := rfl
@[simp] theorem State.newUid_cur (s : State) : s.newUid.2.cur = s.cur := rfl
@[simp] theorem State.newUid_focus (s : State) : s.newUid.2.focus = s.focus := rfl
@[simp] theorem State.newUid_fresh (s : State) : s.newUid.2.fresh = s.fresh := rfl
@[simp] theorem State.newUid_hb (s : State) : s.newUid.2.hb = s.hb := rfl
@[simp] theorem State.newUid_ns (s : State) : s.newUid.2.ns = s.ns := rfl
@[simp] theorem State.newUid_edgeNs (s : State) : s.newUid.2.edgeNs = s.edgeNs := rfl
@[simp] theorem State.newUid_pkg (s : State) : s.newUid.2.pkg = s.pkg := rfl
@[simp] theorem State.newUid_root (s : State) : s.newUid.2.root = s.root := rfl
@[simp] theorem State.newUid_rootHb (s : State) : s.newUid.2.rootHb = s.rootHb := rfl
@[simp] theorem State.newUid_locked (s : State) : s.newUid.2.locked = s.locked := rfl
@[simp] theorem State.newUid_routed (s : State) : s.newUid.2.routed = s.routed := rfl
@[simp] theorem State.newUid_joined (s : State) : s.newUid.2.joined = s.joined := rfl
@[simp] theorem State.newUid_routes (s : State) : s.newUid.2.routes = s.routes := rfl
@[simp] theorem State.newUid_ports (s : State) : s.newUid.2.ports = s.ports := rfl
@[simp] theorem State.newUid_channels (s : State) : s.newUid.2.channels = s.channels := rfl
@[simp] theorem State.newUid_answers (s : State) : s.newUid.2.answers = s.answers := rfl
@[simp] theorem State.newUid_performedOps (s : State) : s.newUid.2.performedOps = s.performedOps := rfl
@[simp] theorem State.newUid_life (s : State) : s.newUid.2.life = s.life := rfl
@[simp] theorem State.newUid_identity (s : State) : s.newUid.2.identity = s.identity := rfl
@[simp] theorem State.newUid_dev (s : State) : s.newUid.2.dev = s.dev := rfl
@[simp] theorem State.newUid_versions (s : State) : s.newUid.2.versions = s.versions := rfl
@[simp] theorem State.newUid_badLines (s : State) : s.newUid.2.badLines = s.badLines := rfl
@[simp] theorem State.newUid_heldWrites (s : State) : s.newUid.2.heldWrites = s.heldWrites := rfl
@[simp] theorem State.newUid_bmem (s : State) : s.newUid.2.bmem = s.bmem := rfl
@[simp] theorem State.newUid_spad (s : State) : s.newUid.2.spad = s.spad := rfl
@[simp] theorem State.newUid_banks (s : State) : s.newUid.2.banks = s.banks := rfl
@[simp] theorem State.newUid_badBankWords (s : State) : s.newUid.2.badBankWords = s.badBankWords := rfl
@[simp] theorem State.newUid_parity (s : State) : s.newUid.2.parity = s.parity := rfl
@[simp] theorem State.newUid_groups (s : State) : s.newUid.2.groups = s.groups := rfl
@[simp] theorem State.newUid_bankErrors (s : State) : s.newUid.2.bankErrors = s.bankErrors := rfl
@[simp] theorem State.newUid_warps (s : State) : s.newUid.2.warps = s.warps := rfl
@[simp] theorem State.newUid_shadows (s : State) : s.newUid.2.shadows = s.shadows := rfl
@[simp] theorem State.newUid_blocks (s : State) : s.newUid.2.blocks = s.blocks := rfl
@[simp] theorem State.newUid_saved (s : State) : s.newUid.2.saved = s.saved := rfl
@[simp] theorem State.newUid_cores (s : State) : s.newUid.2.cores = s.cores := rfl
@[simp] theorem State.newUid_dieLeaves (s : State) : s.newUid.2.dieLeaves = s.dieLeaves := rfl
@[simp] theorem State.newUid_tasks (s : State) : s.newUid.2.tasks = s.tasks := rfl
@[simp] theorem State.newUid_lastIdx (s : State) : s.newUid.2.lastIdx = s.lastIdx := rfl
@[simp] theorem State.newUid_zeroed (s : State) : s.newUid.2.zeroed = s.zeroed := rfl
@[simp] theorem State.newUid_tables (s : State) : s.newUid.2.tables = s.tables := rfl
@[simp] theorem State.newUid_events (s : State) : s.newUid.2.events = s.events := rfl
@[simp] theorem State.newUid_cpcs (s : State) : s.newUid.2.cpcs = s.cpcs := rfl
@[simp] theorem State.newUid_jobs (s : State) : s.newUid.2.jobs = s.jobs := rfl
@[simp] theorem State.newUid_ladleIn (s : State) : s.newUid.2.ladleIn = s.ladleIn := rfl
@[simp] theorem State.newUid_contexts (s : State) : s.newUid.2.contexts = s.contexts := rfl
@[simp] theorem State.newUid_lastCtx (s : State) : s.newUid.2.lastCtx = s.lastCtx := rfl
@[simp] theorem State.newUid_vdevs (s : State) : s.newUid.2.vdevs = s.vdevs := rfl
@[simp] theorem State.newUid_commands (s : State) : s.newUid.2.commands = s.commands := rfl
@[simp] theorem State.newUid_parts (s : State) : s.newUid.2.parts = s.parts := rfl
@[simp] theorem State.newUid_change (s : State) : s.newUid.2.change = s.change := rfl
@[simp] theorem State.newUid_margins (s : State) : s.newUid.2.margins = s.margins := rfl
@[simp] theorem State.newUid_setpoints (s : State) : s.newUid.2.setpoints = s.setpoints := rfl
@[simp] theorem State.newUid_stretched (s : State) : s.newUid.2.stretched = s.stretched := rfl
@[simp] theorem State.newUid_cap (s : State) : s.newUid.2.cap = s.cap := rfl
@[simp] theorem State.newUid_powerHb (s : State) : s.newUid.2.powerHb = s.powerHb := rfl
@[simp] theorem State.newUid_tripped (s : State) : s.newUid.2.tripped = s.tripped := rfl
@[simp] theorem State.newUid_reserves (s : State) : s.newUid.2.reserves = s.reserves := rfl
@[simp] theorem State.newUid_tests (s : State) : s.newUid.2.tests = s.tests := rfl
@[simp] theorem State.newUid_arrived (s : State) : s.newUid.2.arrived = s.arrived := rfl
@[simp] theorem State.newUid_out (s : State) : s.newUid.2.out = s.out := rfl

/-! ### A free choice -/

@[simp] theorem State.chooseNat_agenda (s : State) : s.chooseNat.2.agenda = s.agenda := rfl
@[simp] theorem State.chooseNat_here (s : State) : s.chooseNat.2.here = s.here := rfl
@[simp] theorem State.chooseNat_cur (s : State) : s.chooseNat.2.cur = s.cur := rfl
@[simp] theorem State.chooseNat_focus (s : State) : s.chooseNat.2.focus = s.focus := rfl
@[simp] theorem State.chooseNat_uids (s : State) : s.chooseNat.2.uids = s.uids := rfl
@[simp] theorem State.chooseNat_hb (s : State) : s.chooseNat.2.hb = s.hb := rfl
@[simp] theorem State.chooseNat_ns (s : State) : s.chooseNat.2.ns = s.ns := rfl
@[simp] theorem State.chooseNat_edgeNs (s : State) : s.chooseNat.2.edgeNs = s.edgeNs := rfl
@[simp] theorem State.chooseNat_pkg (s : State) : s.chooseNat.2.pkg = s.pkg := rfl
@[simp] theorem State.chooseNat_root (s : State) : s.chooseNat.2.root = s.root := rfl
@[simp] theorem State.chooseNat_rootHb (s : State) : s.chooseNat.2.rootHb = s.rootHb := rfl
@[simp] theorem State.chooseNat_locked (s : State) : s.chooseNat.2.locked = s.locked := rfl
@[simp] theorem State.chooseNat_routed (s : State) : s.chooseNat.2.routed = s.routed := rfl
@[simp] theorem State.chooseNat_joined (s : State) : s.chooseNat.2.joined = s.joined := rfl
@[simp] theorem State.chooseNat_routes (s : State) : s.chooseNat.2.routes = s.routes := rfl
@[simp] theorem State.chooseNat_ports (s : State) : s.chooseNat.2.ports = s.ports := rfl
@[simp] theorem State.chooseNat_channels (s : State) : s.chooseNat.2.channels = s.channels := rfl
@[simp] theorem State.chooseNat_answers (s : State) : s.chooseNat.2.answers = s.answers := rfl
@[simp] theorem State.chooseNat_performedOps (s : State) : s.chooseNat.2.performedOps = s.performedOps := rfl
@[simp] theorem State.chooseNat_life (s : State) : s.chooseNat.2.life = s.life := rfl
@[simp] theorem State.chooseNat_identity (s : State) : s.chooseNat.2.identity = s.identity := rfl
@[simp] theorem State.chooseNat_dev (s : State) : s.chooseNat.2.dev = s.dev := rfl
@[simp] theorem State.chooseNat_versions (s : State) : s.chooseNat.2.versions = s.versions := rfl
@[simp] theorem State.chooseNat_badLines (s : State) : s.chooseNat.2.badLines = s.badLines := rfl
@[simp] theorem State.chooseNat_heldWrites (s : State) : s.chooseNat.2.heldWrites = s.heldWrites := rfl
@[simp] theorem State.chooseNat_bmem (s : State) : s.chooseNat.2.bmem = s.bmem := rfl
@[simp] theorem State.chooseNat_spad (s : State) : s.chooseNat.2.spad = s.spad := rfl
@[simp] theorem State.chooseNat_banks (s : State) : s.chooseNat.2.banks = s.banks := rfl
@[simp] theorem State.chooseNat_badBankWords (s : State) : s.chooseNat.2.badBankWords = s.badBankWords := rfl
@[simp] theorem State.chooseNat_parity (s : State) : s.chooseNat.2.parity = s.parity := rfl
@[simp] theorem State.chooseNat_groups (s : State) : s.chooseNat.2.groups = s.groups := rfl
@[simp] theorem State.chooseNat_bankErrors (s : State) : s.chooseNat.2.bankErrors = s.bankErrors := rfl
@[simp] theorem State.chooseNat_warps (s : State) : s.chooseNat.2.warps = s.warps := rfl
@[simp] theorem State.chooseNat_shadows (s : State) : s.chooseNat.2.shadows = s.shadows := rfl
@[simp] theorem State.chooseNat_blocks (s : State) : s.chooseNat.2.blocks = s.blocks := rfl
@[simp] theorem State.chooseNat_saved (s : State) : s.chooseNat.2.saved = s.saved := rfl
@[simp] theorem State.chooseNat_cores (s : State) : s.chooseNat.2.cores = s.cores := rfl
@[simp] theorem State.chooseNat_dieLeaves (s : State) : s.chooseNat.2.dieLeaves = s.dieLeaves := rfl
@[simp] theorem State.chooseNat_tasks (s : State) : s.chooseNat.2.tasks = s.tasks := rfl
@[simp] theorem State.chooseNat_lastIdx (s : State) : s.chooseNat.2.lastIdx = s.lastIdx := rfl
@[simp] theorem State.chooseNat_zeroed (s : State) : s.chooseNat.2.zeroed = s.zeroed := rfl
@[simp] theorem State.chooseNat_tables (s : State) : s.chooseNat.2.tables = s.tables := rfl
@[simp] theorem State.chooseNat_events (s : State) : s.chooseNat.2.events = s.events := rfl
@[simp] theorem State.chooseNat_cpcs (s : State) : s.chooseNat.2.cpcs = s.cpcs := rfl
@[simp] theorem State.chooseNat_jobs (s : State) : s.chooseNat.2.jobs = s.jobs := rfl
@[simp] theorem State.chooseNat_ladleIn (s : State) : s.chooseNat.2.ladleIn = s.ladleIn := rfl
@[simp] theorem State.chooseNat_contexts (s : State) : s.chooseNat.2.contexts = s.contexts := rfl
@[simp] theorem State.chooseNat_lastCtx (s : State) : s.chooseNat.2.lastCtx = s.lastCtx := rfl
@[simp] theorem State.chooseNat_vdevs (s : State) : s.chooseNat.2.vdevs = s.vdevs := rfl
@[simp] theorem State.chooseNat_commands (s : State) : s.chooseNat.2.commands = s.commands := rfl
@[simp] theorem State.chooseNat_parts (s : State) : s.chooseNat.2.parts = s.parts := rfl
@[simp] theorem State.chooseNat_change (s : State) : s.chooseNat.2.change = s.change := rfl
@[simp] theorem State.chooseNat_margins (s : State) : s.chooseNat.2.margins = s.margins := rfl
@[simp] theorem State.chooseNat_setpoints (s : State) : s.chooseNat.2.setpoints = s.setpoints := rfl
@[simp] theorem State.chooseNat_stretched (s : State) : s.chooseNat.2.stretched = s.stretched := rfl
@[simp] theorem State.chooseNat_cap (s : State) : s.chooseNat.2.cap = s.cap := rfl
@[simp] theorem State.chooseNat_powerHb (s : State) : s.chooseNat.2.powerHb = s.powerHb := rfl
@[simp] theorem State.chooseNat_tripped (s : State) : s.chooseNat.2.tripped = s.tripped := rfl
@[simp] theorem State.chooseNat_reserves (s : State) : s.chooseNat.2.reserves = s.reserves := rfl
@[simp] theorem State.chooseNat_tests (s : State) : s.chooseNat.2.tests = s.tests := rfl
@[simp] theorem State.chooseNat_arrived (s : State) : s.chooseNat.2.arrived = s.arrived := rfl
@[simp] theorem State.chooseNat_out (s : State) : s.chooseNat.2.out = s.out := rfl

@[simp] theorem State.newUid_uids (s : State) : s.newUid.2.uids = s.uids + 1 := rfl
@[simp] theorem State.newUid_fst (s : State) : s.newUid.1 = s.uids := rfl
@[simp] theorem State.chooseNat_fresh (s : State) : s.chooseNat.2.fresh = s.fresh + 1 := rfl
@[simp] theorem State.chooseNat_fst (s : State) : s.chooseNat.1 = Config.choice s.fresh := rfl

/-! ### Lookups after updates -/

@[simp] theorem State.putWarp_blockOf (s : State) (w : Warp) (k : Nat) : (s.putWarp w).blockOf k = s.blockOf k := rfl
@[simp] theorem State.putWarp_coreOf (s : State) (w : Warp) (k : Nat) : (s.putWarp w).coreOf k = s.coreOf k := rfl
@[simp] theorem State.putWarp_ctxOf (s : State) (w : Warp) (k : Nat) : (s.putWarp w).ctxOf k = s.ctxOf k := rfl
@[simp] theorem State.putWarp_vdOf (s : State) (w : Warp) (k : Nat) : (s.putWarp w).vdOf k = s.vdOf k := rfl
@[simp] theorem State.putWarp_taskOf (s : State) (w : Warp) (e k : Nat) : (s.putWarp w).taskOf e k = s.taskOf e k := rfl
@[simp] theorem State.putWarp_jobOf (s : State) (w : Warp) (k : Nat) : (s.putWarp w).jobOf k = s.jobOf k := rfl
@[simp] theorem State.putWarp_partOf (s : State) (w : Warp) (k : Nat) : (s.putWarp w).partOf k = s.partOf k := rfl
@[simp] theorem State.onWarp_blockOf (s : State) (n : Nat) (f : Warp → Warp) (k : Nat) : (s.onWarp n f).blockOf k = s.blockOf k := rfl
@[simp] theorem State.onWarp_coreOf (s : State) (n : Nat) (f : Warp → Warp) (k : Nat) : (s.onWarp n f).coreOf k = s.coreOf k := rfl
@[simp] theorem State.onWarp_ctxOf (s : State) (n : Nat) (f : Warp → Warp) (k : Nat) : (s.onWarp n f).ctxOf k = s.ctxOf k := rfl
@[simp] theorem State.onWarp_vdOf (s : State) (n : Nat) (f : Warp → Warp) (k : Nat) : (s.onWarp n f).vdOf k = s.vdOf k := rfl
@[simp] theorem State.onWarp_taskOf (s : State) (n : Nat) (f : Warp → Warp) (e k : Nat) : (s.onWarp n f).taskOf e k = s.taskOf e k := rfl
@[simp] theorem State.onWarp_jobOf (s : State) (n : Nat) (f : Warp → Warp) (k : Nat) : (s.onWarp n f).jobOf k = s.jobOf k := rfl
@[simp] theorem State.onWarp_partOf (s : State) (n : Nat) (f : Warp → Warp) (k : Nat) : (s.onWarp n f).partOf k = s.partOf k := rfl
@[simp] theorem State.onBlock_warpOf (s : State) (n : Nat) (f : Block → Block) (k : Nat) : (s.onBlock n f).warpOf k = s.warpOf k := rfl
@[simp] theorem State.onBlock_coreOf (s : State) (n : Nat) (f : Block → Block) (k : Nat) : (s.onBlock n f).coreOf k = s.coreOf k := rfl
@[simp] theorem State.onBlock_ctxOf (s : State) (n : Nat) (f : Block → Block) (k : Nat) : (s.onBlock n f).ctxOf k = s.ctxOf k := rfl
@[simp] theorem State.onBlock_vdOf (s : State) (n : Nat) (f : Block → Block) (k : Nat) : (s.onBlock n f).vdOf k = s.vdOf k := rfl
@[simp] theorem State.onBlock_taskOf (s : State) (n : Nat) (f : Block → Block) (e k : Nat) : (s.onBlock n f).taskOf e k = s.taskOf e k := rfl
@[simp] theorem State.onBlock_jobOf (s : State) (n : Nat) (f : Block → Block) (k : Nat) : (s.onBlock n f).jobOf k = s.jobOf k := rfl
@[simp] theorem State.onBlock_partOf (s : State) (n : Nat) (f : Block → Block) (k : Nat) : (s.onBlock n f).partOf k = s.partOf k := rfl
@[simp] theorem State.putCore_warpOf (s : State) (c : Core) (k : Nat) : (s.putCore c).warpOf k = s.warpOf k := rfl
@[simp] theorem State.putCore_blockOf (s : State) (c : Core) (k : Nat) : (s.putCore c).blockOf k = s.blockOf k := rfl
@[simp] theorem State.putCore_ctxOf (s : State) (c : Core) (k : Nat) : (s.putCore c).ctxOf k = s.ctxOf k := rfl
@[simp] theorem State.putCore_vdOf (s : State) (c : Core) (k : Nat) : (s.putCore c).vdOf k = s.vdOf k := rfl
@[simp] theorem State.putCore_taskOf (s : State) (c : Core) (e k : Nat) : (s.putCore c).taskOf e k = s.taskOf e k := rfl
@[simp] theorem State.putCore_jobOf (s : State) (c : Core) (k : Nat) : (s.putCore c).jobOf k = s.jobOf k := rfl
@[simp] theorem State.putCore_partOf (s : State) (c : Core) (k : Nat) : (s.putCore c).partOf k = s.partOf k := rfl
@[simp] theorem State.onCore_warpOf (s : State) (n : Nat) (f : Core → Core) (k : Nat) : (s.onCore n f).warpOf k = s.warpOf k := rfl
@[simp] theorem State.onCore_blockOf (s : State) (n : Nat) (f : Core → Core) (k : Nat) : (s.onCore n f).blockOf k = s.blockOf k := rfl
@[simp] theorem State.onCore_ctxOf (s : State) (n : Nat) (f : Core → Core) (k : Nat) : (s.onCore n f).ctxOf k = s.ctxOf k := rfl
@[simp] theorem State.onCore_vdOf (s : State) (n : Nat) (f : Core → Core) (k : Nat) : (s.onCore n f).vdOf k = s.vdOf k := rfl
@[simp] theorem State.onCore_taskOf (s : State) (n : Nat) (f : Core → Core) (e k : Nat) : (s.onCore n f).taskOf e k = s.taskOf e k := rfl
@[simp] theorem State.onCore_jobOf (s : State) (n : Nat) (f : Core → Core) (k : Nat) : (s.onCore n f).jobOf k = s.jobOf k := rfl
@[simp] theorem State.onCore_partOf (s : State) (n : Nat) (f : Core → Core) (k : Nat) : (s.onCore n f).partOf k = s.partOf k := rfl
@[simp] theorem State.onCtx_warpOf (s : State) (n : Nat) (f : Context → Context) (k : Nat) : (s.onCtx n f).warpOf k = s.warpOf k := rfl
@[simp] theorem State.onCtx_blockOf (s : State) (n : Nat) (f : Context → Context) (k : Nat) : (s.onCtx n f).blockOf k = s.blockOf k := rfl
@[simp] theorem State.onCtx_coreOf (s : State) (n : Nat) (f : Context → Context) (k : Nat) : (s.onCtx n f).coreOf k = s.coreOf k := rfl
@[simp] theorem State.onCtx_vdOf (s : State) (n : Nat) (f : Context → Context) (k : Nat) : (s.onCtx n f).vdOf k = s.vdOf k := rfl
@[simp] theorem State.onCtx_taskOf (s : State) (n : Nat) (f : Context → Context) (e k : Nat) : (s.onCtx n f).taskOf e k = s.taskOf e k := rfl
@[simp] theorem State.onCtx_jobOf (s : State) (n : Nat) (f : Context → Context) (k : Nat) : (s.onCtx n f).jobOf k = s.jobOf k := rfl
@[simp] theorem State.onCtx_partOf (s : State) (n : Nat) (f : Context → Context) (k : Nat) : (s.onCtx n f).partOf k = s.partOf k := rfl
@[simp] theorem State.onVd_warpOf (s : State) (n : Nat) (f : VDev → VDev) (k : Nat) : (s.onVd n f).warpOf k = s.warpOf k := rfl
@[simp] theorem State.onVd_blockOf (s : State) (n : Nat) (f : VDev → VDev) (k : Nat) : (s.onVd n f).blockOf k = s.blockOf k := rfl
@[simp] theorem State.onVd_coreOf (s : State) (n : Nat) (f : VDev → VDev) (k : Nat) : (s.onVd n f).coreOf k = s.coreOf k := rfl
@[simp] theorem State.onVd_ctxOf (s : State) (n : Nat) (f : VDev → VDev) (k : Nat) : (s.onVd n f).ctxOf k = s.ctxOf k := rfl
@[simp] theorem State.onVd_taskOf (s : State) (n : Nat) (f : VDev → VDev) (e k : Nat) : (s.onVd n f).taskOf e k = s.taskOf e k := rfl
@[simp] theorem State.onVd_jobOf (s : State) (n : Nat) (f : VDev → VDev) (k : Nat) : (s.onVd n f).jobOf k = s.jobOf k := rfl
@[simp] theorem State.onVd_partOf (s : State) (n : Nat) (f : VDev → VDev) (k : Nat) : (s.onVd n f).partOf k = s.partOf k := rfl
@[simp] theorem State.onTask_warpOf (s : State) (d n : Nat) (f : Task → Task) (k : Nat) : (s.onTask d n f).warpOf k = s.warpOf k := rfl
@[simp] theorem State.onTask_blockOf (s : State) (d n : Nat) (f : Task → Task) (k : Nat) : (s.onTask d n f).blockOf k = s.blockOf k := rfl
@[simp] theorem State.onTask_coreOf (s : State) (d n : Nat) (f : Task → Task) (k : Nat) : (s.onTask d n f).coreOf k = s.coreOf k := rfl
@[simp] theorem State.onTask_ctxOf (s : State) (d n : Nat) (f : Task → Task) (k : Nat) : (s.onTask d n f).ctxOf k = s.ctxOf k := rfl
@[simp] theorem State.onTask_vdOf (s : State) (d n : Nat) (f : Task → Task) (k : Nat) : (s.onTask d n f).vdOf k = s.vdOf k := rfl
@[simp] theorem State.onTask_jobOf (s : State) (d n : Nat) (f : Task → Task) (k : Nat) : (s.onTask d n f).jobOf k = s.jobOf k := rfl
@[simp] theorem State.onTask_partOf (s : State) (d n : Nat) (f : Task → Task) (k : Nat) : (s.onTask d n f).partOf k = s.partOf k := rfl
@[simp] theorem State.onJob_warpOf (s : State) (n : Nat) (f : Job → Job) (k : Nat) : (s.onJob n f).warpOf k = s.warpOf k := rfl
@[simp] theorem State.onJob_blockOf (s : State) (n : Nat) (f : Job → Job) (k : Nat) : (s.onJob n f).blockOf k = s.blockOf k := rfl
@[simp] theorem State.onJob_coreOf (s : State) (n : Nat) (f : Job → Job) (k : Nat) : (s.onJob n f).coreOf k = s.coreOf k := rfl
@[simp] theorem State.onJob_ctxOf (s : State) (n : Nat) (f : Job → Job) (k : Nat) : (s.onJob n f).ctxOf k = s.ctxOf k := rfl
@[simp] theorem State.onJob_vdOf (s : State) (n : Nat) (f : Job → Job) (k : Nat) : (s.onJob n f).vdOf k = s.vdOf k := rfl
@[simp] theorem State.onJob_taskOf (s : State) (n : Nat) (f : Job → Job) (e k : Nat) : (s.onJob n f).taskOf e k = s.taskOf e k := rfl
@[simp] theorem State.onJob_partOf (s : State) (n : Nat) (f : Job → Job) (k : Nat) : (s.onJob n f).partOf k = s.partOf k := rfl
@[simp] theorem State.newUid_warpOf (s : State) (k : Nat) : s.newUid.2.warpOf k = s.warpOf k := rfl
@[simp] theorem State.newUid_blockOf (s : State) (k : Nat) : s.newUid.2.blockOf k = s.blockOf k := rfl
@[simp] theorem State.newUid_coreOf (s : State) (k : Nat) : s.newUid.2.coreOf k = s.coreOf k := rfl
@[simp] theorem State.newUid_ctxOf (s : State) (k : Nat) : s.newUid.2.ctxOf k = s.ctxOf k := rfl
@[simp] theorem State.newUid_vdOf (s : State) (k : Nat) : s.newUid.2.vdOf k = s.vdOf k := rfl
@[simp] theorem State.newUid_taskOf (s : State) (e k : Nat) : s.newUid.2.taskOf e k = s.taskOf e k := rfl
@[simp] theorem State.newUid_jobOf (s : State) (k : Nat) : s.newUid.2.jobOf k = s.jobOf k := rfl
@[simp] theorem State.newUid_partOf (s : State) (k : Nat) : s.newUid.2.partOf k = s.partOf k := rfl
@[simp] theorem State.chooseNat_warpOf (s : State) (k : Nat) : s.chooseNat.2.warpOf k = s.warpOf k := rfl
@[simp] theorem State.chooseNat_blockOf (s : State) (k : Nat) : s.chooseNat.2.blockOf k = s.blockOf k := rfl
@[simp] theorem State.chooseNat_coreOf (s : State) (k : Nat) : s.chooseNat.2.coreOf k = s.coreOf k := rfl
@[simp] theorem State.chooseNat_ctxOf (s : State) (k : Nat) : s.chooseNat.2.ctxOf k = s.ctxOf k := rfl
@[simp] theorem State.chooseNat_vdOf (s : State) (k : Nat) : s.chooseNat.2.vdOf k = s.vdOf k := rfl
@[simp] theorem State.chooseNat_taskOf (s : State) (e k : Nat) : s.chooseNat.2.taskOf e k = s.taskOf e k := rfl
@[simp] theorem State.chooseNat_jobOf (s : State) (k : Nat) : s.chooseNat.2.jobOf k = s.jobOf k := rfl
@[simp] theorem State.chooseNat_partOf (s : State) (k : Nat) : s.chooseNat.2.partOf k = s.partOf k := rfl

/-- The context of a changed list of contexts. -/
theorem State.ctxOf_onCtx (s : State) (n k : Nat) (f : Context → Context) (h : ∀ c, (f c).id = c.id) :
    (s.onCtx n f).ctxOf k = (s.ctxOf k).map (fun c => if k = n then f c else c) := by
  simp only [State.ctxOf, State.onCtx, List.find?_map, Function.comp_def]
  have e : (fun c : Context => (if (c.id == n) = true then f c else c).id == k) = (fun c => c.id == k) := by
    funext c; split <;> simp [h]
  rw [e]
  cases hc : s.contexts.find? (fun c => c.id == k) with
  | none => rfl
  | some c =>
    have := List.find?_some hc
    simp only [beq_iff_eq] at this
    simp [this]

end Sys2Proof.Machine
end

