-- ==== Sys2Proof/Laws/Effects.lean ====
section
/-!
SUPPORT. What each shared operation of the meanings can do: taking a trap, the effects of a warp, of a lane and of an access.
-/
namespace Sys2Proof.Machine

/-! ### Traps -/

/-- A trap is nothing to a warp that a trap waits for, squashes one that speculates, waits for the shadow of a paired one, enters the handler of a quiet one, and else
waits. -/
theorem State.takeTrapOf_cases {s : State} {uid : Nat} {w : Warp} (given : Bool) (t : Trap) (h : s.warpOf uid = some w) :
    (w.trapWait.isSome = true ∧ s.takeTrapOf given uid t = s)
      ∨ (w.trapWait = none ∧ w.spec.isSome = true ∧ s.takeTrapOf given uid t = s.squashPair uid)
      ∨ (w.trapWait = none ∧ w.spec = none ∧ (s.shadowOf uid).isSome = true ∧ ∃ trail, s.takeTrapOf given uid t
          = s.putWarp { w with trapWait := some t, trapGiven := given, trail })
      ∨ (w.trapWait = none ∧ w.spec = none ∧ s.shadowOf uid = none ∧ w.quiet = true ∧ s.takeTrapOf given uid t = s.enterTrap uid t)
      ∨ (w.trapWait = none ∧ w.spec = none ∧ s.shadowOf uid = none ∧ w.quiet = false
          ∧ s.takeTrapOf given uid t = s.putWarp { w with trapWait := some t }) := by
  unfold State.takeTrapOf
  simp only [h]
  cases ht : w.trapWait with
  | some x => simp
  | none =>
    cases hs : w.spec with
    | some x => simp
    | none =>
      cases hv : s.shadowOf uid with
      | some v => simp only [Option.isSome_none, Option.isSome_some, Bool.false_eq_true, if_false, if_true]; exact .inr (.inr (.inl ⟨trivial, trivial, trivial, _, rfl⟩))
      | none => cases hq : w.quiet <;> simp

/-- A trap with a handler enters it: of its warp and of its shadow's state, and of what the warp has asked other packages for. -/
theorem State.enterTrap_handler {s : State} {uid : Nat} {w : Warp} (t : Trap) (h : s.warpOf uid = some w) (hb : w.trap.tbase ≠ 0) :
    s.enterTrap uid t = (((s.forget uid).chooseNat.2.newUid.2.putWarp (w.enter t s.chooseNat.1 (s.coreOf w.core).clk s.uids)).onShadow uid
      (fun v => (v.meet w).enter t s.chooseNat.1 (s.coreOf w.core).clk s.uids)) := by
  unfold State.enterTrap
  simp only [h]
  have e : (w.trap.tbase == 0) = false := by simpa using hb
  simp only [e, Bool.false_eq_true, if_false]
  rfl

/-- A trap without a handler leaves its registers, a record of KIND 1, and a context that is being killed. -/
theorem State.enterTrap_none {s : State} {uid : Nat} {w : Warp} (t : Trap) (h : s.warpOf uid = some w) (hb : w.trap.tbase = 0) :
    ∃ r : State, s.enterTrap uid t = r.killContext w.ctx ∧ r.warps = (s.putWarp { w with trap := w.trapRegs t s.chooseNat.1, trapWait := none }).warps := by
  unfold State.enterTrap
  simp only [h]
  have e : (w.trap.tbase == 0) = true := by simp [hb]
  simp only [e, if_true]
  refine ⟨_, rfl, ?_⟩
  unfold State.logCtx
  split <;> rfl

/-! ### Effects of a warp -/

/-- A trap of lanes: nothing in helper lanes alone, else the trap, or no such address. -/
theorem laneTrap_cases (s : State) (c : Ctx) (mask : LaneMask) (cause : Nat) (addr info : Option Nat) :
    laneTrap s c mask cause addr info =
      if mask &&& ~~~c.warp.helper = 0 then .ok (finishWarp s c true)
      else if cause = 0 then .absent
      else .trap s c.warp.uid (Trap.of cause (mask &&& ~~~c.warp.helper) c.pc.toNat addr info) := by
  simp [laneTrap]

/-- A per-warp effect whose guard holds in a real lane is that effect. -/
theorem warpEffect_any (f : State → Ctx → Done) (s : State) {c : Ctx} (h : c.any = true) : warpEffect f s c = f s c := by
  simp [warpEffect, h]

/-- A per-warp effect whose guard holds in no real lane only advances. -/
theorem warpEffect_none (f : State → Ctx → Done) (s : State) {c : Ctx} (h : c.any = false) : warpEffect f s c = .ok (finishWarp s c true) := by
  simp [warpEffect, h]

/-- A leading warp that is not paired compares nothing. -/
theorem comparedEffect_plain (valued later : Bool) (read : State → Ctx → List Nat) (f : State → Ctx → Done) (s : State) {c : Ctx} (h : c.warp.paired = false)
    (ht : c.trail = none) : comparedEffect valued later read f s c = f s c := by
  simp [comparedEffect, h, ht]

/-- A result that goes to the load-value queue of a paired warp is otherwise just that. -/
theorem valueEffect_plain (f : State → Ctx → Done) (s : State) {c : Ctx} (h : c.warp.paired = false) (ht : c.trail = none) : valueEffect f s c = f s c := by
  simp [valueEffect, h, ht]

/-- An instruction of the engines of a warp that is not paired, whose guard holds, is its effect. -/
theorem engineRead_plain (valued later : Bool) (read : State → Ctx → List Nat) (f : State → Ctx → Done) (s : State) {c : Ctx} (ha : c.any = true)
    (h : c.warp.paired = false) (ht : c.trail = none) : engineRead valued later read f s c = (f s c).taken c := by
  simp [engineRead, warpEffect_any _ s ha, comparedEffect_plain _ _ _ _ s h ht]

/-- An instruction of the engines whose guard holds in no real lane only advances. -/
theorem engineRead_none (valued later : Bool) (read : State → Ctx → List Nat) (f : State → Ctx → Done) (s : State) {c : Ctx} (ha : c.any = false) :
    engineRead valued later read f s c = .ok (finishWarp s c true) := warpEffect_none _ s ha

/-- A release of a warp that has nothing outstanding is its effect. -/
theorem afterRelease_settled (f : State → Ctx → Done) {s : State} {c : Ctx} (hr : Settled s c) : afterRelease f s c = f s c := by
  have e : s.released c.warp = true := by
    simp only [State.released, Bool.and_eq_true, Bool.not_eq_true', List.any_eq_false, beq_iff_eq]
    exact ⟨hr.1, fun o ho => by simpa using hr.2 o ho⟩
  simp [afterRelease, e]

/-! ### Accesses -/

/-- An instruction of a warp that is not paired and finds accesses asks for them. -/
theorem accessEffect_asks {compared : Bool} {f : State → Ctx → State × Found} {s s' : State} {c : Ctx} {a : Access} {accs : List Access}
    {now : List (Nat × Nat × Word)} (h : f s c = (s', .accs (a :: accs) now)) (hp : c.warp.paired = false) (ht : c.trail = none) :
    accessEffect compared f s c = .ok (finishWarp (s'.enqueue c (a :: accs) (writeRegs c.op c.x c.form) now none) c true) := by
  simp [accessEffect, h, hp, ht]

end Sys2Proof.Machine
end

