-- ==== Sys2Proof/Laws/Elements.lean ====
section
/-!
SUPPORT. Elements of register values (09 R199): a value built from elements gives each of them back.
-/
namespace Sys2Proof.Machine

theorem tyWidth_mul_tyCount (t : Nat) : tyCount t * tyWidth t = 32 * tyRegs t := by
  unfold tyWidth tyRegs tyPair tyCount
  repeat' split
  all_goals simp_all
  all_goals omega

theorem tyWidth_pos (t : Nat) : 0 < tyWidth t := by
  have := tyWidth_mul_tyCount t
  unfold tyRegs at this
  rcases Nat.eq_zero_or_pos (tyWidth t) with h | h
  · rw [h] at this; split at this <;> omega
  · exact h

theorem buildElems_lt (t : Nat) (f : Nat → Res) (n : Nat) : (buildElems t f n).1 < 2 ^ (n * tyWidth t) := by
  induction n with
  | zero => simp [buildElems]
  | succ n ih =>
    simp only [buildElems]
    have h : (f n).1 % 2 ^ tyWidth t < 2 ^ tyWidth t := Nat.mod_lt _ (Nat.two_pow_pos _)
    rw [Nat.add_mul, Nat.one_mul, Nat.pow_add]
    have hp : 0 < 2 ^ (n * tyWidth t) := Nat.two_pow_pos _
    calc (buildElems t f n).1 + (f n).1 % 2 ^ tyWidth t * 2 ^ (n * tyWidth t)
        < 2 ^ (n * tyWidth t) + (f n).1 % 2 ^ tyWidth t * 2 ^ (n * tyWidth t) := by omega
      _ = ((f n).1 % 2 ^ tyWidth t + 1) * 2 ^ (n * tyWidth t) := by rw [Nat.add_mul, Nat.one_mul, Nat.add_comm]
      _ ≤ 2 ^ tyWidth t * 2 ^ (n * tyWidth t) := Nat.mul_le_mul_right _ h
      _ = 2 ^ (n * tyWidth t) * 2 ^ tyWidth t := Nat.mul_comm _ _

theorem elemOf_add_high (t v k i n : Nat) (hi : i < n) : elemOf t (v + k * 2 ^ (n * tyWidth t)) i = elemOf t v i := by
  unfold elemOf natField
  have e : n * tyWidth t = i * tyWidth t + (tyWidth t + (n - i - 1) * tyWidth t) := by
    conv => lhs; rw [show n = i + (1 + (n - i - 1)) by omega, Nat.add_mul, Nat.add_mul, Nat.one_mul]
  rw [e, Nat.pow_add, Nat.pow_add, show k * (2 ^ (i * tyWidth t) * (2 ^ tyWidth t * 2 ^ ((n - i - 1) * tyWidth t)))
      = (k * 2 ^ ((n - i - 1) * tyWidth t) * 2 ^ tyWidth t) * 2 ^ (i * tyWidth t) by
        simp only [Nat.mul_comm, Nat.mul_left_comm],
    Nat.add_mul_div_right _ _ (Nat.two_pow_pos _), Nat.add_mul_mod_self_right]

theorem elemOf_buildElems (t : Nat) (f : Nat → Res) {n i : Nat} (hi : i < n) :
    elemOf t (buildElems t f n).1 i = (f i).1 % 2 ^ tyWidth t := by
  induction n with
  | zero => omega
  | succ n ih =>
    simp only [buildElems]
    by_cases e : i = n
    · subst e
      unfold elemOf natField
      rw [Nat.add_mul_div_right _ _ (Nat.two_pow_pos _), Nat.div_eq_of_lt (buildElems_lt t f i), Nat.zero_add, Nat.mod_mod]
    · rw [elemOf_add_high t _ _ i n (by omega)]
      exact ih (by omega)

/-- Element `i` of a value built from its elements. -/
theorem elemOf_mapElems (t : Nat) (f : Nat → Res) {i : Nat} (hi : i < tyCount t) : elemOf t (mapElems t f).1 i = (f i).1 % 2 ^ tyWidth t :=
  elemOf_buildElems t f hi

/-- A value built from its elements fits its registers. -/
theorem mapElems_lt (t : Nat) (f : Nat → Res) : (mapElems t f).1 < 2 ^ (32 * tyRegs t) := by
  rw [← tyWidth_mul_tyCount]; exact buildElems_lt t f _

/-- Its flags are those of its elements ORed. -/
theorem buildElems_flags (t : Nat) (f : Nat → Res) {k : Nat} (n : Nat) :
    (buildElems t f n).2.testBit k = true ↔ ∃ i, i < n ∧ (f i).2.testBit k = true := by
  induction n with
  | zero => simp [buildElems]
  | succ n ih =>
    simp only [buildElems, Nat.testBit_or, Bool.or_eq_true, ih]
    constructor
    · rintro (⟨i, h1, h2⟩ | h)
      · exact ⟨i, by omega, h2⟩
      · exact ⟨n, by omega, h⟩
    · rintro ⟨i, h1, h2⟩
      by_cases e : i = n
      · subst e; exact .inr h2
      · exact .inl ⟨i, by omega, h2⟩

/-- The flags of a value whose elements each raise one flag or none. -/
theorem mapElems_flags (t : Nat) (f : Nat → Res) (g : Nat) (p : Nat → Prop) [DecidablePred p] (h : ∀ i, i < tyCount t → (f i).2 = if p i then g else 0) :
    (mapElems t f).2 = if ∃ i, i < tyCount t ∧ p i then g else 0 := by
  apply Nat.eq_of_testBit_eq
  intro k
  rw [Bool.eq_iff_iff, mapElems, buildElems_flags]
  constructor
  · rintro ⟨i, h1, h2⟩
    rw [h i h1] at h2
    split at h2
    · rename_i hp
      rw [if_pos ⟨i, h1, hp⟩]; exact h2
    · simp at h2
  · intro h2
    split at h2
    · rename_i hp
      obtain ⟨i, h1, hp⟩ := hp
      exact ⟨i, h1, by rw [h i h1, if_pos hp]; exact h2⟩
    · simp at h2

/-! ### Integer results -/

theorem clampInt_eq (lo hi v : Int) (h : lo ≤ hi) : clampInt lo hi v = max lo (min hi v) := by
  unfold clampInt; split
  · omega
  · split <;> omega

theorem pow_cast_pos (n : Nat) : (0:Int) < ((2^n : Nat) : Int) := by exact_mod_cast Nat.two_pow_pos n

theorem intMin_le_intMax (t : Nat) : intMin t ≤ intMax t := by
  unfold intMin intMax
  have h1 := pow_cast_pos (tyWidth t - 1)
  have h2 := pow_cast_pos (tyWidth t)
  split <;> omega

theorem wrap_lt (w : Nat) (v : Int) : wrap w v < 2^w := by
  unfold wrap
  have := Int.emod_lt_of_pos v (pow_cast_pos w)
  have := Int.emod_nonneg v (Int.ne_of_gt (pow_cast_pos w))
  omega

theorem intResult_fst (t : Nat) (sat : Bool) (v : Int) :
    (intResult t sat v).1 = wrap (tyWidth t) (if sat = true then max (intMin t) (min (intMax t) v) else v) := by
  unfold intResult
  by_cases h : sat = true
  · simp only [h, Bool.true_and, if_true]
    have := intMin_le_intMax t
    split
    · rw [clampInt_eq _ _ _ this]
    · rename_i hh
      simp at hh
      rw [Int.max_eq_right (by omega), Int.min_eq_right (by omega)]
  · simp [h]

theorem intResult_snd (t : Nat) (sat : Bool) (v : Int) :
    (intResult t sat v).2 = if sat = true ∧ (v < intMin t ∨ intMax t < v) then flSAT else 0 := by
  unfold intResult
  by_cases h : sat = true
  · simp only [h, Bool.true_and, true_and]
    split <;> rename_i hh <;> simp at hh
    · simp [hh]
    · rw [if_neg (by omega)]
  · simp [h]


end Sys2Proof.Machine
end

