-- ==== Sys2Proof/Laws/Warps.lean ====
section
/-!
SUPPORT. Warps, quads and registers: what an update of one leaves of the others.
-/
namespace Sys2Proof.Machine

/-! ### Warps of the state -/

theorem find_map_uid (l : List Warp) (g : Warp → Warp) (hg : ∀ w, (g w).uid = w.uid) (u : Nat) :
    (l.map g).find? (fun w => w.uid == u) = (l.find? (fun w => w.uid == u)).map g := by
  induction l with
  | nil => rfl
  | cons a l ih =>
    simp only [List.map_cons, List.find?_cons, hg]
    split
    · rfl
    · exact ih

/-- A map over the warps that keeps their names acts on the warp that is found. -/
theorem State.warpOf_map (s : State) (g : Warp → Warp) (hg : ∀ w, (g w).uid = w.uid) (u : Nat) :
    ({ s with warps := s.warps.map g } : State).warpOf u = (s.warpOf u).map g := find_map_uid _ g hg u

theorem State.uid_of_warpOf {s : State} {u : Nat} {w : Warp} (h : s.warpOf u = some w) : w.uid = u := by
  simpa using List.find?_some h

theorem State.warpOf_onWarp (s : State) (u v : Nat) (f : Warp → Warp) (hf : ∀ w, (f w).uid = w.uid) :
    (s.onWarp u f).warpOf v = if v = u then (s.warpOf v).map f else s.warpOf v := by
  have hg : ∀ w : Warp, (if w.uid == u then f w else w).uid = w.uid := by
    intro w; split <;> simp [hf]
  show ({ s with warps := s.warps.map _ } : State).warpOf v = _
  rw [State.warpOf_map s _ hg]
  cases h : s.warpOf v with
  | none => simp
  | some w =>
    have := State.uid_of_warpOf h
    by_cases hv : v = u <;> simp [this, hv]

theorem State.warpOf_onWarp_self {s : State} {u : Nat} {w : Warp} (h : s.warpOf u = some w) (f : Warp → Warp) (hf : ∀ w, (f w).uid = w.uid) :
    (s.onWarp u f).warpOf u = some (f w) := by
  rw [State.warpOf_onWarp s u u f hf, h]; simp

theorem State.warpOf_onWarp_other (s : State) {u v : Nat} (hv : v ≠ u) (f : Warp → Warp) (hf : ∀ w, (f w).uid = w.uid) :
    (s.onWarp u f).warpOf v = s.warpOf v := by
  rw [State.warpOf_onWarp s u v f hf]; simp [hv]

theorem State.onWarp_eq (s : State) (u : Nat) (f : Warp → Warp) : s.onWarp u f = { s with warps := (s.onWarp u f).warps } := rfl

/-! ### Quads -/

theorem getD_modifyAt {α : Type} (f : α → α) (d : α) (q j : Nat) (l : List α) :
    (modifyAt f q l).getD j d = if j = q ∧ q < l.length then f (l.getD j d) else l.getD j d := by
  induction l generalizing q j with
  | nil => cases q <;> simp [modifyAt]
  | cons a l ih =>
    cases q with
    | zero => cases j <;> simp [modifyAt]
    | succ q =>
      cases j with
      | zero => simp [modifyAt]
      | succ j =>
        have := ih q j
        simpa [modifyAt] using this

theorem length_modifyAt {α : Type} (f : α → α) (q : Nat) (l : List α) : (modifyAt f q l).length = l.length := by
  induction l generalizing q with
  | nil => cases q <;> rfl
  | cons a l ih => cases q <;> simp [modifyAt, ih]

theorem Warp.quad_onQuad (w : Warp) (q j : Nat) (f : Quad → Quad) :
    (w.onQuad q f).quad j = if j = q ∧ q < w.quads.length then f (w.quad j) else w.quad j := getD_modifyAt f Quad.empty q j w.quads

theorem Warp.length_onQuad (w : Warp) (q : Nat) (f : Quad → Quad) : (w.onQuad q f).quads.length = w.quads.length :=
  length_modifyAt f q w.quads

/-- An update of quads changes nothing else of a warp. -/
theorem Warp.onQuad_eq (w : Warp) (q : Nat) (f : Quad → Quad) : w.onQuad q f = { w with quads := (w.onQuad q f).quads } := rfl

theorem foldl_onQuad_eq (qs : List Nat) (g : Nat → Quad → Quad) (w : Warp) :
    qs.foldl (fun w q => w.onQuad q (g q)) w = { w with quads := (qs.foldl (fun w q => w.onQuad q (g q)) w).quads } := by
  induction qs generalizing w with
  | nil => rfl
  | cons q qs ih => exact (ih (w.onQuad q (g q))).trans rfl

theorem length_foldl_onQuad (qs : List Nat) (g : Nat → Quad → Quad) (w : Warp) :
    (qs.foldl (fun w q => w.onQuad q (g q)) w).quads.length = w.quads.length := by
  induction qs generalizing w with
  | nil => rfl
  | cons q qs ih => exact (ih _).trans (Warp.length_onQuad w q (g q))

/-- Updates of several different quads: each named quad is updated once, the others are as before. -/
theorem quad_foldl_onQuad (qs : List Nat) (g : Nat → Quad → Quad) (w : Warp) (hn : qs.Nodup) (j : Nat) :
    (qs.foldl (fun w q => w.onQuad q (g q)) w).quad j = if j ∈ qs ∧ j < w.quads.length then g j (w.quad j) else w.quad j := by
  induction qs generalizing w with
  | nil => simp
  | cons q qs ih =>
    rw [List.nodup_cons] at hn
    rw [List.foldl_cons, ih (w.onQuad q (g q)) hn.2, Warp.length_onQuad, Warp.quad_onQuad]
    by_cases hj : j = q
    · subst hj
      by_cases hl : j < w.quads.length <;> simp [hn.1, hl]
    · by_cases hm : j ∈ qs <;> simp [hj, hm]

theorem quads8_nodup : quads8.Nodup := by decide

theorem Warp.members_nodup (w : Warp) (gang : Nat) : (w.members gang).Nodup := by
  unfold Warp.members Warp.aliveQuads
  exact (quads8_nodup.filter _).filter _

/-- A member quad exists. -/
theorem Warp.lt_of_mem_members {w : Warp} {gang q : Nat} (h : q ∈ w.members gang) : q < w.quads.length := by
  rcases Nat.lt_or_ge q w.quads.length with hl | hl
  · exact hl
  exfalso
  have e : w.quad q = Quad.empty := by
    unfold Warp.quad
    rw [List.getD_eq_getElem?_getD, List.getElem?_eq_none hl]
    rfl
  simp [Warp.members, Warp.aliveQuads, e, Quad.alive, Quad.empty] at h

end Sys2Proof.Machine
end

