-- ==== Sys2Proof/Laws/Issue.lean ====
section
/-!
SUPPORT. What the issue of an instruction can do: the checks before its effect, the effect, and the advance after it (05 R106, 12 R268).
-/
namespace Sys2Proof.Machine

/-! ### The counter of free choices -/

/-- A state that differs in the counter of free choices alone. -/
def OnlyFresh (s t : State) : Prop := t = { s with fresh := t.fresh }

theorem OnlyFresh.refl (s : State) : OnlyFresh s s := rfl
theorem OnlyFresh.trans {s t u : State} (h : OnlyFresh s t) (h' : OnlyFresh t u) : OnlyFresh s u := by
  unfold OnlyFresh at *; rw [h', h]
theorem OnlyFresh.chooseNat (s : State) : OnlyFresh s s.chooseNat.2 := rfl
theorem OnlyFresh.warpOf {s t : State} (h : OnlyFresh s t) (u : Nat) : t.warpOf u = s.warpOf u := by rw [h]; rfl
theorem OnlyFresh.warps {s t : State} (h : OnlyFresh s t) : t.warps = s.warps := by rw [h]
theorem OnlyFresh.onlyWarps {s t : State} (h : OnlyFresh s t) : OnlyWarps s t := by
  unfold OnlyFresh at h; unfold OnlyWarps; rw [h]

/-- A fold over states with something beside keeps what each round keeps. -/
theorem foldl_onlyFresh {α β : Type} (l : List α) (f : State × β → α → State × β) (hf : ∀ a x, OnlyFresh a.1 (f a x).1) (a : State × β) :
    OnlyFresh a.1 (l.foldl f a).1 := by
  induction l generalizing a with
  | nil => exact OnlyFresh.refl _
  | cons x l ih => exact (hf a x).trans (ih (f a x))

theorem earlyView_fresh (s : State) (w : Warp) (qs : List Nat) (rs : List (RegKind × Nat)) (r : Regs) :
    OnlyFresh s (earlyView s w qs rs r).1 := by
  unfold earlyView
  refine foldl_onlyFresh _ _ (fun a x => ?_) (s, r)
  exact foldl_onlyFresh _ _ (fun a x => OnlyFresh.chooseNat a.1) a

theorem earlyWrite_fresh (s : State) (w : Warp) (qs : List Nat) (rs : List (RegKind × Nat)) (old new : Regs) :
    OnlyFresh s (earlyWrite s w qs rs old new).1 := by
  unfold earlyWrite
  refine foldl_onlyFresh _ _ (fun a x => ?_) (s, new)
  refine foldl_onlyFresh _ _ (fun a x => ?_) a
  dsimp only
  split
  · exact OnlyFresh.refl _
  · exact OnlyFresh.chooseNat a.1

/-- With nothing owed, registers are seen and settle as they are. -/
theorem earlyView_none {s : State} {w : Warp} {qs : List Nat} {rs : List (RegKind × Nat)} (h : owedOn w qs rs = []) (r : Regs) :
    earlyView s w qs rs r = (s, r) := by simp [earlyView, h]
theorem earlyWrite_none {s : State} {w : Warp} {qs : List Nat} {rs : List (RegKind × Nat)} (h : owedOn w qs rs = []) (old new : Regs) :
    earlyWrite s w qs rs old new = (s, new) := by simp [earlyWrite, h]

/-! ### Warps alone -/

theorem OnlyWarps.refl (s : State) : OnlyWarps s s := rfl
theorem OnlyWarps.trans {s t u : State} (h : OnlyWarps s t) (h' : OnlyWarps t u) : OnlyWarps s u := by
  unfold OnlyWarps at *; rw [h', h]
theorem OnlyWarps.onWarp (s : State) (u : Nat) (f : Warp → Warp) : OnlyWarps s (s.onWarp u f) := rfl
theorem OnlyWarps.partGang (s : State) (core gang : Nat) : OnlyWarps s (s.partGang core gang) := by
  unfold State.partGang
  simp only
  split
  · rfl
  · split <;> rfl
theorem OtherWarps.refl (s : State) (u : Nat) : OtherWarps s s u := fun _ _ => rfl
theorem OtherWarps.trans {s t r : State} {u : Nat} (h : OtherWarps s t u) (h' : OtherWarps t r u) : OtherWarps s r u :=
  fun v hv => (h' v hv).trans (h v hv)
theorem OtherWarps.onWarp (s : State) (u : Nat) (f : Warp → Warp) (hf : ∀ w, (f w).uid = w.uid) : OtherWarps s (s.onWarp u f) u :=
  fun _ hv => State.warpOf_onWarp_other s hv f hf
theorem OnlyFresh.otherWarps {s t : State} (h : OnlyFresh s t) (u : Nat) : OtherWarps s t u := fun v _ => h.warpOf v

/-! ### The checks and operands of an issue -/

/-- What the checks and the operands leave: the context with registers, lanes and poured values, and a state that differs in the mold
step state of the warp at most. -/
theorem prepare_ready {s t : State} {c c' : Ctx} {voided : LaneMask} (h : prepare s c = .ready t c' voided) :
    (∃ regs lanes poured columns, c' = { c with regs, lanes, poured, columns })
      ∧ formCheck (c.warp.checkEnv c.x) c.op c.x = none
      ∧ ∃ s' step, OnlyFresh s s' ∧ t = s'.onWarp c.warp.uid (fun w => { w with mstep := step })
        ∧ (pouredOperands c.x = [] → step = c.warp.mstep ∧ c'.lanes = c.lanes &&& ~~~voided ∧ c'.poured = []) := by
  unfold prepare at h
  simp only at h
  split at h
  · cases h
  · rename_i he
    split at h
    · cases h
    · split at h
      · cases h
      · split at h
        · cases h
        · rename_i vals cols step hp
          simp only [Prep.ready.injEq] at h
          obtain ⟨rfl, rfl, rfl⟩ := h
          refine ⟨⟨_, _, _, _, rfl⟩, ?_, _, step, earlyView_fresh _ _ _ _ _, rfl, ?_⟩
          · unfold earlyFault at he
            simp only at he
            split at he
            · cases he
            · cases he
            · assumption
          · intro h0
            simp only [pourOperands, h0, List.foldl_nil, Pours.done.injEq] at hp
            exact ⟨hp.2.2.symm, by simp [pourLanes, h0], hp.1.symm⟩

/-! ### The gang -/

theorem mem_insertBySlot (w x : Warp) (l : List Warp) : x ∈ insertBySlot w l ↔ x = w ∨ x ∈ l := by
  induction l with
  | nil => simp [insertBySlot]
  | cons a l ih =>
    unfold insertBySlot
    split
    · simp
    · simp only [List.mem_cons, ih]
      constructor
      · rintro (h | h | h) <;> simp [h]
      · rintro (h | h | h) <;> simp [h]

theorem mem_gangWarps (s : State) (core gang : Nat) (x : Warp) :
    x ∈ s.gangWarps core gang ↔ x ∈ s.warps ∧ x.core = core ∧ x.ended = false ∧ x.members gang ≠ [] := by
  have key : ∀ (l acc : List Warp), x ∈ l.foldl (fun l w => insertBySlot w l) acc ↔ x ∈ acc ∨ x ∈ l := by
    intro l
    induction l with
    | nil => simp
    | cons a l ih =>
      intro acc
      rw [List.foldl_cons, ih, mem_insertBySlot]
      simp only [List.mem_cons]
      constructor
      · rintro ((h | h) | h) <;> simp [h]
      · rintro (h | h | h) <;> simp [h]
  unfold State.gangWarps
  rw [key]
  simp only [List.not_mem_nil, false_or, State.residents, List.mem_filter, Bool.and_eq_true, beq_iff_eq, Bool.not_eq_true', bne_iff_ne, ne_eq]
  constructor
  · rintro ⟨⟨h1, h2, h3⟩, h4⟩; exact ⟨h1, h2, h3, h4⟩
  · rintro ⟨h1, h2, h3, h4⟩; exact ⟨⟨h1, h2, h3⟩, h4⟩

/-- What parting a gang does to one warp: gang numbers of its members. -/
def regangs (w w' : Warp) (gang : Nat) : Prop :=
  w' = { w with quads := w'.quads } ∧ (∀ q, w'.quad q = { w.quad q with gang := (w'.quad q).gang })
    ∧ ∀ q, q ∉ w.members gang → w'.quad q = w.quad q

/-- A fold whose rounds change gang numbers alone. -/
theorem foldl_gangs (f : Warp → Nat → Warp)
    (hf : ∀ w q, f w q = w ∨ ∃ g, f w q = w.onQuad q (fun x => { x with gang := g })) (qs : List Nat) (v : Warp) :
    qs.foldl f v = { v with quads := (qs.foldl f v).quads }
      ∧ (∀ q, (qs.foldl f v).quad q = { v.quad q with gang := ((qs.foldl f v).quad q).gang })
      ∧ ∀ q, q ∉ qs → (qs.foldl f v).quad q = v.quad q := by
  induction qs generalizing v with
  | nil => exact ⟨rfl, fun _ => rfl, fun _ _ => rfl⟩
  | cons a qs ih =>
    simp only [List.foldl_cons]
    obtain ⟨h1, h2, h3⟩ := ih (f v a)
    rcases hf v a with e | ⟨g, e⟩
    · rw [e] at h1 h2 h3 ⊢
      exact ⟨h1, h2, fun q hq => h3 q (fun h => hq (List.mem_cons_of_mem _ h))⟩
    · rw [e] at h1 h2 h3 ⊢
      refine ⟨h1.trans rfl, fun q => ?_, fun q hq => ?_⟩
      · have e := h2 q
        rw [Warp.quad_onQuad] at e
        split at e
        · rw [e]
        · exact e
      · rw [h3 q (fun h => hq (List.mem_cons_of_mem _ h)), Warp.quad_onQuad]
        have : ¬ q = a := fun h => hq (h ▸ List.mem_cons_self)
        simp [this]

theorem foldl_gangs_uid (f : Warp → Nat → Warp)
    (hf : ∀ w q, f w q = w ∨ ∃ g, f w q = w.onQuad q (fun x => { x with gang := g })) (qs : List Nat) (v : Warp) :
    (qs.foldl f v).uid = v.uid := by rw [(foldl_gangs f hf qs v).1]

/-- One round of parting. -/
theorem parting_round (k : Nat) (low : Member) (w : Warp) (all : List Member) (w' : Warp) (q : Nat) :
    let m : Member := ⟨w.slot, q, (w.quad q).park, (w.quad q).path.pc⟩
    let r := match all.find? (fun n => n.with m) with
      | some n => if low.with n then w' else w'.onQuad q (fun x => { x with gang := gangId k (8 * n.slot + n.quad) })
      | none => w'
    r = w' ∨ ∃ g, r = w'.onQuad q (fun x => { x with gang := g }) := by
  dsimp only
  split
  · split
    · exact .inl rfl
    · exact .inr ⟨_, rfl⟩
  · exact .inl rfl

/-- What parting does to a warp of the state. -/
theorem State.partGang_warp {s : State} {u : Nat} {w : Warp} (core gang : Nat) (h : s.warpOf u = some w) :
    ∃ w', (s.partGang core gang).warpOf u = some w' ∧ regangs w w' gang := by
  unfold State.partGang
  simp only
  split
  · exact ⟨w, h, rfl, fun _ => rfl, fun _ _ => rfl⟩
  split
  · exact ⟨w, h, rfl, fun _ => rfl, fun _ _ => rfl⟩
  rw [State.warpOf_map]
  · rw [show s.newUid.2.warpOf u = s.warpOf u from rfl, h]
    refine ⟨_, rfl, ?_⟩
    dsimp only
    split
    · exact foldl_gangs _ (parting_round _ _ w _) _ w
    · exact ⟨rfl, fun _ => rfl, fun _ _ => rfl⟩
  · intro w
    split
    · exact foldl_gangs_uid _ (parting_round _ _ w _) _ w
    · rfl

/-- Parting a gang leaves a warp without members of it as it was. -/
theorem State.partGang_other {s : State} {u : Nat} (core gang : Nat)
    (h : ∀ w, s.warpOf u = some w → w.core = core → w.ended = false → w.members gang = []) :
    (s.partGang core gang).warpOf u = s.warpOf u := by
  unfold State.partGang
  simp only
  split
  · rfl
  split
  · rfl
  rw [State.warpOf_map]
  · rw [show s.newUid.2.warpOf u = s.warpOf u from rfl]
    cases e : s.warpOf u with
    | none => rfl
    | some w =>
      have hw := h w e
      simp only [Option.map_some]
      split
      · rename_i hc
        simp only [Bool.and_eq_true, beq_iff_eq, Bool.not_eq_true'] at hc
        rw [hw hc.1 hc.2]; rfl
      · rfl
  · intro w
    split
    · exact foldl_gangs_uid _ (parting_round _ _ w _) _ w
    · rfl

/-- What an issue enters in the trail of its warp: nothing where the warp is not paired. -/
theorem noteIssue_warp {s : State} {c : Ctx} {w : Warp} (h : s.warpOf c.warp.uid = some w) :
    OnlyWarps s (s.noteIssue c) ∧ OtherWarps s (s.noteIssue c) c.warp.uid
      ∧ ∃ trail, (s.noteIssue c).warpOf c.warp.uid = some { w with trail } ∧ (c.warp.paired = false → trail = w.trail) := by
  unfold State.noteIssue
  split
  · rename_i hp
    have e : ∀ w : Warp, (if w.wentOn c.warp && w.trail.length == c.warp.trail.length then { w with trail := w.trail ++ [c.entry] } else w).uid = w.uid := by
      intro w; split <;> rfl
    refine ⟨OnlyWarps.onWarp _ _ _, OtherWarps.onWarp _ _ _ e, ?_⟩
    rw [State.noteTrail, State.warpOf_onWarp_self h _ e]
    split
    · exact ⟨_, rfl, fun hn => by simp [hn] at hp⟩
    · exact ⟨w.trail, rfl, fun _ => rfl⟩
  · exact ⟨OnlyWarps.refl _, OtherWarps.refl _ _, w.trail, h, fun _ => rfl⟩
theorem noteIssue_plain (s : State) {c : Ctx} (h : c.warp.paired = false) : s.noteIssue c = s := by simp [State.noteIssue, h]

/-- An instruction of a gang in one home warp that reaches its effect goes on as the effect says. -/
theorem issue_ok {effect : State → Ctx → Done} {o : Op} {x : Fields} {s t u : State} {c : Ctx} (h : Reaches o x s t c)
    (he : effect t c = .ok u) : issue effect o x s = .next ((u.noteIssue c).partGang c.core c.gang) := by
  obtain ⟨cur, w, hc, hh, hg, hw, hp⟩ := h
  obtain ⟨⟨regs, lanes, poured, columns, rfl⟩, -⟩ := prepare_ready hp
  simp only [issue, hc, Nat.not_le.2 hh, if_false, hg, issueHomes, hw, issueWarp, hp, he]
  rfl

/-- One that ends in a trap takes it. -/
theorem issue_trap {effect : State → Ctx → Done} {o : Op} {x : Fields} {s t u : State} {c : Ctx} {uid : Nat} {tr : Trap}
    (h : Reaches o x s t c) (he : effect t c = .trap u uid tr) :
    issue effect o x s = .next ((u.dissolve c.core c.gang).takeTrap uid tr) := by
  obtain ⟨cur, w, hc, hh, hg, hw, hp⟩ := h
  obtain ⟨⟨regs, lanes, poured, columns, rfl⟩, -⟩ := prepare_ready hp
  simp only [issue, hc, Nat.not_le.2 hh, if_false, hg, issueHomes, hw, issueWarp, hp, he]
  rfl

/-- What reaching an effect says of the context: its parts. -/
theorem Reaches.parts {o : Op} {x : Fields} {s t : State} {c : Ctx} (h : Reaches o x s t c) :
    c.op = o ∧ c.x = x ∧ c.form = o.form x ∧ c.quads = c.warp.members c.gang ∧ c.len = 4 * (x.len.toNat + 1)
      ∧ s.warpOf c.warp.uid = some c.warp ∧ formCheck (c.warp.checkEnv x) o x = none := by
  obtain ⟨cur, w, hc, hh, hg, hw, hp⟩ := h
  obtain ⟨⟨regs, lanes, poured, columns, rfl⟩, hf, -⟩ := prepare_ready hp
  exact ⟨rfl, rfl, rfl, rfl, rfl, hw, hf⟩

/-- It is an issue of a leading warp. -/
theorem Reaches.leading {o : Op} {x : Fields} {s t : State} {c : Ctx} (h : Reaches o x s t c) : c.trail = none := by
  obtain ⟨cur, w, hc, hh, hg, hw, hp⟩ := h
  obtain ⟨⟨regs, lanes, poured, columns, rfl⟩, -⟩ := prepare_ready hp
  rfl

/-- No other warp of the state has members of the gang. -/
theorem Reaches.alone {o : Op} {x : Fields} {s t : State} {c : Ctx} (h : Reaches o x s t c) {v : Nat} {w : Warp} (hv : v ≠ c.warp.uid)
    (hw : s.warpOf v = some w) (hc : w.core = c.core) (he : w.ended = false) : w.members c.gang = [] := by
  obtain ⟨cur, w0, hcur, hh, hg, hw0, hp⟩ := h
  obtain ⟨⟨regs, lanes, poured, columns, rfl⟩, -⟩ := prepare_ready hp
  rcases hm : w.members cur.gang with _ | ⟨q, qs⟩
  · exact hm
  · exfalso
    have hin : w ∈ s.gangWarps cur.core cur.gang :=
      (mem_gangWarps s _ _ w).2 ⟨List.mem_of_find?_eq_some hw, hc, he, by simp [hm]⟩
    rw [hg, List.mem_singleton] at hin
    exact hv ((State.uid_of_warpOf hw).symm.trans (by rw [hin]; rfl))

/-- The state that an effect begins from: the warp with its mold step state. -/
theorem Reaches.start {o : Op} {x : Fields} {s t : State} {c : Ctx} (h : Reaches o x s t c) :
    OnlyWarps s t ∧ OtherWarps s t c.warp.uid
      ∧ ∃ step, t.warpOf c.warp.uid = some { c.warp with mstep := step } ∧ (pouredOperands x = [] → step = c.warp.mstep) := by
  obtain ⟨cur, w, hc, hh, hg, hw, hp⟩ := h
  obtain ⟨⟨regs, lanes, poured, columns, rfl⟩, -, s', step, hs, rfl, hst⟩ := prepare_ready hp
  refine ⟨hs.onlyWarps.trans (OnlyWarps.onWarp _ _ _), (hs.otherWarps _).trans (OtherWarps.onWarp _ _ _ (fun _ => rfl)), step, ?_, fun h0 => (hst h0).1⟩
  exact State.warpOf_onWarp_self (by rw [hs.warpOf]; exact hw) _ (fun _ => rfl)

/-! ### The advance after an instruction -/

theorem onQuads_eq (w : Warp) (qs : List Nat) (f : Quad → Quad) : w.onQuads qs f = { w with quads := (w.onQuads qs f).quads } :=
  foldl_onQuad_eq qs (fun _ => f) w

theorem quad_onQuads (w : Warp) (qs : List Nat) (f : Quad → Quad) (hn : qs.Nodup) (j : Nat) :
    (w.onQuads qs f).quad j = if j ∈ qs ∧ j < w.quads.length then f (w.quad j) else w.quad j :=
  quad_foldl_onQuad qs (fun _ => f) w hn j

theorem length_onQuads (w : Warp) (qs : List Nat) (f : Quad → Quad) : (w.onQuads qs f).quads.length = w.quads.length :=
  length_foldl_onQuad qs (fun _ => f) w

/-- What a quad becomes when it has issued. -/
def charged (clk stall lat : Nat) (rs : List (RegKind × Nat)) (before : Regs) (q : Nat) (x : Quad) : Quad :=
  { Quad.pay x q (1 + stall) lat rs before with readyAt := clk + 1 + stall }

theorem chargeQuads_eq (w : Warp) (qs : List Nat) (clk stall lat : Nat) (rs : List (RegKind × Nat)) (before : Regs) :
    chargeQuads w qs clk stall lat rs before = qs.foldl (fun w q => w.onQuad q (charged clk stall lat rs before q)) w := rfl

/-- Charging changes nothing of a quad but what it owes and when it may issue. -/
theorem charged_keeps (clk stall lat : Nat) (rs : List (RegKind × Nat)) (before : Regs) (q : Nat) (x : Quad) :
    let y := charged clk stall lat rs before q x
    y.path = x.path ∧ y.gang = x.gang ∧ y.packed = x.packed ∧ y.park = x.park ∧ y.before = x.before := ⟨rfl, rfl, rfl, rfl, rfl⟩

/-- What `finishWarp` makes of the warp. -/
def finished (c : Ctx) (clk : Nat) (advance : Bool) (w : Warp) : Warp :=
  let w := if advance then advanceQuads w c.quads c.len else w
  let w := chargeQuads w c.quads clk c.x.stall.toNat (latency c.warp c.op c.x) (writeRegs c.op c.x c.form) c.warp.regs
  let w := { w with
    offered := false, wstat := w.wstat ||| BitVec.ofNat 32 c.pourFlags, retired := w.retired + 1, pours := w.pours + BitVec.ofNat 64 (pouredOperands c.x).length }
  if clearsRegion c.op && c.any then w.clearRegion else w

theorem finishWarp_eq (s : State) (c : Ctx) (advance : Bool) :
    finishWarp s c advance = s.onWarp c.warp.uid (finished c (s.coreOf c.core).clk advance) := rfl

/-- Nothing of the warp changes but its quads, its counters, `offered` and, for an instruction that clears it, REGION.VALID. -/
theorem finished_eq (c : Ctx) (clk : Nat) (advance : Bool) (w : Warp) :
    finished c clk advance w =
      { w with
        quads := (finished c clk advance w).quads, offered := false, wstat := w.wstat ||| BitVec.ofNat 32 c.pourFlags, retired := w.retired + 1,
        pours := w.pours + BitVec.ofNat 64 (pouredOperands c.x).length,
        region := if clearsRegion c.op && c.any then w.region &&& ~~~(1 : BitVec 64) else w.region } := by
  unfold finished
  simp only [chargeQuads_eq, advanceQuads]
  rw [foldl_onQuad_eq]
  cases advance
  · simp only [Bool.false_eq_true, if_false]
    split <;> rfl
  · simp only [if_true]
    rw [onQuads_eq]
    split <;> rfl

theorem finished_uid (c : Ctx) (clk : Nat) (advance : Bool) (w : Warp) : (finished c clk advance w).uid = w.uid := by rw [finished_eq]

/-- The quads of the gang go on and are charged; the others are as before. -/
theorem finished_quad (c : Ctx) (clk : Nat) (w : Warp) (hn : c.quads.Nodup) (q : Nat) :
    (finished c clk true w).quad q =
      if q ∈ c.quads ∧ q < w.quads.length then
        charged clk c.x.stall.toNat (latency c.warp c.op c.x) (writeRegs c.op c.x c.form) c.warp.regs q
          { w.quad q with path := { (w.quad q).path with pc := (w.quad q).path.pc + BitVec.ofNat 55 c.len } }
      else w.quad q := by
  have key : ∀ v : Warp, (if clearsRegion c.op && c.any then
      Warp.clearRegion { v with offered := false, wstat := v.wstat ||| BitVec.ofNat 32 c.pourFlags, retired := v.retired + 1, pours := v.pours + BitVec.ofNat 64 (pouredOperands c.x).length }
      else { v with offered := false, wstat := v.wstat ||| BitVec.ofNat 32 c.pourFlags, retired := v.retired + 1, pours := v.pours + BitVec.ofNat 64 (pouredOperands c.x).length }).quad q
        = v.quad q := by
    intro v; split <;> rfl
  unfold finished
  simp only [if_true]
  rw [key, chargeQuads_eq, quad_foldl_onQuad _ _ _ hn, advanceQuads, length_onQuads, quad_onQuads _ _ _ hn]
  split <;> rfl

/-! ### Instructions that write registers and flags -/

/-- An update of a warp that writes registers, flags and register errors alone. -/
def WritesRegs (g : Warp → Warp) : Prop :=
  ∀ w, g w = { w with regs := (g w).regs, wstat := (g w).wstat, errors := (g w).errors, trail := (g w).trail }

/-- An instruction whose effect writes registers and flags and then advances keeps its frame. -/
theorem regFrame_of (p : List (Nat × List Res)) {o : Op} {x : Fields} {s t t1 : State} {c : Ctx} {g : Warp → Warp} (h : Reaches o x s t c) (hf : OnlyFresh t t1)
    (hg : WritesRegs g) (ho : clearsRegion o = false)
    (hr : ∀ step, KeepsRegs c (g { c.warp with mstep := step }).regs) :
    ∃ w step, RegFrame s c (((finishWarp (t1.onWarp c.warp.uid g) { c with poured := p } true).noteIssue c).partGang c.core c.gang) w
      ∧ w.regs = (g { c.warp with mstep := step }).regs ∧ w.wstat = (g { c.warp with mstep := step }).wstat ||| BitVec.ofNat 32 (Ctx.pourFlags { c with poured := p })
      ∧ (c.warp.paired = false → w.trail = (g { c.warp with mstep := step }).trail) := by
  obtain ⟨hop, hx, hform, hq, hlen, hw, hc⟩ := h.parts
  obtain ⟨hs1, hs2, step, hs3, hs4⟩ := h.start
  have huid : ∀ w, (g w).uid = w.uid := fun w => by rw [hg w]
  -- the warp after the writes, and after the advance
  have h1 : (t1.onWarp c.warp.uid g).warpOf c.warp.uid = some (g { c.warp with mstep := step }) :=
    State.warpOf_onWarp_self (by rw [hf.warpOf]; exact hs3) g huid
  have h2' := State.warpOf_onWarp_self h1 (finished { c with poured := p } ((t1.onWarp c.warp.uid g).coreOf c.core).clk true) (finished_uid { c with poured := p } _ true)
  generalize hv : finished { c with poured := p } ((t1.onWarp c.warp.uid g).coreOf c.core).clk true (g { c.warp with mstep := step }) = v at h2'
  obtain ⟨n1, n2, trail, h2, htr⟩ := noteIssue_warp (c := c) h2'
  obtain ⟨w, h3, hw1, hw2, hw3⟩ := State.partGang_warp c.core c.gang h2
  have hw2 : ∀ q, w.quad q = { v.quad q with gang := (w.quad q).gang } := hw2
  have hw3 : ∀ q, q ∉ v.members c.gang → w.quad q = v.quad q := hw3
  have hvq : ∀ q, v.quad q = if q ∈ c.quads ∧ q < c.warp.quads.length then
      charged ((t1.onWarp c.warp.uid g).coreOf c.core).clk c.x.stall.toNat (latency c.warp c.op c.x) (writeRegs c.op c.x c.form) c.warp.regs q
        { c.warp.quad q with path := { (c.warp.quad q).path with pc := (c.warp.quad q).path.pc + BitVec.ofNat 55 c.len } }
      else c.warp.quad q := by
    intro q
    have hquads : (g { c.warp with mstep := step }).quads = c.warp.quads := by rw [hg]
    have hquad : ∀ q, (g { c.warp with mstep := step }).quad q = c.warp.quad q := fun q => by unfold Warp.quad; rw [hquads]
    rw [← hv, finished_quad { c with poured := p } _ _ (hq ▸ Warp.members_nodup _ _), hquads, hquad]
  have hmem : ∀ q, q ∈ c.quads → q < c.warp.quads.length := fun q h => Warp.lt_of_mem_members (hq ▸ h)
  have hve : v = { g { c.warp with mstep := step } with
      quads := v.quads, offered := false, wstat := (g { c.warp with mstep := step }).wstat ||| BitVec.ofNat 32 (Ctx.pourFlags { c with poured := p }), retired := c.warp.retired + 1,
      pours := c.warp.pours + BitVec.ofNat 64 (pouredOperands c.x).length } := by
    have e := finished_eq { c with poured := p } ((t1.onWarp c.warp.uid g).coreOf c.core).clk true (g { c.warp with mstep := step })
    rw [hv] at e
    simp only [hop, ho] at e
    rw [e, hg { c.warp with mstep := step }]
    rfl
  have hregs : w.regs = (g { c.warp with mstep := step }).regs := by rw [hw1, hve]
  have hstat : w.wstat = (g { c.warp with mstep := step }).wstat ||| BitVec.ofNat 32 (Ctx.pourFlags { c with poured := p }) := by rw [hw1, hve]
  have htrl : c.warp.paired = false → w.trail = (g { c.warp with mstep := step }).trail := fun hn => by
    have e : w.trail = trail := by rw [hw1]
    rw [e, htr hn, hve]
  have hmst : w.mstep = step := by rw [hw1, hve, hg]
  refine ⟨w, step, ⟨?_, ?_, h3, ?_, ⟨fun q hqm => ?_, fun q hqm => ?_⟩, ?_, ?_⟩, hregs, hstat, htrl⟩
  · exact (((hs1.trans hf.onlyWarps).trans ((OnlyWarps.onWarp _ _ _).trans (OnlyWarps.onWarp _ _ _))).trans n1).trans (OnlyWarps.partGang _ _ _)
  · have ho1 : OtherWarps s ((finishWarp (t1.onWarp c.warp.uid g) { c with poured := p } true).noteIssue c) c.warp.uid :=
      (((hs2.trans (hf.otherWarps _)).trans (OtherWarps.onWarp _ _ _ huid)).trans (OtherWarps.onWarp _ _ _ (finished_uid { c with poured := p } _ true))).trans n2
    intro u hu
    rw [State.partGang_other c.core c.gang]
    · exact ho1 u hu
    · intro w' hw' hc' he'
      rw [ho1 u hu] at hw'
      exact h.alone hu hw' hc' he'
  · rw [hw1, hve, hg]
  · have hq2 := hw2 q
    have hq1 := hvq q
    rw [if_pos ⟨hqm, hmem q hqm⟩] at hq1
    rw [hq2, hq1]
    exact ⟨rfl, rfl, rfl, rfl⟩
  · have hq1 := hvq q
    rw [if_neg (fun h => hqm h.1)] at hq1
    rw [hw3 q, hq1]
    intro hin
    have : q ∈ c.warp.members c.gang := by
      have hal : ∀ p, (v.quad p).alive = (c.warp.quad p).alive ∧ (v.quad p).gang = (c.warp.quad p).gang := by
        intro p
        rw [hvq p]
        split <;> exact ⟨rfl, rfl⟩
      simpa [Warp.members, Warp.aliveQuads, hal] using hin
    exact hqm (hq ▸ this)
  · rw [hregs]; exact hr step
  · intro h0
    rw [hmst]
    exact hs4 (hx ▸ h0)

end Sys2Proof.Machine
end

