-- ==== Sys2Proof/Laws/Regs.lean ====
section
/-!
SUPPORT. Register files: a read after a write (00 R2; 12 R262, R263), and what the writes of an instruction leave.
-/
namespace Sys2Proof.Machine

theorem Regs.vec_setVec (r : Regs) {n l m k : Nat} (hl : l < 32) (hk : k < 32) (v : Word) :
    (r.setVec n l v).vec m k = if m = n ∧ k = l ∧ n ≠ 255 then v else r.vec m k := by
  unfold Regs.setVec Regs.vec
  by_cases hn : n = 255
  · simp [hn]
  · by_cases hm : m = 255
    · have : ¬ m = n := by omega
      simp [hn, hm, show ¬ 255 = n by omega]
    · simp only [beq_iff_eq, hn, hm, if_false, Cells.get_put, ne_eq, not_false_eq_true, and_true]
      by_cases h : m = n ∧ k = l
      · simp [h.1, h.2]
      · have : ¬ 32 * m + k = 32 * n + l := by omega
        simp [h, this]

theorem Regs.vec_setUni (r : Regs) (n m k : Nat) (v : Word) : (r.setUni n v).vec m k = r.vec m k := rfl
theorem Regs.vec_setPred (r : Regs) (p l m k : Nat) (v : Bool) : (r.setPred p l v).vec m k = r.vec m k := by
  unfold Regs.setPred; split <;> rfl
theorem Regs.uni_setVec (r : Regs) (n l m : Nat) (v : Word) : (r.setVec n l v).uni m = r.uni m := by
  unfold Regs.setVec; split <;> rfl
theorem Regs.uni_setPred (r : Regs) (p l m : Nat) (v : Bool) : (r.setPred p l v).uni m = r.uni m := by
  unfold Regs.setPred; split <;> rfl
theorem Regs.uni_setUni (r : Regs) (n m : Nat) (v : Word) : (r.setUni n v).uni m = if m = n then v else r.uni m :=
  Cells.get_put 0 r.u n m v
theorem Regs.predMask_setVec (r : Regs) (n l p : Nat) (v : Word) : (r.setVec n l v).predMask p = r.predMask p := by
  unfold Regs.setVec; split <;> rfl
theorem Regs.predMask_setUni (r : Regs) (n p : Nat) (v : Word) : (r.setUni n v).predMask p = r.predMask p := rfl

theorem Regs.pred_setVec (r : Regs) (n l p k : Nat) (v : Word) : (r.setVec n l v).pred p k = r.pred p k := by
  unfold Regs.pred; rw [Regs.predMask_setVec]
theorem Regs.pred_setUni (r : Regs) (n p k : Nat) (v : Word) : (r.setUni n v).pred p k = r.pred p k := rfl

theorem getLsbD_maskSet (m : LaneMask) {l k : Nat} (hl : l < 32) (hk : k < 32) (v : Bool) :
    (maskSet m l v).getLsbD k = if k = l then v else m.getLsbD k := by
  unfold maskSet
  have e : (BitVec.ofNat 32 (2 ^ l)).getLsbD k = decide (k = l) := by
    rw [BitVec.getLsbD_ofNat, Nat.testBit_two_pow]
    by_cases h : k = l
    · subst h; simp [hk]
    · simp [hk, h, show ¬ l = k by omega]
  cases v
  · simp only [Bool.false_eq_true, if_false]
    rw [BitVec.getLsbD_and, BitVec.getLsbD_not, e]
    by_cases h : k = l <;> simp [h, hk]
  · simp only [if_true]
    rw [BitVec.getLsbD_or, e]
    by_cases h : k = l <;> simp [h]

theorem Regs.pred_setPred (r : Regs) {p l q k : Nat} (hl : l < 32) (hk : k < 32) (v : Bool) :
    (r.setPred p l v).pred q k = if q = p ∧ k = l ∧ p ≠ 7 then v else r.pred q k := by
  unfold Regs.setPred Regs.pred
  by_cases hp : p = 7
  · simp [hp]
  · by_cases hq : q = 7
    · simp [hp, Regs.predMask, hq, show ¬ 7 = p by omega]
    · simp only [beq_iff_eq, hp, if_false, ne_eq, not_false_eq_true, and_true]
      unfold Regs.predMask
      simp only [beq_iff_eq, hq, hp, if_false, Cells.get_put]
      by_cases h : q = p
      · subst h
        simp [getLsbD_maskSet _ hl hk]
      · simp [h]

theorem lane_all (j : Nat) (hj : j < 32) : (0xFFFFFFFF : LaneMask).getLsbD j = true := by
  have : ∀ j : Fin 32, (0xFFFFFFFF : LaneMask).getLsbD j.val = true := by decide
  exact this ⟨j, hj⟩

/-- One register written: it reads as written in its lane, everything else as before. -/
theorem Regs.read_write (r : Regs) (k k' : RegKind) {n l m j : Nat} (hl : l < 32) (hj : j < 32) (v : Word) :
    (r.write k n l v).read k' m j = r.read k' m j ∨ (k' = k ∧ m = n ∧ (k = .uni ∨ j = l)) := by
  cases k with
  | vec =>
    cases k' with
    | vec =>
      simp only [Regs.write, Regs.read]
      rw [Regs.vec_setVec r hl hj]
      split
      · rename_i h; exact .inr ⟨trivial, h.1, .inr h.2.1⟩
      · exact .inl rfl
    | uni => exact .inl (Regs.uni_setVec r n l m v)
    | pred => exact .inl (by simp only [Regs.write, Regs.read, Regs.pred_setVec])
  | uni =>
    cases k' with
    | vec => exact .inl rfl
    | uni =>
      simp only [Regs.write, Regs.read, Regs.uni_setUni]
      split
      · rename_i h; exact .inr ⟨trivial, h, .inl trivial⟩
      · exact .inl rfl
    | pred => exact .inl rfl
  | pred =>
    cases k' with
    | vec => exact .inl (Regs.vec_setPred r n l m j _)
    | uni => exact .inl (Regs.uni_setPred r n l m _)
    | pred =>
      have e : (r.write .pred n l v).pred m j = if m = n ∧ j = l ∧ n ≠ 7 then v != 0 else r.pred m j := Regs.pred_setPred r hl hj (v != 0)
      by_cases h : m = n ∧ j = l ∧ n ≠ 7
      · exact .inr ⟨rfl, h.1, .inr h.2.1⟩
      · rw [if_neg h] at e
        exact .inl (by show (if (r.write .pred n l v).pred m j then (1 : Word) else 0) = _; simp only [e]; rfl)

/-- Writing back what some register file holds reads as that file. -/
theorem Regs.read_write_back (r old : Regs) (k : RegKind) {n l j : Nat} (hl : l < 32) (hj : j < 32) (h : k = .uni ∨ j = l) :
    (r.write k n l (old.read k n l)).read k n j = old.read k n j := by
  cases k with
  | vec =>
    obtain rfl : j = l := by simpa using h
    simp only [Regs.write, Regs.read]
    rw [Regs.vec_setVec r hl hj]
    by_cases hn : n = 255
    · simp [hn, Regs.vec]
    · simp [hn]
  | uni => simp only [Regs.write, Regs.read, Regs.uni_setUni, if_true]
  | pred =>
    obtain rfl : j = l := by simpa using h
    have e : ∀ v, (r.write .pred n j v).pred n j = if n ≠ 7 then v != 0 else r.pred n j := by
      intro v
      refine (Regs.pred_setPred r hl hj (v != 0)).trans ?_
      simp
    show (if (r.write .pred n j (if old.pred n j then 1 else 0)).pred n j then (1 : Word) else 0) = if old.pred n j then 1 else 0
    have e' : (r.write .pred n j (if old.pred n j then 1 else 0)).pred n j = old.pred n j := by
      rw [e]
      by_cases hn : n = 7
      · have : ∀ r : Regs, r.pred 7 j = true := by
          intro r
          simp only [Regs.pred, Regs.predMask, beq_self_eq_true, if_true]
          exact lane_all j hj
        simp [hn, this]
      · cases old.pred n j <;> simp [hn]
    simp only [e']

/-! ### The writes of lanes -/

/-- What a lane writes lies within some registers. -/
def LaneOut.Within (o : LaneOut) (m : List (RegKind × Nat)) : Prop :=
  (∀ p ∈ o.vecs, p.1 = 255 ∨ (RegKind.vec, p.1) ∈ m) ∧ ∀ p ∈ o.preds, p.1 = 7 ∨ (RegKind.pred, p.1) ∈ m

/-- A register outside `m`, or one that is not uniform in a lane other than `l`. -/
def Spared (m : List (RegKind × Nat)) (hit : Nat → Bool) (k : RegKind) (n j : Nat) : Prop :=
  (k, n) ∉ m ∨ (k ≠ RegKind.uni ∧ hit j = false)

theorem lt_of_mem_laneList {m : LaneMask} {l : Nat} (h : l ∈ laneList m) : l < 32 ∧ m.getLsbD l = true := by
  have h' := List.mem_filter.1 h
  have : ∀ l ∈ lanes32, l < 32 := by decide
  exact ⟨this l h'.1, h'.2⟩

theorem mem_laneList {m : LaneMask} {l : Nat} (hl : l < 32) : l ∈ laneList m ↔ m.getLsbD l = true := by
  have : ∀ l : Fin 32, l.val ∈ lanes32 := by decide
  exact ⟨fun h => (lt_of_mem_laneList h).2, fun h => List.mem_filter.2 ⟨this ⟨l, hl⟩, h⟩⟩

theorem setVec_keeps (r : Regs) {l n j v : Nat} {w : Word} {k : RegKind} (hl : l < 32) (hj : j < 32) {m : List (RegKind × Nat)}
    (hm : v = 255 ∨ (RegKind.vec, v) ∈ m) (h : Spared m (fun j => decide (j = l)) k n j) : (r.setVec v l w).read k n j = r.read k n j := by
  rcases hm with rfl | hm
  · rfl
  · rcases Regs.read_write r .vec k (n := v) (m := n) hl hj w with e | ⟨rfl, rfl, e⟩
    · exact e
    · rcases h with h | h
      · exact absurd hm h
      · simp at e h; exact absurd e h

theorem setPred_write (r : Regs) (p l : Nat) (b : Bool) : r.setPred p l b = r.write .pred p l (if b then 1 else 0) := by
  cases b <;> rfl

theorem setPred_keeps (r : Regs) {l n j p : Nat} {b : Bool} {k : RegKind} (hl : l < 32) (hj : j < 32) {m : List (RegKind × Nat)}
    (hm : p = 7 ∨ (RegKind.pred, p) ∈ m) (h : Spared m (fun j => decide (j = l)) k n j) : (r.setPred p l b).read k n j = r.read k n j := by
  rcases hm with rfl | hm
  · rfl
  · rw [setPred_write]
    rcases Regs.read_write r .pred k (n := p) (m := n) hl hj (if b then 1 else 0) with e | ⟨rfl, rfl, e⟩
    · exact e
    · rcases h with h | h
      · exact absurd hm h
      · simp at e h; exact absurd e h

theorem applyLane_keeps (r : Regs) {l n j : Nat} {k : RegKind} (hl : l < 32) (hj : j < 32) {m : List (RegKind × Nat)} {o : LaneOut}
    (ho : o.Within m) (h : Spared m (fun j => decide (j = l)) k n j) : (r.applyLane l o).read k n j = r.read k n j := by
  have h1 : ∀ (vs : List (Nat × Word)) (r : Regs), (∀ p ∈ vs, p.1 = 255 ∨ (RegKind.vec, p.1) ∈ m) →
      (vs.foldl (fun r v => r.setVec v.1 l v.2) r).read k n j = r.read k n j := by
    intro vs
    induction vs with
    | nil => intros; rfl
    | cons a vs ih =>
      intro r hv
      rw [List.foldl_cons, ih _ (fun p hp => hv p (List.mem_cons_of_mem _ hp))]
      exact setVec_keeps r hl hj (hv a List.mem_cons_self) h
  have h2 : ∀ (ps : List (Nat × Bool)) (r : Regs), (∀ p ∈ ps, p.1 = 7 ∨ (RegKind.pred, p.1) ∈ m) →
      (ps.foldl (fun r p => r.setPred p.1 l p.2) r).read k n j = r.read k n j := by
    intro ps
    induction ps with
    | nil => intros; rfl
    | cons a ps ih =>
      intro r hv
      rw [List.foldl_cons, ih _ (fun p hp => hv p (List.mem_cons_of_mem _ hp))]
      exact setPred_keeps r hl hj (hv a List.mem_cons_self) h
  exact (h2 _ _ ho.2).trans (h1 _ _ ho.1)

theorem foldl_lanes_keeps (ls : List Nat) (f : Nat → LaneOut) (r : Regs) {n j : Nat} {k : RegKind} (hls : ∀ l ∈ ls, l < 32) (hj : j < 32)
    {m : List (RegKind × Nat)} (ho : ∀ l, (f l).Within m) (h : Spared m (fun j => ls.contains j) k n j) :
    (ls.foldl (fun r l => r.applyLane l (f l)) r).read k n j = r.read k n j := by
  induction ls generalizing r with
  | nil => rfl
  | cons a ls ih =>
    have h0 : Spared m (fun j => decide (j = a)) k n j ∧ Spared m (fun j => ls.contains j) k n j := by
      rcases h with h | ⟨h, h'⟩
      · exact ⟨.inl h, .inl h⟩
      · simp at h'
        exact ⟨.inr ⟨h, by simp [h'.1]⟩, .inr ⟨h, by simp [h'.2]⟩⟩
    rw [List.foldl_cons, ih _ (fun l hl => hls l (List.mem_cons_of_mem _ hl)) h0.2]
    exact applyLane_keeps r (hls a List.mem_cons_self) hj (ho a) h0.1

/-- The writes of some lanes leave every other register and lane. -/
theorem applyLanes_keeps (r : Regs) (lanes : LaneMask) (f : Nat → LaneOut) {n j : Nat} {k : RegKind} (hj : j < 32) {m : List (RegKind × Nat)}
    (ho : ∀ l, (f l).Within m) (h : Spared m (fun j => lanes.getLsbD j) k n j) : (r.applyLanes lanes f).read k n j = r.read k n j := by
  refine foldl_lanes_keeps _ f r (fun l hl => (lt_of_mem_laneList hl).1) hj ho ?_
  rcases h with h | ⟨h, h'⟩
  · exact .inl h
  · refine .inr ⟨h, ?_⟩
    have : ¬ j ∈ laneList lanes := by rw [mem_laneList hj]; simp [h']
    simp [this]

/-! ### Words of a result -/

theorem mem_wordsTo {d v n : Nat} {p : Nat × Word} (h : p ∈ wordsTo d v n) : d ≤ p.1 ∧ p.1 < d + n := by
  induction n generalizing d v with
  | zero => simp [wordsTo] at h
  | succ n ih =>
    simp only [wordsTo, List.mem_cons] at h
    rcases h with rfl | h
    · exact ⟨Nat.le_refl _, by omega⟩
    · have := ih h; omega

/-- The words of a number, written to a run of registers below vz, read back as the number. -/
theorem vecs_foldl_wordsTo (r : Regs) {d n l : Nat} (v : Nat) (hl : l < 32) (hd : d + n ≤ 255) :
    ((wordsTo d v n).foldl (fun r p => r.setVec p.1 l p.2) r).vecs d l n = v % 2 ^ (32 * n) := by
  have keep : ∀ (n d v : Nat) (r : Regs) (m : Nat), m < d → ((wordsTo d v n).foldl (fun r p => r.setVec p.1 l p.2) r).vec m l = r.vec m l := by
    intro n
    induction n with
    | zero => intros; rfl
    | succ n ih =>
      intro d v r m hm
      rw [wordsTo, List.foldl_cons, ih _ _ _ _ (by omega), Regs.vec_setVec r hl hl]
      simp [show ¬ m = d by omega]
  induction n generalizing d v r with
  | zero => simp [Regs.vecs, Nat.mod_one]
  | succ n ih =>
    rw [wordsTo, List.foldl_cons, Regs.vecs, ih _ _ (by omega), keep _ _ _ _ _ (by omega), Regs.vec_setVec r hl hl]
    simp only [ne_eq, show ¬ d = 255 by omega, not_false_eq_true, and_true, if_true, BitVec.toNat_ofNat]
    rw [show 32 * (n + 1) = 32 + 32 * n by omega, Nat.pow_add, Nat.mod_mul]

end Sys2Proof.Machine
end

