-- ==== Sys2Proof/Laws/Lanes.lean ====
section
/-!
SUPPORT. Instructions that act lane by lane, and per-warp results (12 R267, R271): the state they lead to and their frame.
-/
namespace Sys2Proof.Machine

/-! ### Early writes -/

/-- Every register and lane spared holds what a file holds. -/
def Agrees (m : List (RegKind × Nat)) (hit : Nat → Bool) (old r : Regs) : Prop :=
  ∀ k n j, j < 32 → Spared m hit k n j → r.read k n j = old.read k n j

theorem Agrees.write_back {m : List (RegKind × Nat)} {hit : Nat → Bool} {old r : Regs} (h : Agrees m hit old r) (k : RegKind) (n : Nat)
    {l : Nat} (hl : l < 32) : Agrees m hit old (r.write k n l (old.read k n l)) := by
  intro k' n' j hj hs
  rcases Regs.read_write r k k' (n := n) (m := n') hl hj (old.read k n l) with e | ⟨rfl, rfl, e⟩
  · rw [e]; exact h k' n' j hj hs
  · exact Regs.read_write_back r old k' hl hj e

theorem foldl_agrees {α : Type} {m : List (RegKind × Nat)} {hit : Nat → Bool} {old : Regs} (l : List α) (f : State × Regs → α → State × Regs)
    (hf : ∀ a x, x ∈ l → Agrees m hit old a.2 → Agrees m hit old (f a x).2) (a : State × Regs) (ha : Agrees m hit old a.2) :
    Agrees m hit old (l.foldl f a).2 := by
  induction l generalizing a with
  | nil => exact ha
  | cons x l ih =>
    exact ih (fun a y hy => hf a y (List.mem_cons_of_mem _ hy)) _ (hf a x List.mem_cons_self ha)

theorem earlyWrite_agrees {m : List (RegKind × Nat)} {hit : Nat → Bool} (s : State) (w : Warp) {qs : List Nat} (rs : List (RegKind × Nat))
    (hq : ∀ q ∈ qs, q < 8) {old new : Regs} (h : Agrees m hit old new) : Agrees m hit old (earlyWrite s w qs rs old new).2 := by
  unfold earlyWrite
  refine foldl_agrees _ _ (fun a x hx ha => ?_) (s, new) h
  have hx8 : x.1 < 8 := by
    unfold owedOn at hx
    obtain ⟨q, hq1, hq2⟩ := List.mem_flatMap.1 hx
    obtain ⟨d, -, rfl⟩ := List.mem_map.1 hq2
    exact hq q hq1
  refine foldl_agrees _ _ (fun a i hi ha => ?_) a ha
  dsimp only
  split
  · exact ha
  · have hi4 : i < 4 := by
      have : ∀ i ∈ [0, 1, 2, 3], i < 4 := by decide
      exact this i hi
    dsimp only
    split
    · exact ha.write_back _ _ (by omega)
    · exact ha

theorem lt_of_mem_quads8 {q : Nat} (h : q ∈ quads8) : q < 8 := by
  have : ∀ q ∈ quads8, q < 8 := by decide
  exact this q h

theorem Warp.members_lt (w : Warp) (gang : Nat) : ∀ q ∈ w.members gang, q < 8 := by
  intro q hq
  exact lt_of_mem_quads8 (List.mem_filter.1 (List.mem_filter.1 hq).1).1

theorem settleRegs_agrees {o : Op} {x : Fields} {s t t' : State} {c : Ctx} (h : Reaches o x s t c) {new : Regs} {m : List (RegKind × Nat)}
    {hit : Nat → Bool} (hn : Agrees m hit c.warp.regs new) : Agrees m hit c.warp.regs (settleRegs t' c new).2 :=
  earlyWrite_agrees _ _ _ (by rw [h.parts.2.2.2.1]; exact Warp.members_lt _ _) hn

/-! ### Lane by lane -/

/-- An instruction that acts lane by lane, with the poured values `p`, and reaches its effect goes on, with its frame, its results and its
flags. -/
theorem lane_next (p : List (Nat × List Res)) {effect : State → Ctx → Done} {o : Op} {f : Ctx → Nat → LaneOut} {x : Fields} {s t : State} {c : Ctx}
    (h : Reaches o x s t c) (he : effect t c = laneEffect f t { c with poured := p }) (ho : clearsRegion o = false)
    (hf : ∀ l, (f { c with poured := p } l).Within (mayWrite c)) :
    ∃ u w, issue effect o x s = .next u ∧ RegFrame s c u w
      ∧ (NoneOwed c → w.regs = c.warp.regs.applyLanes c.lanes (f { c with poured := p }))
      ∧ w.wstat = c.warp.wstat ||| BitVec.ofNat 32 (flagsOf c.real (f { c with poured := p }))
          ||| BitVec.ofNat 32 (Ctx.pourFlags { c with poured := p })
      ∧ (c.warp.paired = false → w.trail = c.warp.trail) := by
  generalize hc : ({ c with poured := p } : Ctx) = c' at he hf
  have e : ∃ g, laneEffect f t c' = .ok (finishWarp ((settleRegs t c' (c.warp.regs.applyLanes c.lanes (f c'))).1.onWarp c.warp.uid g) c' true)
      ∧ WritesRegs g ∧ (∀ w, (g w).regs = (settleRegs t c' (c.warp.regs.applyLanes c.lanes (f c'))).2)
      ∧ (∀ w, (g w).wstat = w.wstat ||| BitVec.ofNat 32 (flagsOf c.real (f c')))
      ∧ ∀ w : Warp, (g w).trail = w.trail := by
    subst hc
    exact ⟨_, rfl, fun _ => rfl, fun _ => rfl, fun _ => rfl, fun _ => rfl⟩
  obtain ⟨g, e, hg, hr, hw, hsh⟩ := e
  have hk : ∀ step, KeepsRegs c (g { c.warp with mstep := step }).regs := by
    intro step
    rw [hr]
    have : Agrees (mayWrite c) (fun j => c.lanes.getLsbD j) c.warp.regs (c.warp.regs.applyLanes c.lanes (f c')) :=
      fun k n j hj hs => applyLanes_keeps _ _ _ hj hf hs
    subst hc
    exact settleRegs_agrees h this
  obtain ⟨w, step, hfr, h1, h2, h3⟩ := regFrame_of p h (earlyWrite_fresh _ _ _ _ _ _) hg ho hk
  refine ⟨_, w, issue_ok h (he.trans e), ?_, fun hd => ?_, ?_, fun hs => ?_⟩
  · subst hc; exact hfr
  · rw [h1, hr, settleRegs, earlyWrite_none]
    subst hc; exact hd
  · rw [h2, hw, hc]
  · rw [h3 hs]; exact hsh _

/-- One whose meaning is `perLane`. -/
theorem perLane_next {o : Op} {f : Ctx → Nat → LaneOut} {x : Fields} {s t : State} {c : Ctx} (h : Reaches o x s t c)
    (ho : clearsRegion o = false) (hf : ∀ l, (f c l).Within (mayWrite c)) :
    ∃ u w, perLane o f x s = .next u ∧ RegFrame s c u w ∧ (NoneOwed c → w.regs = c.warp.regs.applyLanes c.lanes (f c))
      ∧ w.wstat = c.warp.wstat ||| BitVec.ofNat 32 (flagsOf c.real (f c)) ||| BitVec.ofNat 32 c.pourFlags
      ∧ (c.warp.paired = false → w.trail = c.warp.trail) :=
  lane_next c.poured (effect := laneEffect f) h rfl ho hf

/-- The result of a lane in the registers of the instruction. -/
theorem vecs_applyLanes (r : Regs) {lanes : LaneMask} {f : Nat → LaneOut} {l d v n : Nat} (hl : l < 32) (hm : lanes.getLsbD l = true)
    (hv : (f l).vecs = wordsTo d v n) (hp : (f l).preds = []) (hd : d + n ≤ 255) : (r.applyLanes lanes f).vecs d l n = v % 2 ^ (32 * n) := by
  have other : ∀ (ls : List Nat) (r : Regs) (m : Nat), (∀ k ∈ ls, k < 32) → l ∉ ls →
      (ls.foldl (fun r k => r.applyLane k (f k)) r).vec m l = r.vec m l := by
    intro ls
    induction ls with
    | nil => intros; rfl
    | cons a ls ih =>
      intro r m h1 h2
      rw [List.foldl_cons, ih _ _ (fun k hk => h1 k (List.mem_cons_of_mem _ hk)) (fun h => h2 (List.mem_cons_of_mem _ h))]
      have hne : ¬ l = a := fun e => h2 (e ▸ List.mem_cons_self)
      have ha := h1 a List.mem_cons_self
      have e1 : ∀ (ps : List (Nat × Bool)) (r : Regs), (ps.foldl (fun r p => r.setPred p.1 a p.2) r).vec m l = r.vec m l := by
        intro ps
        induction ps with
        | nil => intros; rfl
        | cons p ps ih => intro r; rw [List.foldl_cons, ih, Regs.vec_setPred]
      have e2 : ∀ (vs : List (Nat × Word)) (r : Regs), (vs.foldl (fun r p => r.setVec p.1 a p.2) r).vec m l = r.vec m l := by
        intro vs
        induction vs with
        | nil => intros; rfl
        | cons p vs ih => intro r; rw [List.foldl_cons, ih, Regs.vec_setVec r ha hl]; simp [hne]
      exact (e1 _ _).trans (e2 _ _)
  have congr : ∀ (n d : Nat) (r r' : Regs), (∀ m, r.vec m l = r'.vec m l) → r.vecs d l n = r'.vecs d l n := by
    intro n
    induction n with
    | zero => intros; rfl
    | succ n ih => intro d r r' h; rw [Regs.vecs, Regs.vecs, h, ih (d + 1) r r' h]
  have key : ∀ (ls : List Nat) (r : Regs), (∀ k ∈ ls, k < 32) → ls.Nodup → l ∈ ls →
      (ls.foldl (fun r k => r.applyLane k (f k)) r).vecs d l n = v % 2 ^ (32 * n) := by
    intro ls
    induction ls with
    | nil => intro r _ _ h; cases h
    | cons a ls ih =>
      intro r h1 h2 h3
      rw [List.nodup_cons] at h2
      rw [List.foldl_cons]
      by_cases e : l = a
      · subst e
        rw [congr _ _ _ _ (fun m => other ls _ m (fun k hk => h1 k (List.mem_cons_of_mem _ hk)) h2.1)]
        simp only [Regs.applyLane, hv, hp, List.foldl_nil]
        exact vecs_foldl_wordsTo r v hl hd
      · exact ih _ (fun k hk => h1 k (List.mem_cons_of_mem _ hk)) h2.2 ((List.mem_cons.1 h3).resolve_left e)
  exact key _ r (fun k hk => (lt_of_mem_laneList hk).1) (List.Pairwise.filter _ (by decide : lanes32.Nodup)) ((mem_laneList hl).2 hm)

/-! ### What a lane writes lies within what the instruction may write -/

theorem lowest_none {l : List Nat} (h : lowest l = none) : l = [] := by
  cases l with
  | nil => rfl
  | cons n ns => simp only [lowest] at h; split at h <;> cases h

/-- An instruction that reaches its effect breaks no field check. -/
theorem Reaches.noErrs {o : Op} {x : Fields} {s t : State} {c : Ctx} (h : Reaches o x s t c) :
    fieldErrs (c.warp.checkEnv x) o x = [] := by
  have hf := h.parts.2.2.2.2.2.2
  unfold formCheck at hf
  split at hf
  · cases hf
  · split at hf
    · cases hf
    · exact lowest_none (by simpa using hf)

/-- The D field names a register that the form accepts (12 R262). -/
theorem Reaches.dOk {o : Op} {x : Fields} {s t : State} {c : Ctx} (h : Reaches o x s t c) : dErrs (c.warp.checkEnv x) x (o.form x).d = [] := by
  have := h.noErrs
  simp only [fieldErrs, List.append_eq_nil_iff] at this
  exact this.1.1.1.1.1.1.1.1.1.1.1.2

/-- A result in the D registers. -/
theorem within_toD {o : Op} {x : Fields} {s t : State} {c : Ctx} (h : Reaches o x s t c) (v flags : Nat) :
    (c.toD v flags).Within (mayWrite c) := by
  have hd := h.dOk
  obtain ⟨-, hx, hform, -⟩ := h.parts
  refine ⟨fun p hp => ?_, fun p hp => by simp [Ctx.toD] at hp⟩
  have hm := mem_wordsTo hp
  rw [← hform, ← hx] at hd
  rcases hf : c.form.d with _ | ⟨n, even, vz⟩ | _ | _ | _ | _ | _
  all_goals simp only [hf, DForm.vecs] at hm
  case vec =>
    simp only [hf, dErrs, vecOk] at hd
    by_cases e : c.x.d.toNat = 255
    · simp only [e, beq_self_eq_true, if_true] at hd
      have : n = 1 := by
        by_cases h1 : n = 1
        · exact h1
        · simp [h1] at hd
      left; omega
    · right
      simp only [mayWrite, writeRegs, hf, destRegs, regRun, List.mem_append]
      left; left
      have e' : (RegKind.vec == RegKind.vec && c.x.d.toNat == 255) = false := by simp [e]
      simp only [e', if_false, List.mem_map, List.mem_range, Prod.mk.injEq, true_and, Bool.false_eq_true]
      refine ⟨p.1 - c.x.d.toNat, by omega, by omega⟩
  all_goals omega

/-- A predicate result. -/
theorem within_toP (c : Ctx) (v : Bool) (flags : Nat) : (c.toP v flags).Within (mayWrite c) := by
  refine ⟨fun p hp => by simp [Ctx.toP] at hp, fun p hp => ?_⟩
  rcases hf : c.form.d with _ | ⟨n, even, vz⟩ | _ | _ | _ | _ | _
  all_goals simp only [Ctx.toP, hf] at hp
  case pred =>
    simp only [List.mem_singleton] at hp
    subst hp
    by_cases e : c.x.d.toNat % 8 = 7
    · exact .inl e
    · right
      simp [mayWrite, writeRegs, hf, destRegs, predReg, e]
  all_goals cases hp

end Sys2Proof.Machine
end

