-- ==== Sys2Proof/Laws/Runs.lean ====
section
/-!
SUPPORT. Lane by lane instructions: what each lane's registers and predicates hold afterwards, and how a claim about every run of such an
instruction follows from its result in a lane.
-/
namespace Sys2Proof.Machine

/-! ### What one lane's writes leave for another -/

theorem vec_applyLane_other (r : Regs) {a l : Nat} (ha : a < 32) (hl : l < 32) (hne : l ≠ a) (o : LaneOut) (m : Nat) :
    (r.applyLane a o).vec m l = r.vec m l := by
  have e1 : ∀ (ps : List (Nat × Bool)) (r : Regs), (ps.foldl (fun r p => r.setPred p.1 a p.2) r).vec m l = r.vec m l := by
    intro ps
    induction ps with
    | nil => intros; rfl
    | cons p ps ih => intro r; rw [List.foldl_cons, ih, Regs.vec_setPred]
  have e2 : ∀ (vs : List (Nat × Word)) (r : Regs), (vs.foldl (fun r p => r.setVec p.1 a p.2) r).vec m l = r.vec m l := by
    intro vs
    induction vs with
    | nil => intros; rfl
    | cons p vs ih => intro r; rw [List.foldl_cons, ih, Regs.vec_setVec r ha hl]; simp [hne]
  exact (e1 _ _).trans (e2 _ _)

theorem pred_applyLane_other (r : Regs) {a l : Nat} (ha : a < 32) (hl : l < 32) (hne : l ≠ a) (o : LaneOut) (m : Nat) :
    (r.applyLane a o).pred m l = r.pred m l := by
  have e1 : ∀ (ps : List (Nat × Bool)) (r : Regs), (ps.foldl (fun r p => r.setPred p.1 a p.2) r).pred m l = r.pred m l := by
    intro ps
    induction ps with
    | nil => intros; rfl
    | cons p ps ih => intro r; rw [List.foldl_cons, ih, Regs.pred_setPred r ha hl]; simp [hne]
  have e2 : ∀ (vs : List (Nat × Word)) (r : Regs), (vs.foldl (fun r p => r.setVec p.1 a p.2) r).pred m l = r.pred m l := by
    intro vs
    induction vs with
    | nil => intros; rfl
    | cons p vs ih => intro r; rw [List.foldl_cons, ih, Regs.pred_setVec]
  exact (e1 _ _).trans (e2 _ _)

theorem vec_applyLane_congr (r r' : Regs) {a l : Nat} (ha : a < 32) (hl : l < 32) (o : LaneOut) (h : ∀ m, r.vec m l = r'.vec m l) (m : Nat) :
    (r.applyLane a o).vec m l = (r'.applyLane a o).vec m l := by
  have e1 : ∀ (ps : List (Nat × Bool)) (r : Regs), (ps.foldl (fun r p => r.setPred p.1 a p.2) r).vec m l = r.vec m l := by
    intro ps
    induction ps with
    | nil => intros; rfl
    | cons p ps ih => intro r; rw [List.foldl_cons, ih, Regs.vec_setPred]
  have e2 : ∀ (vs : List (Nat × Word)) (r r' : Regs), (∀ m, r.vec m l = r'.vec m l) →
      ∀ m, (vs.foldl (fun r p => r.setVec p.1 a p.2) r).vec m l = (vs.foldl (fun r p => r.setVec p.1 a p.2) r').vec m l := by
    intro vs
    induction vs with
    | nil => intro r r' h; exact h
    | cons p vs ih =>
      intro r r' h
      exact ih _ _ (fun m => by rw [Regs.vec_setVec r ha hl, Regs.vec_setVec r' ha hl, h])
  exact (e1 _ _).trans ((e2 _ _ _ h m).trans (e1 _ _).symm)

theorem pred_applyLane_congr (r r' : Regs) {a l : Nat} (ha : a < 32) (hl : l < 32) (o : LaneOut) (h : ∀ m, r.pred m l = r'.pred m l) (m : Nat) :
    (r.applyLane a o).pred m l = (r'.applyLane a o).pred m l := by
  have e2 : ∀ (vs : List (Nat × Word)) (r : Regs) (m : Nat), (vs.foldl (fun r p => r.setVec p.1 a p.2) r).pred m l = r.pred m l := by
    intro vs
    induction vs with
    | nil => intros; rfl
    | cons p vs ih => intro r m; rw [List.foldl_cons, ih, Regs.pred_setVec]
  have e1 : ∀ (ps : List (Nat × Bool)) (r r' : Regs), (∀ m, r.pred m l = r'.pred m l) →
      ∀ m, (ps.foldl (fun r p => r.setPred p.1 a p.2) r).pred m l = (ps.foldl (fun r p => r.setPred p.1 a p.2) r').pred m l := by
    intro ps
    induction ps with
    | nil => intro r r' h; exact h
    | cons p ps ih =>
      intro r r' h
      exact ih _ _ (fun m => by rw [Regs.pred_setPred r ha hl, Regs.pred_setPred r' ha hl, h])
  exact e1 _ _ _ (fun m => by rw [e2, e2, h]) m

theorem lanes32_nodup : lanes32.Nodup := by decide

theorem foldl_lane {α : Type} (get : Regs → Nat → α) (f : Nat → LaneOut) {l : Nat}
    (other : ∀ (r : Regs) (a : Nat), a < 32 → l ≠ a → ∀ m, get (r.applyLane a (f a)) m = get r m)
    (congr : ∀ (r r' : Regs), (∀ m, get r m = get r' m) → ∀ m, get (r.applyLane l (f l)) m = get (r'.applyLane l (f l)) m)
    (r0 : Regs) : ∀ (ls : List Nat) (r : Regs), (∀ k ∈ ls, k < 32) → ls.Nodup → l ∈ ls → (∀ m, get r m = get r0 m) →
      ∀ m, get (ls.foldl (fun r k => r.applyLane k (f k)) r) m = get (r0.applyLane l (f l)) m := by
  have skip : ∀ (ls : List Nat) (r : Regs), (∀ k ∈ ls, k < 32) → l ∉ ls → ∀ m, get (ls.foldl (fun r k => r.applyLane k (f k)) r) m = get r m := by
    intro ls
    induction ls with
    | nil => intros; rfl
    | cons a ls ih =>
      intro r h1 h2 m
      rw [List.foldl_cons, ih _ (fun k hk => h1 k (List.mem_cons_of_mem _ hk)) (fun h => h2 (List.mem_cons_of_mem _ h))]
      exact other r a (h1 a List.mem_cons_self) (fun e => h2 (e ▸ List.mem_cons_self)) m
  intro ls
  induction ls with
  | nil => intro r _ _ h; cases h
  | cons a ls ih =>
    intro r h1 h2 h3 h4 m
    rw [List.nodup_cons] at h2
    rw [List.foldl_cons]
    by_cases e : l = a
    · subst e
      rw [skip ls _ (fun k hk => h1 k (List.mem_cons_of_mem _ hk)) h2.1]
      exact congr _ _ h4 m
    · refine ih _ (fun k hk => h1 k (List.mem_cons_of_mem _ hk)) h2.2 ((List.mem_cons.1 h3).resolve_left e) (fun m => ?_) m
      rw [other r a (h1 a List.mem_cons_self) e, h4]

/-- After the writes of some lanes, a lane among them holds what its own writes left. -/
theorem vec_applyLanes (r : Regs) {lanes : LaneMask} {f : Nat → LaneOut} {l : Nat} (hl : l < 32) (hm : lanes.getLsbD l = true) (m : Nat) :
    (r.applyLanes lanes f).vec m l = (r.applyLane l (f l)).vec m l :=
  foldl_lane (fun r m => r.vec m l) f (fun r _ ha hne m => vec_applyLane_other r ha hl hne _ m)
    (fun r r' h m => vec_applyLane_congr r r' hl hl _ h m) r _ r (fun _ hk => (lt_of_mem_laneList hk).1)
    (List.Pairwise.filter _ lanes32_nodup) ((mem_laneList hl).2 hm) (fun _ => rfl) m

theorem pred_applyLanes (r : Regs) {lanes : LaneMask} {f : Nat → LaneOut} {l : Nat} (hl : l < 32) (hm : lanes.getLsbD l = true) (m : Nat) :
    (r.applyLanes lanes f).pred m l = (r.applyLane l (f l)).pred m l :=
  foldl_lane (fun r m => r.pred m l) f (fun r _ ha hne m => pred_applyLane_other r ha hl hne _ m)
    (fun r r' h m => pred_applyLane_congr r r' hl hl _ h m) r _ r (fun _ hk => (lt_of_mem_laneList hk).1)
    (List.Pairwise.filter _ lanes32_nodup) ((mem_laneList hl).2 hm) (fun _ => rfl) m

theorem vecs_congr {r r' : Regs} {l : Nat} (h : ∀ m, r.vec m l = r'.vec m l) : ∀ (n d : Nat), r.vecs d l n = r'.vecs d l n := by
  intro n
  induction n with
  | zero => intros; rfl
  | succ n ih => intro d; rw [Regs.vecs, Regs.vecs, h, ih]

/-! ### Results -/

/-- The D registers of a lane that `toD` wrote. -/
theorem holds_toD {c : Ctx} {w : Warp} {f : Nat → LaneOut} {l v : Nat} (hw : w.regs = c.warp.regs.applyLanes c.lanes f) (hl : l < 32)
    (hm : c.lanes.getLsbD l = true) (hf : (f l).vecs = wordsTo c.x.d.toNat v c.form.d.vecs) :
    HoldsD c w l (v % 2 ^ (32 * c.form.d.vecs)) := by
  intro hd
  have e : ∀ (ps : List (Nat × Bool)) (r : Regs) (m : Nat), (ps.foldl (fun r p => r.setPred p.1 l p.2) r).vec m l = r.vec m l := by
    intro ps
    induction ps with
    | nil => intros; rfl
    | cons p ps ih => intro r m; rw [List.foldl_cons, ih, Regs.vec_setPred]
  have e2 : ∀ m, w.regs.vec m l = (((f l).vecs).foldl (fun r v => r.setVec v.1 l v.2) c.warp.regs).vec m l := fun m => by
    rw [hw, vec_applyLanes _ hl hm]; exact e _ _ _
  rw [vecs_congr e2, hf]
  exact vecs_foldl_wordsTo _ v hl hd

/-- The predicate of a lane that a write of one predicate left. -/
theorem holds_pred {c : Ctx} {w : Warp} {f : Nat → LaneOut} {l p : Nat} {v : Bool} (hw : w.regs = c.warp.regs.applyLanes c.lanes f) (hl : l < 32)
    (hm : c.lanes.getLsbD l = true) (hf : (f l).preds = [(p, v)]) (hp : p ≠ 7) : w.regs.pred p l = v := by
  rw [hw, pred_applyLanes _ hl hm]
  simp only [Regs.applyLane, hf, List.foldl_cons, List.foldl_nil]
  rw [Regs.pred_setPred _ hl hl]
  simp [hp]

/-- The elements of a result built from elements. -/
theorem elems_of {c : Ctx} {w : Warp} {l : Nat} {f : Nat → Res} {g : Nat → Nat} (hd : c.form.d.vecs = tyRegs c.ty)
    (h : HoldsD c w l ((mapElems c.ty f).1 % 2 ^ (32 * c.form.d.vecs))) (hg : ∀ i, i < tyCount c.ty → (f i).1 % 2 ^ tyWidth c.ty = g i) :
    HoldsElems c w l g := by
  intro hr i hi
  rw [h hr, hd, Nat.mod_eq_of_lt (mapElems_lt _ _), elemOf_mapElems _ _ hi, hg i hi]


theorem HoldsD.congr {c : Ctx} {w : Warp} {l v v' : Nat} (h : HoldsD c w l v) (e : v = v') : HoldsD c w l v' := e ▸ h

/-- The D form of the context is that of its operation. -/
theorem Reaches.dForm {o : Op} {x : Fields} {s t : State} {c : Ctx} (h : Reaches o x s t c) : c.form = o.form c.x := by
  rw [h.parts.2.2.1, h.parts.2.1]

/-- T is one of the types that the form names (check 5, 13 R280). -/
theorem Reaches.ts {o : Op} {x : Fields} {s t : State} {c : Ctx} (h : Reaches o x s t c) (hn : ∀ x, (o.form x).ts.isEmpty = false) :
    c.ty ∈ (o.form c.x).ts := by
  have := h.noErrs
  simp only [fieldErrs, List.append_eq_nil_iff] at this
  have h0 := this.1.1.1.1.1.1.1.1.1.1.1.1.1
  rw [hn] at h0
  rw [Ctx.ty, h.parts.2.1]
  by_cases hc : x.t.toNat ∈ (o.form x).ts
  · exact hc
  · simp [hc] at h0

/-! ### Runs -/

/-- A claim about every run of a lane by lane instruction from its result and its flags in a lane. -/
theorem runs_of {mk : Fields → Instr} {o : Op} {f : Ctx → Nat → LaneOut} {res : Ctx → Warp → Nat → Prop} {flags : Ctx → Nat → Nat}
    (hx : ∀ x s, exec (mk x) s = perLane o f x s) (ho : clearsRegion o = false)
    (hw : ∀ x s t c, Reaches o x s t c → ∀ l, (f c l).Within (mayWrite c))
    (hfl : ∀ x s t c, Reaches o x s t c → ∀ l, l < 32 → (f c l).flags = flags c l)
    (hres : ∀ x s t c w, Reaches o x s t c → w.regs = c.warp.regs.applyLanes c.lanes (f c) → ∀ l, l < 32 → c.lanes.getLsbD l = true → res c w l) :
    Runs mk o res flags := by
  intro x s t c h
  obtain ⟨u, w, h1, h2, h3, h4, h5⟩ := perLane_next (f := f) h ho (hw x s t c h)
  refine ⟨u, w, by rw [hx]; exact h1, h2, h5, fun hn => hres x s t c w h (h3 hn), ?_⟩
  rw [h4]
  have key : ∀ (ls : List Nat) (g : Nat), (∀ l ∈ ls, l < 32) →
      ls.foldl (fun g l => g ||| (f c l).flags) g = ls.foldl (fun g l => g ||| flags c l) g := by
    intro ls
    induction ls with
    | nil => intros; rfl
    | cons a ls ih =>
      intro g hl
      rw [List.foldl_cons, List.foldl_cons, hfl x s t c h a (hl a List.mem_cons_self)]
      exact ih _ (fun l hl' => hl l (List.mem_cons_of_mem _ hl'))
  rw [flagsOf, orLanes, key _ _ (fun l hl => (lt_of_mem_laneList hl).1)]

/-- One whose result goes to the D registers. -/
theorem runs_toD {mk : Fields → Instr} {o : Op} {val : Ctx → Nat → Nat} {fl : Ctx → Nat → Nat} {res : Ctx → Warp → Nat → Prop}
    (hx : ∀ x s, exec (mk x) s = perLane o (fun c l => c.toD (val c l) (fl c l)) x s) (ho : clearsRegion o = false)
    {flags : Ctx → Nat → Nat} (hfl : ∀ x s t c, Reaches o x s t c → ∀ l, l < 32 → fl c l = flags c l)
    (hres : ∀ x s t c w, Reaches o x s t c → ∀ l, l < 32 → HoldsD c w l (val c l % 2 ^ (32 * c.form.d.vecs)) → res c w l) :
    Runs mk o res flags :=
  runs_of hx ho (fun _ _ _ _ h _ => within_toD h _ _) (fun x s t c h l hl => hfl x s t c h l hl)
    (fun x s t c w h hw l hl hm => hres x s t c w h l hl (holds_toD hw hl hm rfl))

/-- One whose result goes to a predicate. -/
theorem runs_toP {mk : Fields → Instr} {o : Op} {val : Ctx → Nat → Bool} {fl : Ctx → Nat → Nat} {res : Ctx → Warp → Nat → Prop}
    (hx : ∀ x s, exec (mk x) s = perLane o (fun c l => c.toP (val c l) (fl c l)) x s) (ho : clearsRegion o = false)
    (hd : ∀ x, (o.form x).d = .pred)
    {flags : Ctx → Nat → Nat} (hfl : ∀ x s t c, Reaches o x s t c → ∀ l, l < 32 → fl c l = flags c l)
    (hres : ∀ x s t c w, Reaches o x s t c → ∀ l, l < 32 → HoldsP c w l (val c l) → res c w l) :
    Runs mk o res flags :=
  runs_of hx ho (fun _ _ _ _ _ _ => within_toP _ _ _) (fun x s t c h l hl => hfl x s t c h l hl)
    (fun x s t c w h hw l hl hm => hres x s t c w h l hl (fun hp => holds_pred hw hl hm (by
      simp only [Ctx.toP, show c.form.d = .pred by rw [h.parts.2.2.1]; exact hd x]) hp))

end Sys2Proof.Machine
end

