-- ==== Sys2Proof/Tests/Slice0.lean ====
section
/-!
SUPPORT. Tests of the model: ill-formed terms, words of the spec's encodings, a state and operands that meet the hypotheses of every
statement, and single steps with the results that the spec states.
-/
namespace Sys2Proof.Tests
open Sys2Proof Sys2Proof.Machine
set_option Elab.async false

/-! ### Helpers -/

/-- Fields that are all zero, with the guard p7. -/
def plain : Fields := ⟨0, 0, 0, ⟨false, 7⟩, 0, 0, 0, ⟨false, 0, 0⟩, ⟨false, 0, 0⟩, ⟨false, 0, 0⟩, 0, 0⟩

/-- A vector register and a uniform register as operands. -/
def v (n : BitVec 8) : Operand := ⟨false, 0, n⟩
def u (n : BitVec 8) : Operand := ⟨true, 0, n⟩

/-- A binding record of bank 0 with its formats, of the predicates p7 and otherwise of zeros. -/
def record0 : BindRec := ⟨0, 0, 1, 1, 0, 0x3F, 0, 0, 0, 0, 0, 0, 0, 0, 0, 0⟩

/-- The machine with a placed program, whose warp, of uid 2, is changed, and its one gang chosen. -/
def on (f : Warp → Warp) : State :=
  let s := State.reset.withFetchWord 32 0
  { s.onWarp 2 f with cur := some { core := 0, slot := 0, gang := gangId 2 0 } }

/-- The warp with all its mold slots bound. -/
def bound (w : Warp) : Warp := { w with slots := List.replicate 7 (some ⟨record0, [], [], 0, false⟩) }

/-- What an instruction that reaches its effect in a state acts on there. -/
def readied (s : State) (o : Op) (x : Fields) : Option (State × Ctx) :=
  match s.cur with
  | none => none
  | some cur =>
    match s.gangWarps cur.core cur.gang with
    | [w] =>
      if cur.slot < hiddenSlot ∧ s.warpOf w.uid = some w then
        match prepare s (baseCtx o x cur.core cur.gang w (anyReal x cur.gang [w])) with | .ready t c 0 => some (t, c) | _ => none
      else none
    | _ => none

theorem reaches_of {s t : State} {o : Op} {x : Fields} {c : Ctx} (h : readied s o x = some (t, c)) : Reaches o x s t c := by
  unfold readied at h
  split at h
  · cases h
  next cur hc =>
    split at h
    next w hw =>
      split at h
      next hu =>
        split at h
        next t' c' hp => cases h; exact ⟨cur, w, hc, hu.1, hw, hu.2, hp⟩
        · cases h
      · cases h
    · cases h

/-- Some state and context that an instruction reaches its effect in. -/
theorem reaches_some {s : State} {o : Op} {x : Fields} (h : (readied s o x).isSome = true) : ∃ t c, Reaches o x s t c := by
  obtain ⟨⟨t, c⟩, ht⟩ := Option.isSome_iff_exists.mp h
  exact ⟨t, c, reaches_of ht⟩

/-! ### Ill-formed terms, one for each check (12 Table 12-3 rows 4 and 5; 13 Table 13-4) -/

/-- Terms that a check refuses, each with the check and the field that the refusal names. -/
def illFormed : List (Op × Fields × Nat × Nat) := [
  (.bra, { plain with len := 1 }, 4, 1),
  (.bra, { plain with len := 3, f := 3 }, 4, 2),
  (.setp, { plain with len := 1, f := 2, d := 1, a := v 4, b := v 5, t := 0 }, 5, 3),
  (.fadd, { plain with len := 1, t := 3, rm := 7 }, 5, 4),
  (.add, { plain with len := 1, t := 16, d := 3 }, 5, 5),
  (.add, { plain with len := 1, t := 16, a := v 1 }, 5, 6),
  (.add, { plain with len := 1, t := 1, b := u 255 }, 5, 7),
  (.mad, { plain with len := 2, t := 1, c := u 64 }, 5, 8),
  (.add, { plain with len := 1, t := 1, b := ⟨true, 3, 7⟩ }, 5, 9),
  (.macc, { plain with len := 1, t := 3 }, 5, 9),
  (.join, { plain with guard := ⟨false, 2⟩ }, 5, 10),
  (.add, { plain with len := 1, t := 1, guard := ⟨true, 7⟩ }, 5, 10),
  (.fadd, { plain with len := 1, t := 3, rm := 5 }, 5, 11),
  (.ldb, { plain with len := 2, e := 3 }, 5, 12),
  (.csrr, { plain with len := 2, e := 0x002 }, 5, 13),
  (.nop, { plain with f := 0, d := 1 }, 5, 14),
  (.add, { plain with len := 1, t := 1, rm := 1 }, 5, 14)]

/-- Every term of the list is refused, by the check and for the field that the list names. -/
theorem test_wellformed_refuses :
    illFormed.all (fun e => !e.1.wf e.2.1 && formCheck staticEnv e.1 e.2.1 == some (.field e.2.2.1 e.2.2.2)) = true := by decide +kernel

/-- A field in a word that LEN leaves out: the words of such a term would drop it. -/
theorem test_wellformed_unfit :
    Op.wf .nop { plain with i := 1 } = false ∧ Op.wf .nop { plain with a := v 1 } = false ∧ Op.wf .add { plain with len := 1, t := 1, e := 1 } = false
      ∧ Op.wf .add { plain with len := 1, t := 1 } = true := by decide +kernel

/-! ### Decoding -/

/-- Words of the control instructions, put together from Table 12-1 and the opcodes of Table 13-1. -/
def wordsControl : List (Word × List Word × Op × Fields) := [
  (0x0002A400, [], .nop,
    ⟨0, 0, 0, ⟨true, 2⟩, 9, 0, 0, ⟨false, 0, 0⟩, ⟨false, 0, 0⟩, ⟨false, 0, 0⟩, 0x0, 0x0⟩),
  (0x0002A407, [0x00000000, 0x00000000, 0x12345678], .bra,
    ⟨3, 0, 0, ⟨true, 2⟩, 9, 0, 0, ⟨false, 0, 0⟩, ⟨false, 0, 0⟩, ⟨false, 0, 0⟩, 0x0, 0x12345678⟩),
  (0x0402A407, [0x00000000, 0x00000000, 0x12345678], .braFair,
    ⟨3, 1, 0, ⟨true, 2⟩, 9, 0, 0, ⟨false, 0, 0⟩, ⟨false, 0, 0⟩, ⟨false, 0, 0⟩, 0x0, 0x12345678⟩),
  (0x0802A407, [0x00000000, 0x00000000, 0x12345678], .braPack,
    ⟨3, 2, 0, ⟨true, 2⟩, 9, 0, 0, ⟨false, 0, 0⟩, ⟨false, 0, 0⟩, ⟨false, 0, 0⟩, 0x0, 0x12345678⟩),
  (0x0002A409, [0x0000005E], .brx,
    ⟨1, 0, 0, ⟨true, 2⟩, 9, 0, 0, ⟨false, 0, 94⟩, ⟨false, 0, 0⟩, ⟨false, 0, 0⟩, 0x0, 0x0⟩),
  (0x0092A40F, [0x00000000, 0x00000000, 0x12345678], .call,
    ⟨3, 0, 36, ⟨true, 2⟩, 9, 0, 0, ⟨false, 0, 0⟩, ⟨false, 0, 0⟩, ⟨false, 0, 0⟩, 0x0, 0x12345678⟩),
  (0x0092A410, [], .ret,
    ⟨0, 0, 36, ⟨true, 2⟩, 9, 0, 0, ⟨false, 0, 0⟩, ⟨false, 0, 0⟩, ⟨false, 0, 0⟩, 0x0, 0x0⟩),
  (0x0002A414, [], .exit,
    ⟨0, 0, 0, ⟨true, 2⟩, 9, 0, 0, ⟨false, 0, 0⟩, ⟨false, 0, 0⟩, ⟨false, 0, 0⟩, 0x0, 0x0⟩),
  (0x0001E418, [], .join,
    ⟨0, 0, 0, ⟨false, 7⟩, 9, 0, 0, ⟨false, 0, 0⟩, ⟨false, 0, 0⟩, ⟨false, 0, 0⟩, 0x0, 0x0⟩),
  (0x0001E41C, [], .rgang,
    ⟨0, 0, 0, ⟨false, 7⟩, 9, 0, 0, ⟨false, 0, 0⟩, ⟨false, 0, 0⟩, ⟨false, 0, 0⟩, 0x0, 0x0⟩),
  (0x0401E41C, [], .rgangHome,
    ⟨0, 1, 0, ⟨false, 7⟩, 9, 0, 0, ⟨false, 0, 0⟩, ⟨false, 0, 0⟩, ⟨false, 0, 0⟩, 0x0, 0x0⟩),
  (0x0002A420, [], .yield,
    ⟨0, 0, 0, ⟨true, 2⟩, 9, 0, 0, ⟨false, 0, 0⟩, ⟨false, 0, 0⟩, ⟨false, 0, 0⟩, 0x0, 0x0⟩),
  (0x005EA424, [], .trap,
    ⟨0, 0, 23, ⟨true, 2⟩, 9, 0, 0, ⟨false, 0, 0⟩, ⟨false, 0, 0⟩, ⟨false, 0, 0⟩, 0x0, 0x0⟩),
  (0x005EA428, [], .bkpt,
    ⟨0, 0, 23, ⟨true, 2⟩, 9, 0, 0, ⟨false, 0, 0⟩, ⟨false, 0, 0⟩, ⟨false, 0, 0⟩, 0x0, 0x0⟩),
  (0x0002A42D, [0x8000B000], .sleep,
    ⟨1, 0, 0, ⟨true, 2⟩, 9, 0, 0, ⟨false, 0, 0⟩, ⟨true, 0, 22⟩, ⟨false, 0, 0⟩, 0x0, 0x0⟩),
  (0x0001E430, [], .region,
    ⟨0, 0, 0, ⟨false, 7⟩, 9, 0, 0, ⟨false, 0, 0⟩, ⟨false, 0, 0⟩, ⟨false, 0, 0⟩, 0x0, 0x0⟩),
  (0x0001E434, [], .tret,
    ⟨0, 0, 0, ⟨false, 7⟩, 9, 0, 0, ⟨false, 0, 0⟩, ⟨false, 0, 0⟩, ⟨false, 0, 0⟩, 0x0, 0x0⟩),
  (0x005EA43B, [0x00000000, 0x00000000, 0x12345678], .loop,
    ⟨3, 0, 23, ⟨true, 2⟩, 9, 0, 0, ⟨false, 0, 0⟩, ⟨false, 0, 0⟩, ⟨false, 0, 0⟩, 0x0, 0x12345678⟩)]

/-- Words of the lanes instructions, put together from Table 12-1 and the opcodes of Table 13-1. -/
def wordsLanes : List (Word × List Word × Op × Fields) := [
  (0x000EA441, [0x00000005], .vote,
    ⟨1, 0, 3, ⟨true, 2⟩, 9, 0, 0, ⟨false, 0, 5⟩, ⟨false, 0, 0⟩, ⟨false, 0, 0⟩, 0x0, 0x0⟩),
  (0x005EA445, [0x00000005], .ballot,
    ⟨1, 0, 23, ⟨true, 2⟩, 9, 0, 0, ⟨false, 0, 5⟩, ⟨false, 0, 0⟩, ⟨false, 0, 0⟩, 0x0, 0x0⟩),
  (0x005EA449, [0x0003D505], .qswz,
    ⟨1, 0, 23, ⟨true, 2⟩, 9, 0, 0, ⟨false, 5, 5⟩, ⟨false, 0, 122⟩, ⟨false, 0, 0⟩, 0x0, 0x0⟩),
  (0x005EA44D, [0x0003D505], .qbcast,
    ⟨1, 0, 23, ⟨true, 2⟩, 9, 0, 0, ⟨false, 5, 5⟩, ⟨false, 0, 122⟩, ⟨false, 0, 0⟩, 0x0, 0x0⟩),
  (0x000EA451, [0x00000005], .qvote,
    ⟨1, 0, 3, ⟨true, 2⟩, 9, 0, 0, ⟨false, 0, 5⟩, ⟨false, 0, 0⟩, ⟨false, 0, 0⟩, 0x0, 0x0⟩),
  (0x000EA455, [0x00001005], .pset,
    ⟨1, 0, 3, ⟨true, 2⟩, 9, 0, 0, ⟨false, 0, 5⟩, ⟨false, 0, 2⟩, ⟨false, 0, 0⟩, 0x0, 0x0⟩),
  (0x005EA459, [0x00000000], .pmovGet,
    ⟨1, 0, 23, ⟨true, 2⟩, 9, 0, 0, ⟨false, 0, 0⟩, ⟨false, 0, 0⟩, ⟨false, 0, 0⟩, 0x0, 0x0⟩),
  (0x0402A459, [0x0003D005], .pmovPut,
    ⟨1, 1, 0, ⟨true, 2⟩, 9, 0, 0, ⟨false, 0, 5⟩, ⟨false, 0, 122⟩, ⟨false, 0, 0⟩, 0x0, 0x0⟩),
  (0x005EA45E, [0x001BD505, 0x00005000], .sel,
    ⟨2, 0, 23, ⟨true, 2⟩, 9, 0, 0, ⟨false, 5, 5⟩, ⟨false, 3, 122⟩, ⟨false, 0, 0⟩, 0x5, 0x0⟩),
  (0x005EA461, [0x00000000], .lanes,
    ⟨1, 0, 23, ⟨true, 2⟩, 9, 0, 0, ⟨false, 0, 0⟩, ⟨false, 0, 0⟩, ⟨false, 0, 0⟩, 0x0, 0x0⟩),
  (0x000EA465, [0x00000000], .elect,
    ⟨1, 0, 3, ⟨true, 2⟩, 9, 0, 0, ⟨false, 0, 0⟩, ⟨false, 0, 0⟩, ⟨false, 0, 0⟩, 0x0, 0x0⟩)]

/-- Words of the integer instructions, put together from Table 12-1 and the opcodes of Table 13-1. -/
def wordsInteger : List (Word × List Word × Op × Fields) := [
  (0x005EA481, [0x009BD505], .add,
    ⟨1, 0, 23, ⟨true, 2⟩, 9, 0, 2, ⟨false, 5, 5⟩, ⟨false, 3, 122⟩, ⟨false, 0, 0⟩, 0x0, 0x0⟩),
  (0x005EA485, [0x009BD505], .sub,
    ⟨1, 0, 23, ⟨true, 2⟩, 9, 0, 2, ⟨false, 5, 5⟩, ⟨false, 3, 122⟩, ⟨false, 0, 0⟩, 0x0, 0x0⟩),
  (0x005EA48A, [0x009BD505, 0x000006BA], .add3,
    ⟨2, 0, 23, ⟨true, 2⟩, 9, 0, 2, ⟨false, 5, 5⟩, ⟨false, 3, 122⟩, ⟨false, 6, 186⟩, 0x0, 0x0⟩),
  (0x005EA48D, [0x009BD505], .mul,
    ⟨1, 0, 23, ⟨true, 2⟩, 9, 0, 2, ⟨false, 5, 5⟩, ⟨false, 3, 122⟩, ⟨false, 0, 0⟩, 0x0, 0x0⟩),
  (0x005EA491, [0x009BD505], .mulhi,
    ⟨1, 0, 23, ⟨true, 2⟩, 9, 0, 2, ⟨false, 5, 5⟩, ⟨false, 3, 122⟩, ⟨false, 0, 0⟩, 0x0, 0x0⟩),
  (0x005EA496, [0x009BD505, 0x000006BA], .mad,
    ⟨2, 0, 23, ⟨true, 2⟩, 9, 0, 2, ⟨false, 5, 5⟩, ⟨false, 3, 122⟩, ⟨false, 6, 186⟩, 0x0, 0x0⟩),
  (0x0092A49A, [0x009BD505, 0x000000BA], .madw,
    ⟨2, 0, 36, ⟨true, 2⟩, 9, 0, 2, ⟨false, 5, 5⟩, ⟨false, 3, 122⟩, ⟨false, 0, 186⟩, 0x0, 0x0⟩),
  (0x005EA49D, [0x009BD505], .div,
    ⟨1, 0, 23, ⟨true, 2⟩, 9, 0, 2, ⟨false, 5, 5⟩, ⟨false, 3, 122⟩, ⟨false, 0, 0⟩, 0x0, 0x0⟩),
  (0x005EA4A1, [0x009BD505], .rem,
    ⟨1, 0, 23, ⟨true, 2⟩, 9, 0, 2, ⟨false, 5, 5⟩, ⟨false, 3, 122⟩, ⟨false, 0, 0⟩, 0x0, 0x0⟩),
  (0x005EA4A5, [0x009BD505], .min,
    ⟨1, 0, 23, ⟨true, 2⟩, 9, 0, 2, ⟨false, 5, 5⟩, ⟨false, 3, 122⟩, ⟨false, 0, 0⟩, 0x0, 0x0⟩),
  (0x005EA4A9, [0x009BD505], .max,
    ⟨1, 0, 23, ⟨true, 2⟩, 9, 0, 2, ⟨false, 5, 5⟩, ⟨false, 3, 122⟩, ⟨false, 0, 0⟩, 0x0, 0x0⟩),
  (0x005EA4AD, [0x00400505], .abs,
    ⟨1, 0, 23, ⟨true, 2⟩, 9, 0, 1, ⟨false, 5, 5⟩, ⟨false, 0, 0⟩, ⟨false, 0, 0⟩, 0x0, 0x0⟩),
  (0x005EA4B1, [0x00400505], .neg,
    ⟨1, 0, 23, ⟨true, 2⟩, 9, 0, 1, ⟨false, 5, 5⟩, ⟨false, 0, 0⟩, ⟨false, 0, 0⟩, 0x0, 0x0⟩),
  (0x005EA4B6, [0x009BD505, 0x000006BA], .sad,
    ⟨2, 0, 23, ⟨true, 2⟩, 9, 0, 2, ⟨false, 5, 5⟩, ⟨false, 3, 122⟩, ⟨false, 6, 186⟩, 0x0, 0x0⟩),
  (0x005EA4BA, [0x009BD505, 0x00015000], .addc,
    ⟨2, 0, 23, ⟨true, 2⟩, 9, 0, 2, ⟨false, 5, 5⟩, ⟨false, 3, 122⟩, ⟨false, 0, 0⟩, 0x15, 0x0⟩),
  (0x005EA4BE, [0x009BD505, 0x00015000], .subb,
    ⟨2, 0, 23, ⟨true, 2⟩, 9, 0, 2, ⟨false, 5, 5⟩, ⟨false, 3, 122⟩, ⟨false, 0, 0⟩, 0x15, 0x0⟩),
  (0x005EA4C1, [0x001BD505], .and,
    ⟨1, 0, 23, ⟨true, 2⟩, 9, 0, 0, ⟨false, 5, 5⟩, ⟨false, 3, 122⟩, ⟨false, 0, 0⟩, 0x0, 0x0⟩),
  (0x005EA4C5, [0x001BD505], .or,
    ⟨1, 0, 23, ⟨true, 2⟩, 9, 0, 0, ⟨false, 5, 5⟩, ⟨false, 3, 122⟩, ⟨false, 0, 0⟩, 0x0, 0x0⟩),
  (0x005EA4C9, [0x001BD505], .xor,
    ⟨1, 0, 23, ⟨true, 2⟩, 9, 0, 0, ⟨false, 5, 5⟩, ⟨false, 3, 122⟩, ⟨false, 0, 0⟩, 0x0, 0x0⟩),
  (0x005EA4CD, [0x001BD505], .andn,
    ⟨1, 0, 23, ⟨true, 2⟩, 9, 0, 0, ⟨false, 5, 5⟩, ⟨false, 3, 122⟩, ⟨false, 0, 0⟩, 0x0, 0x0⟩),
  (0x005EA4D1, [0x00000505], .not,
    ⟨1, 0, 23, ⟨true, 2⟩, 9, 0, 0, ⟨false, 5, 5⟩, ⟨false, 0, 0⟩, ⟨false, 0, 0⟩, 0x0, 0x0⟩),
  (0x005EA4D5, [0x0003D505], .shl,
    ⟨1, 0, 23, ⟨true, 2⟩, 9, 0, 0, ⟨false, 5, 5⟩, ⟨false, 0, 122⟩, ⟨false, 0, 0⟩, 0x0, 0x0⟩),
  (0x005EA4D9, [0x0003D505], .shr,
    ⟨1, 0, 23, ⟨true, 2⟩, 9, 0, 0, ⟨false, 5, 5⟩, ⟨false, 0, 122⟩, ⟨false, 0, 0⟩, 0x0, 0x0⟩),
  (0x005EA4DD, [0x0043D505], .sra,
    ⟨1, 0, 23, ⟨true, 2⟩, 9, 0, 1, ⟨false, 5, 5⟩, ⟨false, 0, 122⟩, ⟨false, 0, 0⟩, 0x0, 0x0⟩),
  (0x005EA4E1, [0x0003D505], .rot,
    ⟨1, 0, 23, ⟨true, 2⟩, 9, 0, 0, ⟨false, 5, 5⟩, ⟨false, 0, 122⟩, ⟨false, 0, 0⟩, 0x0, 0x0⟩),
  (0x005EA4E6, [0x001BD505, 0x000000BA], .fsh,
    ⟨2, 0, 23, ⟨true, 2⟩, 9, 0, 0, ⟨false, 5, 5⟩, ⟨false, 3, 122⟩, ⟨false, 0, 186⟩, 0x0, 0x0⟩),
  (0x005EA4EA, [0x00800505, 0x000000BA], .bfe,
    ⟨2, 0, 23, ⟨true, 2⟩, 9, 0, 2, ⟨false, 5, 5⟩, ⟨false, 0, 0⟩, ⟨false, 0, 186⟩, 0x0, 0x0⟩),
  (0x005EA4EE, [0x001BD505, 0x000000BA], .bfi,
    ⟨2, 0, 23, ⟨true, 2⟩, 9, 0, 0, ⟨false, 5, 5⟩, ⟨false, 3, 122⟩, ⟨false, 0, 186⟩, 0x0, 0x0⟩),
  (0x005EA4F1, [0x00000505], .popc,
    ⟨1, 0, 23, ⟨true, 2⟩, 9, 0, 0, ⟨false, 5, 5⟩, ⟨false, 0, 0⟩, ⟨false, 0, 0⟩, 0x0, 0x0⟩),
  (0x005EA4F5, [0x00000505], .clz,
    ⟨1, 0, 23, ⟨true, 2⟩, 9, 0, 0, ⟨false, 5, 5⟩, ⟨false, 0, 0⟩, ⟨false, 0, 0⟩, 0x0, 0x0⟩),
  (0x005EA4F9, [0x00000505], .ctz,
    ⟨1, 0, 23, ⟨true, 2⟩, 9, 0, 0, ⟨false, 5, 5⟩, ⟨false, 0, 0⟩, ⟨false, 0, 0⟩, 0x0, 0x0⟩),
  (0x005EA4FD, [0x00000505], .brev,
    ⟨1, 0, 23, ⟨true, 2⟩, 9, 0, 0, ⟨false, 5, 5⟩, ⟨false, 0, 0⟩, ⟨false, 0, 0⟩, 0x0, 0x0⟩),
  (0x005EA501, [0x0003D505], .bperm,
    ⟨1, 0, 23, ⟨true, 2⟩, 9, 0, 0, ⟨false, 5, 5⟩, ⟨false, 0, 122⟩, ⟨false, 0, 0⟩, 0x0, 0x0⟩),
  (0x000EA505, [0x009BD505], .setp,
    ⟨1, 0, 3, ⟨true, 2⟩, 9, 0, 2, ⟨false, 5, 5⟩, ⟨false, 3, 122⟩, ⟨false, 0, 0⟩, 0x0, 0x0⟩),
  (0x005EA50A, [0x0083D005, 0x00005000], .lea,
    ⟨2, 0, 23, ⟨true, 2⟩, 9, 0, 2, ⟨false, 0, 5⟩, ⟨false, 0, 122⟩, ⟨false, 0, 0⟩, 0x5, 0x0⟩),
  (0x005EA50D, [0x00000505], .mov,
    ⟨1, 0, 23, ⟨true, 2⟩, 9, 0, 0, ⟨false, 5, 5⟩, ⟨false, 0, 0⟩, ⟨false, 0, 0⟩, 0x0, 0x0⟩),
  (0x005EA513, [0x00000000, 0x00000000, 0x12345678], .movi,
    ⟨3, 0, 23, ⟨true, 2⟩, 9, 0, 0, ⟨false, 0, 0⟩, ⟨false, 0, 0⟩, ⟨false, 0, 0⟩, 0x0, 0x12345678⟩),
  (0x005EA515, [0x00000505], .movu,
    ⟨1, 0, 23, ⟨true, 2⟩, 9, 0, 0, ⟨false, 5, 5⟩, ⟨false, 0, 0⟩, ⟨false, 0, 0⟩, 0x0, 0x0⟩),
  (0x005EA51B, [0x00800505, 0x00001000, 0x00000000], .icvt,
    ⟨3, 0, 23, ⟨true, 2⟩, 9, 0, 2, ⟨false, 5, 5⟩, ⟨false, 0, 0⟩, ⟨false, 0, 0⟩, 0x1, 0x0⟩),
  (0x005EA51D, [0x0083D505], .sat,
    ⟨1, 0, 23, ⟨true, 2⟩, 9, 0, 2, ⟨false, 5, 5⟩, ⟨false, 0, 122⟩, ⟨false, 0, 0⟩, 0x0, 0x0⟩),
  (0x005EA522, [0x00000000, 0x00011000], .csrr,
    ⟨2, 0, 23, ⟨true, 2⟩, 9, 0, 0, ⟨false, 0, 0⟩, ⟨false, 0, 0⟩, ⟨false, 0, 0⟩, 0x11, 0x0⟩),
  (0x0002A526, [0x00000005, 0x00011000], .csrw,
    ⟨2, 0, 0, ⟨true, 2⟩, 9, 0, 0, ⟨false, 0, 5⟩, ⟨false, 0, 0⟩, ⟨false, 0, 0⟩, 0x11, 0x0⟩),
  (0x0092A528, [], .clk,
    ⟨0, 0, 36, ⟨true, 2⟩, 9, 0, 0, ⟨false, 0, 0⟩, ⟨false, 0, 0⟩, ⟨false, 0, 0⟩, 0x0, 0x0⟩),
  (0x0092A52C, [], .hb,
    ⟨0, 0, 36, ⟨true, 2⟩, 9, 0, 0, ⟨false, 0, 0⟩, ⟨false, 0, 0⟩, ⟨false, 0, 0⟩, 0x0, 0x0⟩)]

/-- Words of the float instructions, put together from Table 12-1 and the opcodes of Table 13-1. -/
def wordsFloat : List (Word × List Word × Op × Fields) := [
  (0x005EA541, [0x10DBD505], .fadd,
    ⟨1, 0, 23, ⟨true, 2⟩, 9, 2, 3, ⟨false, 5, 5⟩, ⟨false, 3, 122⟩, ⟨false, 0, 0⟩, 0x0, 0x0⟩),
  (0x005EA545, [0x10DBD505], .fsub,
    ⟨1, 0, 23, ⟨true, 2⟩, 9, 2, 3, ⟨false, 5, 5⟩, ⟨false, 3, 122⟩, ⟨false, 0, 0⟩, 0x0, 0x0⟩),
  (0x005EA549, [0x10DBD505], .fmul,
    ⟨1, 0, 23, ⟨true, 2⟩, 9, 2, 3, ⟨false, 5, 5⟩, ⟨false, 3, 122⟩, ⟨false, 0, 0⟩, 0x0, 0x0⟩),
  (0x005EA54E, [0x10DBD505, 0x000156BA], .fma,
    ⟨2, 0, 23, ⟨true, 2⟩, 9, 2, 3, ⟨false, 5, 5⟩, ⟨false, 3, 122⟩, ⟨false, 6, 186⟩, 0x15, 0x0⟩),
  (0x005EA551, [0x00DBD505], .fmin,
    ⟨1, 0, 23, ⟨true, 2⟩, 9, 0, 3, ⟨false, 5, 5⟩, ⟨false, 3, 122⟩, ⟨false, 0, 0⟩, 0x0, 0x0⟩),
  (0x005EA555, [0x00DBD505], .fmax,
    ⟨1, 0, 23, ⟨true, 2⟩, 9, 0, 3, ⟨false, 5, 5⟩, ⟨false, 3, 122⟩, ⟨false, 0, 0⟩, 0x0, 0x0⟩),
  (0x005EA559, [0x00DBD505], .fmnum,
    ⟨1, 0, 23, ⟨true, 2⟩, 9, 0, 3, ⟨false, 5, 5⟩, ⟨false, 3, 122⟩, ⟨false, 0, 0⟩, 0x0, 0x0⟩),
  (0x000EA55D, [0x00DBD505], .fsetp,
    ⟨1, 0, 3, ⟨true, 2⟩, 9, 0, 3, ⟨false, 5, 5⟩, ⟨false, 3, 122⟩, ⟨false, 0, 0⟩, 0x0, 0x0⟩),
  (0x005EA561, [0x00C00505], .frcp,
    ⟨1, 0, 23, ⟨true, 2⟩, 9, 0, 3, ⟨false, 5, 5⟩, ⟨false, 0, 0⟩, ⟨false, 0, 0⟩, 0x0, 0x0⟩),
  (0x005EA565, [0x00C00505], .frsq,
    ⟨1, 0, 23, ⟨true, 2⟩, 9, 0, 3, ⟨false, 5, 5⟩, ⟨false, 0, 0⟩, ⟨false, 0, 0⟩, 0x0, 0x0⟩),
  (0x005EA569, [0x10C00505], .fsqrt,
    ⟨1, 0, 23, ⟨true, 2⟩, 9, 2, 3, ⟨false, 5, 5⟩, ⟨false, 0, 0⟩, ⟨false, 0, 0⟩, 0x0, 0x0⟩),
  (0x005EA56D, [0x10DBD505], .fdiv,
    ⟨1, 0, 23, ⟨true, 2⟩, 9, 2, 3, ⟨false, 5, 5⟩, ⟨false, 3, 122⟩, ⟨false, 0, 0⟩, 0x0, 0x0⟩),
  (0x005EA571, [0x00C00505], .fex2,
    ⟨1, 0, 23, ⟨true, 2⟩, 9, 0, 3, ⟨false, 5, 5⟩, ⟨false, 0, 0⟩, ⟨false, 0, 0⟩, 0x0, 0x0⟩),
  (0x005EA575, [0x00C00505], .flg2,
    ⟨1, 0, 23, ⟨true, 2⟩, 9, 0, 3, ⟨false, 5, 5⟩, ⟨false, 0, 0⟩, ⟨false, 0, 0⟩, 0x0, 0x0⟩),
  (0x005EA579, [0x00C00505], .fsin,
    ⟨1, 0, 23, ⟨true, 2⟩, 9, 0, 3, ⟨false, 5, 5⟩, ⟨false, 0, 0⟩, ⟨false, 0, 0⟩, 0x0, 0x0⟩),
  (0x005EA57D, [0x00C00505], .fcos,
    ⟨1, 0, 23, ⟨true, 2⟩, 9, 0, 3, ⟨false, 5, 5⟩, ⟨false, 0, 0⟩, ⟨false, 0, 0⟩, 0x0, 0x0⟩),
  (0x005EA582, [0x10C00505, 0x00005600], .fcvt,
    ⟨2, 0, 23, ⟨true, 2⟩, 9, 2, 3, ⟨false, 5, 5⟩, ⟨false, 0, 0⟩, ⟨false, 6, 0⟩, 0x5, 0x0⟩),
  (0x005EA585, [0x10C00505], .fround,
    ⟨1, 0, 23, ⟨true, 2⟩, 9, 2, 3, ⟨false, 5, 5⟩, ⟨false, 0, 0⟩, ⟨false, 0, 0⟩, 0x0, 0x0⟩),
  (0x005EA589, [0x10DBD505], .fscale,
    ⟨1, 0, 23, ⟨true, 2⟩, 9, 2, 3, ⟨false, 5, 5⟩, ⟨false, 3, 122⟩, ⟨false, 0, 0⟩, 0x0, 0x0⟩),
  (0x000EA58E, [0x00C00505, 0x00215600], .fclass,
    ⟨2, 0, 3, ⟨true, 2⟩, 9, 0, 3, ⟨false, 5, 5⟩, ⟨false, 0, 0⟩, ⟨false, 6, 0⟩, 0x215, 0x0⟩),
  (0x005EA592, [0x00DBD505, 0x000006BA], .fsel,
    ⟨2, 0, 23, ⟨true, 2⟩, 9, 0, 3, ⟨false, 5, 5⟩, ⟨false, 3, 122⟩, ⟨false, 6, 186⟩, 0x0, 0x0⟩),
  (0x005EA596, [0x12C3D505, 0x002150BA], .quant,
    ⟨2, 0, 23, ⟨true, 2⟩, 9, 2, 11, ⟨false, 5, 5⟩, ⟨false, 0, 122⟩, ⟨false, 0, 186⟩, 0x215, 0x0⟩),
  (0x005EA59A, [0x02C3D005, 0x002000BA], .dequant,
    ⟨2, 0, 23, ⟨true, 2⟩, 9, 0, 11, ⟨false, 0, 5⟩, ⟨false, 0, 122⟩, ⟨false, 0, 186⟩, 0x200, 0x0⟩),
  (0x005EA59D, [0x01000005], .pack,
    ⟨1, 0, 23, ⟨true, 2⟩, 9, 0, 4, ⟨false, 0, 5⟩, ⟨false, 0, 0⟩, ⟨false, 0, 0⟩, 0x0, 0x0⟩),
  (0x005EA5A1, [0x01000005], .unpack,
    ⟨1, 0, 23, ⟨true, 2⟩, 9, 0, 4, ⟨false, 0, 5⟩, ⟨false, 0, 0⟩, ⟨false, 0, 0⟩, 0x0, 0x0⟩),
  (0x005EA5A5, [0x0003D005], .rng,
    ⟨1, 0, 23, ⟨true, 2⟩, 9, 0, 0, ⟨false, 0, 5⟩, ⟨false, 0, 122⟩, ⟨false, 0, 0⟩, 0x0, 0x0⟩)]

/-- Words of the mold instructions, put together from Table 12-1 and the opcodes of Table 13-1. -/
def wordsMold : List (Word × List Word × Op × Fields) := [
  (0x0092A5C1, [0x8000B000], .malloc,
    ⟨1, 0, 36, ⟨true, 2⟩, 9, 0, 0, ⟨false, 0, 0⟩, ⟨true, 0, 22⟩, ⟨false, 0, 0⟩, 0x0, 0x0⟩),
  (0x0002A5C5, [0x4000000E], .mfree,
    ⟨1, 0, 0, ⟨true, 2⟩, 9, 0, 0, ⟨true, 0, 14⟩, ⟨false, 0, 0⟩, ⟨false, 0, 0⟩, 0x0, 0x0⟩),
  (0x000EA5C9, [0x4007F805], .mbind,
    ⟨1, 0, 3, ⟨true, 2⟩, 9, 0, 0, ⟨true, 0, 5⟩, ⟨false, 0, 255⟩, ⟨false, 0, 0⟩, 0x0, 0x0⟩),
  (0x000EA5CD, [0x00000000], .munbind,
    ⟨1, 0, 3, ⟨true, 2⟩, 9, 0, 0, ⟨false, 0, 0⟩, ⟨false, 0, 0⟩, ⟨false, 0, 0⟩, 0x0, 0x0⟩),
  (0x0002A5D2, [0xC000B005, 0x01200824], .mload,
    ⟨2, 0, 0, ⟨true, 2⟩, 9, 0, 0, ⟨true, 0, 5⟩, ⟨true, 0, 22⟩, ⟨true, 0, 36⟩, 0x1200, 0x0⟩),
  (0x0002A5D6, [0xC000B005, 0x01200824], .mstore,
    ⟨2, 0, 0, ⟨true, 2⟩, 9, 0, 0, ⟨true, 0, 5⟩, ⟨true, 0, 22⟩, ⟨true, 0, 36⟩, 0x1200, 0x0⟩),
  (0x0002A5DA, [0x00000005, 0x01295000], .mfill,
    ⟨2, 0, 0, ⟨true, 2⟩, 9, 0, 0, ⟨false, 0, 5⟩, ⟨false, 0, 0⟩, ⟨false, 0, 0⟩, 0x1295, 0x0⟩),
  (0x000EA5DD, [0x4007F805], .mbmap,
    ⟨1, 0, 3, ⟨true, 2⟩, 9, 0, 0, ⟨true, 0, 5⟩, ⟨false, 0, 255⟩, ⟨false, 0, 0⟩, 0x0, 0x0⟩),
  (0x005EA5E1, [0x00800505], .macc,
    ⟨1, 0, 23, ⟨true, 2⟩, 9, 0, 2, ⟨false, 5, 5⟩, ⟨false, 0, 0⟩, ⟨false, 0, 0⟩, 0x0, 0x0⟩),
  (0x005EA5E6, [0x00000000, 0x00000000], .mquery,
    ⟨2, 0, 23, ⟨true, 2⟩, 9, 0, 0, ⟨false, 0, 0⟩, ⟨false, 0, 0⟩, ⟨false, 0, 0⟩, 0x0, 0x0⟩),
  (0x0002A5EA, [0x4007F805, 0x00001000], .msave,
    ⟨2, 0, 0, ⟨true, 2⟩, 9, 0, 0, ⟨true, 0, 5⟩, ⟨false, 0, 255⟩, ⟨false, 0, 0⟩, 0x1, 0x0⟩),
  (0x0002A5EE, [0x4007F805, 0x00001000], .mrest,
    ⟨2, 0, 0, ⟨true, 2⟩, 9, 0, 0, ⟨true, 0, 5⟩, ⟨false, 0, 255⟩, ⟨false, 0, 0⟩, 0x1, 0x0⟩),
  (0x005EA5F2, [0x00000000, 0x00005000], .mstep,
    ⟨2, 0, 23, ⟨true, 2⟩, 9, 0, 0, ⟨false, 0, 0⟩, ⟨false, 0, 0⟩, ⟨false, 0, 0⟩, 0x5, 0x0⟩)]

/-- Words of the memory instructions, put together from Table 12-1 and the opcodes of Table 13-1. -/
def wordsMemory : List (Word × List Word × Op × Fields) := [
  (0x005EA602, [0x0083D005, 0x00211000], .ldb,
    ⟨2, 0, 23, ⟨true, 2⟩, 9, 0, 2, ⟨false, 0, 5⟩, ⟨false, 0, 122⟩, ⟨false, 0, 0⟩, 0x211, 0x0⟩),
  (0x0002A606, [0x0083D005, 0x002016BA], .stb,
    ⟨2, 0, 0, ⟨true, 2⟩, 9, 0, 2, ⟨false, 0, 5⟩, ⟨false, 0, 122⟩, ⟨false, 6, 186⟩, 0x201, 0x0⟩),
  (0x005EA60A, [0x0083D005, 0x00201000], .ldd,
    ⟨2, 0, 23, ⟨true, 2⟩, 9, 0, 2, ⟨false, 0, 5⟩, ⟨false, 0, 122⟩, ⟨false, 0, 0⟩, 0x201, 0x0⟩),
  (0x0002A60E, [0x0083D005, 0x002016BA], .std,
    ⟨2, 0, 0, ⟨true, 2⟩, 9, 0, 2, ⟨false, 0, 5⟩, ⟨false, 0, 122⟩, ⟨false, 6, 186⟩, 0x201, 0x0⟩),
  (0x005EA612, [0x0083D005, 0x00011000], .ldk,
    ⟨2, 0, 23, ⟨true, 2⟩, 9, 0, 2, ⟨false, 0, 5⟩, ⟨false, 0, 122⟩, ⟨false, 0, 0⟩, 0x11, 0x0⟩),
  (0x0002A616, [0x0083D005, 0x000016BA], .stk,
    ⟨2, 0, 0, ⟨true, 2⟩, 9, 0, 2, ⟨false, 0, 5⟩, ⟨false, 0, 122⟩, ⟨false, 6, 186⟩, 0x1, 0x0⟩),
  (0x005EA61A, [0x009BD005, 0x00005000], .atom,
    ⟨2, 0, 23, ⟨true, 2⟩, 9, 0, 2, ⟨false, 0, 5⟩, ⟨false, 3, 122⟩, ⟨false, 0, 0⟩, 0x5, 0x0⟩),
  (0x0002A61E, [0x009BD005, 0x00001000], .red,
    ⟨2, 0, 0, ⟨true, 2⟩, 9, 0, 2, ⟨false, 0, 5⟩, ⟨false, 3, 122⟩, ⟨false, 0, 0⟩, 0x1, 0x0⟩),
  (0x0002A620, [], .fenceBlk,
    ⟨0, 0, 0, ⟨true, 2⟩, 9, 0, 0, ⟨false, 0, 0⟩, ⟨false, 0, 0⟩, ⟨false, 0, 0⟩, 0x0, 0x0⟩),
  (0x0402A620, [], .fenceClu,
    ⟨0, 1, 0, ⟨true, 2⟩, 9, 0, 0, ⟨false, 0, 0⟩, ⟨false, 0, 0⟩, ⟨false, 0, 0⟩, 0x0, 0x0⟩),
  (0x0802A620, [], .fenceDev,
    ⟨0, 2, 0, ⟨true, 2⟩, 9, 0, 0, ⟨false, 0, 0⟩, ⟨false, 0, 0⟩, ⟨false, 0, 0⟩, 0x0, 0x0⟩),
  (0x0C02A620, [], .fenceSys,
    ⟨0, 3, 0, ⟨true, 2⟩, 9, 0, 0, ⟨false, 0, 0⟩, ⟨false, 0, 0⟩, ⟨false, 0, 0⟩, 0x0, 0x0⟩),
  (0x1002A620, [], .fenceTick,
    ⟨0, 4, 0, ⟨true, 2⟩, 9, 0, 0, ⟨false, 0, 0⟩, ⟨false, 0, 0⟩, ⟨false, 0, 0⟩, 0x0, 0x0⟩),
  (0x0002A625, [0x8000B005], .barInit,
    ⟨1, 0, 0, ⟨true, 2⟩, 9, 0, 0, ⟨false, 0, 5⟩, ⟨true, 0, 22⟩, ⟨false, 0, 0⟩, 0x0, 0x0⟩),
  (0x045EA625, [0x00000005], .barArrive,
    ⟨1, 1, 23, ⟨true, 2⟩, 9, 0, 0, ⟨false, 0, 5⟩, ⟨false, 0, 0⟩, ⟨false, 0, 0⟩, 0x0, 0x0⟩),
  (0x0802A625, [0x8000B005], .barWait,
    ⟨1, 2, 0, ⟨true, 2⟩, 9, 0, 0, ⟨false, 0, 5⟩, ⟨true, 0, 22⟩, ⟨false, 0, 0⟩, 0x0, 0x0⟩),
  (0x0C02A625, [0x00000005], .barSync,
    ⟨1, 3, 0, ⟨true, 2⟩, 9, 0, 0, ⟨false, 0, 5⟩, ⟨false, 0, 0⟩, ⟨false, 0, 0⟩, 0x0, 0x0⟩),
  (0x1002A625, [0x00000005], .barSyncSpec,
    ⟨1, 4, 0, ⟨true, 2⟩, 9, 0, 0, ⟨false, 0, 5⟩, ⟨false, 0, 0⟩, ⟨false, 0, 0⟩, 0x0, 0x0⟩),
  (0x1402A625, [0x8000B005], .barDebt,
    ⟨1, 5, 0, ⟨true, 2⟩, 9, 0, 0, ⟨false, 0, 5⟩, ⟨true, 0, 22⟩, ⟨false, 0, 0⟩, 0x0, 0x0⟩),
  (0x005EA62A, [0x00000005, 0x00001000], .mon,
    ⟨2, 0, 23, ⟨true, 2⟩, 9, 0, 0, ⟨false, 0, 5⟩, ⟨false, 0, 0⟩, ⟨false, 0, 0⟩, 0x1, 0x0⟩),
  (0x005EA62E, [0x0003D005, 0x01215000], .wait,
    ⟨2, 0, 23, ⟨true, 2⟩, 9, 0, 0, ⟨false, 0, 5⟩, ⟨false, 0, 122⟩, ⟨false, 0, 0⟩, 0x1215, 0x0⟩),
  (0x0002A632, [0x04C3D05E, 0x012150BA], .tflag,
    ⟨2, 0, 0, ⟨true, 2⟩, 9, 0, 19, ⟨false, 0, 94⟩, ⟨false, 0, 122⟩, ⟨false, 0, 186⟩, 0x1215, 0x0⟩),
  (0x0002A634, [], .rfence,
    ⟨0, 0, 0, ⟨true, 2⟩, 9, 0, 0, ⟨false, 0, 0⟩, ⟨false, 0, 0⟩, ⟨false, 0, 0⟩, 0x0, 0x0⟩)]

/-- Words of the engine instructions, put together from Table 12-1 and the opcodes of Table 13-1. -/
def wordsEngine : List (Word × List Word × Op × Fields) := [
  (0x0002A682, [0xC000B00E, 0x00005824], .cp,
    ⟨2, 0, 0, ⟨true, 2⟩, 9, 0, 0, ⟨true, 0, 14⟩, ⟨true, 0, 22⟩, ⟨true, 0, 36⟩, 0x5, 0x0⟩),
  (0x0002A686, [0xC000B00E, 0x00005824], .cpg,
    ⟨2, 0, 0, ⟨true, 2⟩, 9, 0, 0, ⟨true, 0, 14⟩, ⟨true, 0, 22⟩, ⟨true, 0, 36⟩, 0x5, 0x0⟩),
  (0x0002A68A, [0xC000B00E, 0x00005824], .cps,
    ⟨2, 0, 0, ⟨true, 2⟩, 9, 0, 0, ⟨true, 0, 14⟩, ⟨true, 0, 22⟩, ⟨true, 0, 36⟩, 0x5, 0x0⟩),
  (0x0002A68E, [0xC000B00E, 0x00005824], .cpt,
    ⟨2, 0, 0, ⟨true, 2⟩, 9, 0, 0, ⟨true, 0, 14⟩, ⟨true, 0, 22⟩, ⟨true, 0, 36⟩, 0x5, 0x0⟩),
  (0x0002A692, [0xC000B00E, 0x00005824], .cpc,
    ⟨2, 0, 0, ⟨true, 2⟩, 9, 0, 0, ⟨true, 0, 14⟩, ⟨true, 0, 22⟩, ⟨true, 0, 36⟩, 0x5, 0x0⟩),
  (0x0002A696, [0xC000B00E, 0x00005824], .cpv,
    ⟨2, 0, 0, ⟨true, 2⟩, 9, 0, 0, ⟨true, 0, 14⟩, ⟨true, 0, 22⟩, ⟨true, 0, 36⟩, 0x5, 0x0⟩),
  (0x0002A699, [0x00000005], .qfence,
    ⟨1, 0, 0, ⟨true, 2⟩, 9, 0, 0, ⟨false, 0, 5⟩, ⟨false, 0, 0⟩, ⟨false, 0, 0⟩, 0x0, 0x0⟩),
  (0x0002A69D, [0x00000005], .qwait,
    ⟨1, 0, 0, ⟨true, 2⟩, 9, 0, 0, ⟨false, 0, 5⟩, ⟨false, 0, 0⟩, ⟨false, 0, 0⟩, 0x0, 0x0⟩),
  (0x0402A69D, [0x00000005], .qwaitReplay,
    ⟨1, 1, 0, ⟨true, 2⟩, 9, 0, 0, ⟨false, 0, 5⟩, ⟨false, 0, 0⟩, ⟨false, 0, 0⟩, 0x0, 0x0⟩),
  (0x0802A69D, [0x00000005], .qwaitDiscard,
    ⟨1, 2, 0, ⟨true, 2⟩, 9, 0, 0, ⟨false, 0, 5⟩, ⟨false, 0, 0⟩, ⟨false, 0, 0⟩, 0x0, 0x0⟩),
  (0x0002A6A2, [0x4000000E, 0x00000824], .mnopen,
    ⟨2, 0, 0, ⟨true, 2⟩, 9, 0, 0, ⟨true, 0, 14⟩, ⟨false, 0, 0⟩, ⟨true, 0, 36⟩, 0x0, 0x0⟩),
  (0x0002A6A6, [0x4003D00E, 0x000150BA], .mnpush,
    ⟨2, 0, 0, ⟨true, 2⟩, 9, 0, 0, ⟨true, 0, 14⟩, ⟨false, 0, 122⟩, ⟨false, 0, 186⟩, 0x15, 0x0⟩),
  (0x0002A6AA, [0xC000B00E, 0x00215824], .mnfeed,
    ⟨2, 0, 0, ⟨true, 2⟩, 9, 0, 0, ⟨true, 0, 14⟩, ⟨true, 0, 22⟩, ⟨true, 0, 36⟩, 0x215, 0x0⟩),
  (0x0092A6AE, [0x4000000E, 0x00000000], .mnisect,
    ⟨2, 0, 36, ⟨true, 2⟩, 9, 0, 0, ⟨true, 0, 14⟩, ⟨false, 0, 0⟩, ⟨false, 0, 0⟩, 0x0, 0x0⟩),
  (0x0002A6B2, [0x4000000E, 0x00000000], .mndrain,
    ⟨2, 0, 0, ⟨true, 2⟩, 9, 0, 0, ⟨true, 0, 14⟩, ⟨false, 0, 0⟩, ⟨false, 0, 0⟩, 0x0, 0x0⟩),
  (0x0002A6B6, [0x4000000E, 0x00000000], .mnresume,
    ⟨2, 0, 0, ⟨true, 2⟩, 9, 0, 0, ⟨true, 0, 14⟩, ⟨false, 0, 0⟩, ⟨false, 0, 0⟩, 0x0, 0x0⟩),
  (0x0092A6B9, [0x4000000E], .mnstat,
    ⟨1, 0, 36, ⟨true, 2⟩, 9, 0, 0, ⟨true, 0, 14⟩, ⟨false, 0, 0⟩, ⟨false, 0, 0⟩, 0x0, 0x0⟩),
  (0x0002A6BD, [0x4000000E], .mnclose,
    ⟨1, 0, 0, ⟨true, 2⟩, 9, 0, 0, ⟨true, 0, 14⟩, ⟨false, 0, 0⟩, ⟨false, 0, 0⟩, 0x0, 0x0⟩),
  (0x005EA6C2, [0x4000000E, 0x00000000], .launch,
    ⟨2, 0, 23, ⟨true, 2⟩, 9, 0, 0, ⟨true, 0, 14⟩, ⟨false, 0, 0⟩, ⟨false, 0, 0⟩, 0x0, 0x0⟩),
  (0x0002A6C6, [0xC000B005, 0x00000000], .tdep,
    ⟨2, 0, 0, ⟨true, 2⟩, 9, 0, 0, ⟨true, 0, 5⟩, ⟨true, 0, 22⟩, ⟨false, 0, 0⟩, 0x0, 0x0⟩),
  (0x0002A6CA, [0x40000005, 0x00000000], .signal,
    ⟨2, 0, 0, ⟨true, 2⟩, 9, 0, 0, ⟨true, 0, 5⟩, ⟨false, 0, 0⟩, ⟨false, 0, 0⟩, 0x0, 0x0⟩),
  (0x0002A6CE, [0xC080B00E, 0x00005824], .coll,
    ⟨2, 0, 0, ⟨true, 2⟩, 9, 0, 2, ⟨true, 0, 14⟩, ⟨true, 0, 22⟩, ⟨true, 0, 36⟩, 0x5, 0x0⟩),
  (0x0002A6D2, [0x4000000E, 0x00000000], .evq,
    ⟨2, 0, 0, ⟨true, 2⟩, 9, 0, 0, ⟨true, 0, 14⟩, ⟨false, 0, 0⟩, ⟨false, 0, 0⟩, 0x0, 0x0⟩),
  (0x0002A6D6, [0x4000000E, 0x00000000], .sysc,
    ⟨2, 0, 0, ⟨true, 2⟩, 9, 0, 0, ⟨true, 0, 14⟩, ⟨false, 0, 0⟩, ⟨false, 0, 0⟩, 0x0, 0x0⟩),
  (0x0002A6DA, [0x4000000E, 0x00055000], .savew,
    ⟨2, 0, 0, ⟨true, 2⟩, 9, 0, 0, ⟨true, 0, 14⟩, ⟨false, 0, 0⟩, ⟨false, 0, 0⟩, 0x55, 0x0⟩),
  (0x0002A6DE, [0x4000000E, 0x00005000], .restw,
    ⟨2, 0, 0, ⟨true, 2⟩, 9, 0, 0, ⟨true, 0, 14⟩, ⟨false, 0, 0⟩, ⟨false, 0, 0⟩, 0x5, 0x0⟩),
  (0x0002A6E0, [], .yieldb,
    ⟨0, 0, 0, ⟨true, 2⟩, 9, 0, 0, ⟨false, 0, 0⟩, ⟨false, 0, 0⟩, ⟨false, 0, 0⟩, 0x0, 0x0⟩),
  (0x0092A6E5, [0x40000005], .perf,
    ⟨1, 0, 36, ⟨true, 2⟩, 9, 0, 0, ⟨true, 0, 5⟩, ⟨false, 0, 0⟩, ⟨false, 0, 0⟩, 0x0, 0x0⟩)]

/-- Words that decode to the operation and the fields beside them, and that the encoder gives back. -/
def decodes (l : List (Word × List Word × Op × Fields)) : Bool :=
  l.all (fun e => (match decode staticEnv e.1 e.2.1 with | .ok r => r == (e.2.2.1, e.2.2.2) | .error _ => false)
    && e.2.2.1.wf e.2.2.2 && encodeOp e.2.2.1 e.2.2.2 == e.1 :: e.2.1)

theorem test_decode_control : decodes wordsControl = true := by decide +kernel
theorem test_decode_lanes : decodes wordsLanes = true := by decide +kernel
theorem test_decode_integer : decodes wordsInteger = true := by decide +kernel
theorem test_decode_float : decodes wordsFloat = true := by decide +kernel
theorem test_decode_mold : decodes wordsMold = true := by decide +kernel
theorem test_decode_memory : decodes wordsMemory = true := by decide +kernel
theorem test_decode_engine : decodes wordsEngine = true := by decide +kernel

/-- Words of the spec's examples, bit by bit: LEN last, then OPC, STL, PG, PN, D and F (12 Table 12-1). -/
theorem test_decode_bits :
    decodes [
      -- `addc.n32^3 v2, v0, v4, !p7, p1` (15 Table 15-4)
      (0b000000_00000010_0_111_0011_00101110_10, [0b0_0_000_00010_000_00000100_000_00000000, 0b00000000000000011111_0_000_00000000],
        .addc, { plain with len := 2, d := 2, stall := 3, t := 2, b := v 4, e := 0x1F }),
      -- `loop^0 v3` with I = 0xFFFF_FFF8 (18)
      (0b000000_00000011_0_111_0000_00001110_11, [0, 0, 0b11111111111111111111111111111000],
        .loop, { plain with len := 3, d := 3, i := 0xFFFFFFF8 }),
      -- `ballot^0 v5, p2` (18)
      (0b000000_00000101_0_111_0000_00010001_01, [0b0_0_000_00000_000_00000000_000_00000010], .ballot, { plain with len := 1, d := 5, a := v 2 }),
      -- `fcvt.e4m3.f32^3 v20, v12, 2` (16)
      (0b000000_00010100_0_111_0011_01100000_10, [0b0_0_000_00110_000_00000000_000_00001100, 0b00000000000001000011_0_000_00000000],
        .fcvt, { plain with len := 2, d := 20, stall := 3, t := 6, a := v 12, e := 0x43 }),
      -- `macc.f32^5 v12, m1(v10)` (17)
      (0b000000_00001100_0_111_0101_01111000_01, [0b0_0_000_00011_000_00000000_001_00001010],
        .macc, { plain with len := 1, d := 12, stall := 5, t := 3, a := ⟨false, 1, 10⟩ }),
      -- `ldb.b32.x2^2 v6, v4, s3, 3` (19)
      (0b000000_00000110_0_111_0010_10000000_10, [0b1_0_000_00000_000_00000011_000_00000100, 0b00000000001100000001_0_000_00000000],
        .ldb, { plain with len := 2, d := 6, stall := 2, a := v 4, b := u 3, e := 0x301 }),
      -- `qwait.replay 0x02` (20)
      (0b000001_00000000_0_111_0000_10100111_01, [0b0_0_000_00000_000_00000000_000_00000010],
        .qwaitReplay, { plain with len := 1, f := 1, a := v 2 })] = true := by decide +kernel

/-- What becomes of some words: what they decode to, or why they are refused. -/
def fate (head : Word) (rest : List Word) : Option (Op × Fields) × Option BadCode :=
  match decode staticEnv head rest with | .ok r => (some r, none) | .error e => (none, some e)

/-- 13 Table 13-5, with the outcome that each encoding has there; an unassigned opcode, as the fill value, is refused whatever follows. -/
theorem test_decode_fates :
    fate 0x00000000 [] = (some (.nop, { plain with guard := ⟨false, 0⟩ }), none)
      ∧ fate 0xFFFFFFFF [] = (none, some .unassigned) ∧ fate 0x0001C270 [] = (none, some .unassigned)
      ∧ fate 0x0C01C007 [0, 0, 0] = (none, some (.field 4 2)) ∧ fate 0x0805C105 [0x00002804] = (none, some (.field 5 3))
      ∧ fate 0x0805C105 [0x00402804] = (some (.setp, { plain with len := 1, f := 2, d := 1, t := 1, a := v 4, b := v 5 }), none)
      ∧ ∀ o ∈ Op.all, o.opc ≠ headOpc 0x0001C270 := by decide +kernel

/-- The opcode table's numbering: the first word holds the lowest bits. -/
theorem test_decode_table_word :
    decodeTableWord 64 0x004028040805C105 = some (.setp { plain with len := 1, f := 2, d := 1, t := 1, a := v 4, b := v 5 })
      ∧ decodeTableWord 32 0x0001C000 = some (.nop plain) ∧ decodeTableWord 32 0xFFFFFFFF = none := by decide +kernel

/-! ### Reaching an effect -/

/-- The state in which a readied instruction acts, and its context. -/
def stOn (s : State) (o : Op) (x : Fields) : State := ((readied s o x).map (fun r => r.1)).getD s
def ctxOn (s : State) (o : Op) (x : Fields) : Ctx :=
  ((readied s o x).map (fun r => r.2)).getD (baseCtx o x 0 0 (Warp.fresh 0 0 0 0 0 0 0 0 0 0 0 0 0) false)

theorem reaches_on {s : State} {o : Op} {x : Fields} (h : (readied s o x).isSome = true) : Reaches o x s (stOn s o x) (ctxOn s o x) := by
  obtain ⟨⟨t, c⟩, ht⟩ := Option.isSome_iff_exists.mp h
  have := reaches_of ht
  simpa [stOn, ctxOn, ht] using this

/-- From a state, an instruction reaches its effect where the hypotheses of a statement hold. -/
def Met (o : Op) (x : Fields) (s : State) (p : State → Ctx → Prop) : Prop := ∃ t c, Reaches o x s t c ∧ p s c
def MetIn (o : Op) (x : Fields) (s : State) (p : State → Ctx → Prop) : Prop := ∃ t c, Reaches o x s t c ∧ p t c

theorem met {o : Op} {x : Fields} {s : State} {p : State → Ctx → Prop} (h : (readied s o x).isSome = true) (hp : p s (ctxOn s o x)) :
    Met o x s p := ⟨_, _, reaches_on h, hp⟩
theorem met_in {o : Op} {x : Fields} {s : State} {p : State → Ctx → Prop} (h : (readied s o x).isSome = true)
    (hp : p (stOn s o x) (ctxOn s o x)) : MetIn o x s p := ⟨_, _, reaches_on h, hp⟩

/-- An ordinary issue: nothing that the instruction writes is owed, its result fits below `vz`, and lanes 0 and 31 take effect. -/
def Ordinary (c : Ctx) : Prop :=
  NoneOwed c ∧ c.x.d.toNat + c.form.d.vecs ≤ 255 ∧ c.lanes.getLsbD 0 = true ∧ c.lanes.getLsbD 31 = true ∧ c.any = true ∧ c.warp.paired = false

theorem ordinary_all {l : List (Op × Fields)} {s : State}
    (h : l.all (fun e => (readied s e.1 e.2).any (fun r =>
      owedOn r.2.warp r.2.quads (writeRegs r.2.op r.2.x r.2.form) == [] && decide (r.2.x.d.toNat + r.2.form.d.vecs ≤ 255)
        && r.2.lanes.getLsbD 0 && r.2.lanes.getLsbD 31 && r.2.any && !r.2.warp.paired)) = true) :
    ∀ e ∈ l, Met e.1 e.2 s (fun _ c => Ordinary c) := by
  intro e he
  have := List.all_eq_true.mp h e he
  revert this
  cases ht : readied s e.1 e.2 with
  | none => simp
  | some r =>
    intro hc
    simp only [Option.any_some, Bool.and_eq_true, beq_iff_eq, decide_eq_true_eq, Bool.not_eq_true'] at hc
    exact ⟨r.1, r.2, reaches_of ht, hc.1.1.1.1.1, hc.1.1.1.1.2, hc.1.1.1.2, hc.1.1.2, hc.1.2, hc.2⟩

theorem sound_of {s : State} (h : s.bankErrors = []) (h' : s.groups = []) : Sound s := by
  refine ⟨h, fun g => ?_⟩
  simp [State.groupOf, h', Group.reset]

theorem plain_of {s : State} {c : Ctx} (h : (c.any && !c.warp.paired && s.bankErrors.isEmpty && s.groups.isEmpty) = true) : Plain s c := by
  simp only [Bool.and_eq_true, Bool.not_eq_true', List.isEmpty_iff] at h
  exact ⟨h.1.1.1, h.1.1.2, sound_of h.1.2 h.2⟩

/-- Forms of the control instructions. -/
def formsControl : List (Op × Fields) :=
  [(.nop, plain), (.bra, { plain with len := 3 }), (.braFair, { plain with len := 3, f := 1 }), (.braPack, { plain with len := 3, f := 2 }),
   (.brx, { plain with len := 1 }), (.call, { plain with len := 3 }), (.ret, plain), (.exit, plain), (.join, plain), (.rgang, plain),
   (.rgangHome, { plain with f := 1 }), (.yield, plain), (.trap, plain), (.bkpt, plain), (.sleep, { plain with len := 1, b := u 0 }),
   (.region, plain), (.tret, plain), (.loop, { plain with len := 3 })]

/-- Forms of the lanes instructions. -/
def formsLanes : List (Op × Fields) :=
  [(.vote, { plain with len := 1 }), (.ballot, { plain with len := 1 }), (.qswz, { plain with len := 1 }),
   (.qbcast, { plain with len := 1 }), (.qvote, { plain with len := 1 }), (.pset, { plain with len := 1 }),
   (.pmovGet, { plain with len := 1 }), (.pmovPut, { plain with len := 1, f := 1 }), (.sel, { plain with len := 2 }),
   (.lanes, { plain with len := 1 }), (.elect, { plain with len := 1 })]

/-- Forms of the integer instructions. -/
def formsInteger : List (Op × Fields) :=
  [(.add, { plain with len := 1, t := 1 }), (.sub, { plain with len := 1, t := 1 }), (.add3, { plain with len := 2, t := 1 }),
   (.mul, { plain with len := 1, t := 1 }), (.mulhi, { plain with len := 1, t := 1 }), (.mad, { plain with len := 2, t := 1 }),
   (.madw, { plain with len := 2, t := 1 }), (.div, { plain with len := 1, t := 1 }), (.rem, { plain with len := 1, t := 1 }),
   (.min, { plain with len := 1, t := 1 }), (.max, { plain with len := 1, t := 1 }), (.abs, { plain with len := 1, t := 1 }),
   (.neg, { plain with len := 1, t := 1 }), (.sad, { plain with len := 2, t := 1 }), (.addc, { plain with len := 2, t := 1 }),
   (.subb, { plain with len := 2, t := 1 }), (.and, { plain with len := 1 }), (.or, { plain with len := 1 }),
   (.xor, { plain with len := 1 }), (.andn, { plain with len := 1 }), (.not, { plain with len := 1 }), (.shl, { plain with len := 1 }),
   (.shr, { plain with len := 1 }), (.sra, { plain with len := 1, t := 1 }), (.rot, { plain with len := 1 }),
   (.fsh, { plain with len := 2 }), (.bfe, { plain with len := 2, t := 1 }), (.bfi, { plain with len := 2 }),
   (.popc, { plain with len := 1 }), (.clz, { plain with len := 1 }), (.ctz, { plain with len := 1 }), (.brev, { plain with len := 1 }),
   (.bperm, { plain with len := 1 }), (.setp, { plain with len := 1 }), (.lea, { plain with len := 2, t := 2 }),
   (.mov, { plain with len := 1 }), (.movi, { plain with len := 3 }), (.movu, { plain with len := 1 }),
   (.icvt, { plain with len := 3, t := 1, e := 1 }), (.sat, { plain with len := 1, t := 1 }), (.csrr, { plain with len := 2 }),
   (.csrw, { plain with len := 2 }), (.clk, plain), (.hb, plain)]

/-- Forms of the float instructions. -/
def formsFloat : List (Op × Fields) :=
  [(.fadd, { plain with len := 1, t := 3 }), (.fsub, { plain with len := 1, t := 3 }), (.fmul, { plain with len := 1, t := 3 }),
   (.fma, { plain with len := 2, t := 3 }), (.fmin, { plain with len := 1, t := 3 }), (.fmax, { plain with len := 1, t := 3 }),
   (.fmnum, { plain with len := 1, t := 3 }), (.fsetp, { plain with len := 1, t := 3 }), (.frcp, { plain with len := 1, t := 3 }),
   (.frsq, { plain with len := 1, t := 3 }), (.fsqrt, { plain with len := 1, t := 3 }), (.fdiv, { plain with len := 1, t := 3 }),
   (.fex2, { plain with len := 1, t := 3 }), (.flg2, { plain with len := 1, t := 3 }), (.fsin, { plain with len := 1, t := 3 }),
   (.fcos, { plain with len := 1, t := 3 }), (.fcvt, { plain with len := 2, t := 3, e := 1 }), (.fround, { plain with len := 1, t := 3 }),
   (.fscale, { plain with len := 1, t := 3 }), (.fclass, { plain with len := 2, t := 3, e := 1 }), (.fsel, { plain with len := 2, t := 3 }),
   (.quant, { plain with len := 2, t := 11 }), (.dequant, { plain with len := 2, t := 11 }), (.pack, { plain with len := 1, t := 4 }),
   (.unpack, { plain with len := 1, t := 4 }), (.rng, { plain with len := 1 })]

/-- Forms of the mold instructions. -/
def formsMold : List (Op × Fields) :=
  [(.malloc, { plain with len := 1, b := u 0 }), (.mfree, { plain with len := 1, a := u 0 }),
   (.mbind, { plain with len := 1, d := 2, a := u 0, b := ⟨false, 0, 255⟩ }), (.munbind, { plain with len := 1, d := 2 }),
   (.mload, { plain with len := 2, a := u 0, b := u 0, c := u 0 }), (.mstore, { plain with len := 2, a := u 0, b := u 0, c := u 0 }),
   (.mfill, { plain with len := 2, e := 128 }), (.mbmap, { plain with len := 1, d := 2, a := u 0, b := ⟨false, 0, 255⟩ }),
   (.macc, { plain with len := 1, a := ⟨false, 1, 0⟩ }), (.mquery, { plain with len := 2 }),
   (.msave, { plain with len := 2, a := u 0, b := ⟨false, 0, 255⟩, e := 1 }),
   (.mrest, { plain with len := 2, a := u 0, b := ⟨false, 0, 255⟩, e := 1 }), (.mstep, { plain with len := 2, e := 1 })]

/-- Forms of the memory instructions. -/
def formsMemory : List (Op × Fields) :=
  [(.ldb, { plain with len := 2 }), (.stb, { plain with len := 2 }), (.ldd, { plain with len := 2 }), (.std, { plain with len := 2 }),
   (.ldk, { plain with len := 2 }), (.stk, { plain with len := 2 }), (.atom, { plain with len := 2, t := 1 }),
   (.red, { plain with len := 2, t := 1 }), (.fenceBlk, plain), (.fenceClu, { plain with f := 1 }), (.fenceDev, { plain with f := 2 }),
   (.fenceSys, { plain with f := 3 }), (.fenceTick, { plain with f := 4 }), (.barInit, { plain with len := 1, b := u 0 }),
   (.barArrive, { plain with len := 1, f := 1 }), (.barWait, { plain with len := 1, f := 2, b := u 0 }),
   (.barSync, { plain with len := 1, f := 3 }), (.barSyncSpec, { plain with len := 1, f := 4 }),
   (.barDebt, { plain with len := 1, f := 5, b := u 0 }), (.mon, { plain with len := 2 }), (.wait, { plain with len := 2 }),
   (.tflag, { plain with len := 2, t := 19, e := 16 }), (.rfence, plain)]

/-- Forms of the engine instructions. -/
def formsEngine : List (Op × Fields) :=
  [(.cp, { plain with len := 2, a := u 0, b := u 0, c := u 0 }), (.cpg, { plain with len := 2, a := u 0, b := u 0, c := u 0 }),
   (.cps, { plain with len := 2, a := u 0, b := u 0, c := u 0 }), (.cpt, { plain with len := 2, a := u 0, b := u 0, c := u 0 }),
   (.cpc, { plain with len := 2, a := u 0, b := u 0, c := u 0 }), (.cpv, { plain with len := 2, a := u 0, b := u 0, c := u 0 }),
   (.qfence, { plain with len := 1, a := ⟨false, 0, 4⟩ }), (.qwait, { plain with len := 1, a := ⟨false, 0, 4⟩ }),
   (.qwaitReplay, { plain with len := 1, f := 1, a := ⟨false, 0, 4⟩ }), (.qwaitDiscard, { plain with len := 1, f := 2, a := ⟨false, 0, 4⟩ }),
   (.mnopen, { plain with len := 2, a := u 0, c := u 0 }), (.mnpush, { plain with len := 2, a := u 0 }),
   (.mnfeed, { plain with len := 2, a := u 0, b := u 0, c := u 0 }), (.mnisect, { plain with len := 2, a := u 0 }),
   (.mndrain, { plain with len := 2, a := u 0 }), (.mnresume, { plain with len := 2, a := u 0 }),
   (.mnstat, { plain with len := 1, a := u 0 }), (.mnclose, { plain with len := 1, a := u 0 }), (.launch, { plain with len := 2, a := u 0 }),
   (.tdep, { plain with len := 2, a := u 0, b := u 0 }), (.signal, { plain with len := 2, a := u 0 }),
   (.coll, { plain with len := 2, t := 1, a := u 0, b := u 0, c := u 0 }), (.evq, { plain with len := 2, a := u 0 }),
   (.sysc, { plain with len := 2, a := u 0 }), (.savew, { plain with len := 2, a := u 0, e := 64 }),
   (.restw, { plain with len := 2, a := u 0, e := 1 }), (.yieldb, plain), (.perf, { plain with len := 1, a := u 0 })]

theorem test_witness_control : ∀ e ∈ formsControl, Met e.1 e.2 (on (fun w => { bound w with inTrap := true })) (fun _ c => Ordinary c) :=
  ordinary_all (by decide +kernel)
theorem test_witness_lanes : ∀ e ∈ formsLanes, Met e.1 e.2 (on bound) (fun _ c => Ordinary c) := ordinary_all (by decide +kernel)
theorem test_witness_integer : ∀ e ∈ formsInteger, Met e.1 e.2 (on bound) (fun _ c => Ordinary c) := ordinary_all (by decide +kernel)
theorem test_witness_float : ∀ e ∈ formsFloat, Met e.1 e.2 (on bound) (fun _ c => Ordinary c) := ordinary_all (by decide +kernel)
theorem test_witness_mold : ∀ e ∈ formsMold, Met e.1 e.2 (on bound) (fun _ c => Ordinary c) := ordinary_all (by decide +kernel)
theorem test_witness_memory : ∀ e ∈ formsMemory, Met e.1 e.2 (on bound) (fun _ c => Ordinary c) := ordinary_all (by decide +kernel)
theorem test_witness_engine : ∀ e ∈ formsEngine, Met e.1 e.2 (on bound) (fun _ c => Ordinary c) := ordinary_all (by decide +kernel)

/-! ### Witnesses: encodings, the machine, registers and lanes -/

/-- A warp of a state, for the tests. -/
def warpIn (s : State) (uid : Nat) : Warp := (s.warpOf uid).getD (Warp.fresh 0 0 0 0 0 0 0 0 0 0 0 0 0)

/-- The placed machine with a vector register of the warp in every lane of its list, and with a uniform register. -/
def vecIn (n : Nat) (l : List (Nat × Word)) (w : Warp) : Warp := { w with regs := l.foldl (fun r e => r.setVec n e.1 e.2) w.regs }
def uniIn (n : Nat) (v : Word) (w : Warp) : Warp := { w with regs := w.regs.setUni n v }

/-- A value in every lane, or in the lanes of quad 0 as listed and one value elsewhere. -/
def lanesOf (v : Word) : List (Nat × Word) := (List.range 32).map (fun l => (l, v))

/-- The placed machine with a one-word `nop` at the warp's address. -/
def atNop : State := State.reset.withFetchWord 32 0x0001C000

theorem test_witness_EncodeDecode : ∃ head rest o x, bitField head 0 2 ≤ rest.length ∧ decode staticEnv head rest = .ok (o, x) :=
  ⟨0x0805C105, [0x00402804], .setp, { plain with len := 1, f := 2, d := 1, t := 1, a := v 4, b := v 5 }, by decide, rfl⟩

theorem test_witness_DecodeWords : ∃ head : Word, ∀ o : Op, o.opc ≠ headOpc head := ⟨0x0001C270, fun o => by cases o <;> decide⟩

theorem test_witness_StepKeepsCanonical : atNop.Canonical ∧ (match step atNop with | .next _ => true | _ => false) = true :=
  ⟨by unfold State.Canonical; decide +kernel, by decide +kernel⟩

theorem test_witness_Registers : ∃ n l m k : Nat, l < 32 ∧ k < 32 ∧ m = n ∧ k = l ∧ n ≠ 255 := ⟨254, 31, 254, 31, by decide⟩

/-- The gang of the placed machine has its turn, and its `nop` is fetched and decoded, with an empty agenda. -/
theorem test_witness_StepRuns_clock : ∃ (s s0 s1 : State) (w : Warp) (pc : BitVec 55) (p : Pick), s.agenda = [] ∧ s.here = (0, 0)
    ∧ s0 = ((s.onCore 0 (fun c => c.tick 0)).settleWaits 0 0).askFetches 0 0
    ∧ leastBy (turnKey (s0.coreOf 0) 0) (s0.picks 0 0) = some p ∧ p.slot < hiddenSlot ∧ s1.leadOf 0 p.gang = some (w, pc)
    ∧ s1 = (s0.onCore 0 (fun c =>
        { c with lastSlot := modifyAt (fun _ => slotPlace p.slot) 0 c.lastSlot, lastGang := Cells.put 7 c.lastGang p.slot p.quad })).seeIssue 0 0 (some p.slot)
    ∧ (s1.fetchInstr 0 w pc.toNat).2 = .ok .nop plain :=
  ⟨atNop, ((atNop.onCore 0 (fun c => c.tick 0)).settleWaits 0 0).askFetches 0 0, _, warpIn atNop 2, 0x40000, ⟨0, 0, gangId 2 0⟩, rfl, rfl, rfl,
    by decide +kernel, by decide, by decide +kernel, rfl, by decide +kernel⟩

/-- The same with the clock named by the agenda. -/
theorem test_witness_StepRuns_agenda : ∃ (s a : State) (rest : List Act), s.agenda = .clock 0 0 :: rest ∧ a = { s with agenda := rest } ∧ a = atNop :=
  ⟨{ atNop with agenda := [.clock 0 0] }, _, [], rfl, rfl, rfl⟩

theorem test_witness_StepRuns_fetch : ∃ (s s' : State) (w : Warp) (pc key : Nat) (head : Word), pc < 2 ^ 55
    ∧ s.translate 0 w.ctx pc .x = (s', .ok key) ∧ keyRemote key = none ∧ s'.lineBad key = false ∧ s'.dev.read key 4 = head.toNat
    ∧ (∀ c ∈ (s'.coreOf 0).icache, c.1 ≠ w.ctx ∨ c.2.1 ≠ pc) ∧ bitField head 0 2 = 0 ∧ decode staticEnv head [] = .ok (.nop, plain) := by
  have h : (atNop.translate 0 1 0x40000 .x).2.toOption = some 0x40000 := by decide +kernel
  refine ⟨atNop, (atNop.translate 0 1 0x40000 .x).1, warpIn atNop 2, 0x40000, 0x40000, 0x0001C000, by decide, ?_, by decide, by decide +kernel,
    by decide +kernel, by decide +kernel, by decide, rfl⟩
  have hw : (warpIn atNop 2).ctx = 1 := by decide +kernel
  rw [hw]
  refine Prod.ext rfl ?_
  revert h
  cases (atNop.translate 0 1 0x40000 .x).2 <;> simp [Except.toOption]

theorem test_witness_StepRuns_event : ∃ s : State, s.agenda = [.event 0 .heartbeatTick, .elapse 5] := ⟨{ State.reset with agenda := _ }, rfl⟩

theorem test_witness_Issues : ∃ (s : State) (cur : Issuing) (w : Warp) (x : Fields), s.cur = some cur ∧ cur.slot < hiddenSlot ∧ s.gangWarps cur.core cur.gang = [w] ∧ s.warpOf w.uid = some w
    ∧ earlyFault w (w.members cur.gang) .add x = none ∧ moldFault w .add x = none ∧ pouredOperands x = [] ∧ w.errors = []
    ∧ owedOn w (w.members cur.gang) (readRegs w .add x (Op.form .add x)) = [] :=
  ⟨on (fun w => w), ⟨0, 0, gangId 2 0⟩, warpIn (on (fun w => w)) 2, { plain with len := 1, t := 1, a := u 63, b := v 254 }, by decide +kernel⟩

/-- Forms that a clause of a statement names by a field: every comparison, table, form of `movu`, control register and query. -/
def formsByField : List (Op × Fields) :=
  (List.range 6).map (fun f => (.setp, { plain with len := 1, f := BitVec.ofNat 6 f, t := 1, d := 1 }))
    ++ (List.range 8).map (fun f => (.fsetp, { plain with len := 1, f := BitVec.ofNat 6 f, t := 3, d := 1 }))
    ++ [(.vote, { plain with len := 1, f := 1, d := 6 }), (.qvote, { plain with len := 1, f := 1, d := 6 }),
        (.lanes, { plain with len := 1, f := 1 }), (.lanes, { plain with len := 1, f := 2 }), (.movu, { plain with len := 1, f := 1, a := u 0 }),
        (.movi, { plain with len := 3, t := 19, e := 7 }), (.fsh, { plain with len := 2, f := 1, e := 0x80000 + 31 }),
        (.bfe, { plain with len := 2, t := 1, e := 0x80000 }), (.fclass, { plain with len := 2, t := 3, e := 0x401 }),
        (.icvt, { plain with len := 3, t := 9, e := 0x61 }), (.icvt, { plain with len := 3, f := 1, t := 1, e := 0x69 })]
    ++ [0x00, 0x01, 0x10, 0x11, 0x12, 0x13, 0x14, 0x15, 0x16, 0x17, 0x18, 0x19, 0x1A, 0x1B, 0x20, 0x21, 0x50, 0x60, 0x30, 0x31, 0x32, 0x33, 0x34, 0x35, 0x3C, 0x3D, 0x40, 0x41].map
        (fun n => (.csrr, { plain with len := 2, e := n }))
    ++ [0, 1, 2, 3].map (fun n => (.mquery, { plain with len := 2, e := n }))

theorem test_witness_fields : ∀ e ∈ formsByField, Met e.1 e.2 (on bound) (fun _ c => Ordinary c) := ordinary_all (by decide +kernel)

/-- A guard that holds in no lane: `movu` keeps its register. -/
theorem test_witness_UniformMoves_keeps : Met .movu { plain with len := 1, guard := ⟨false, 0⟩ } (on bound) (fun _ c => c.x.f = 0 ∧ c.real = 0 ∧ NoneOwed c) :=
  met (by decide +kernel) (by unfold NoneOwed; decide +kernel)
theorem test_witness_UniformMoves_lowest : Met .movu { plain with len := 1, guard := ⟨false, 1⟩ }
    (on (fun w => { w with regs := w.regs.setPred 1 31 true }))
    (fun _ c => c.x.f = 0 ∧ c.real.getLsbD 31 = true ∧ (∀ k, k < 31 → c.real.getLsbD k = false) ∧ NoneOwed c) :=
  met (by decide +kernel) (by unfold NoneOwed; decide +kernel)

/-- NaNs in v4 (quiet) and v5 (signalling), 1.0 in v6, in lane 0. -/
def nans (w : Warp) : Warp := vecIn 4 [(0, 0x7FC00001)] (vecIn 5 [(0, 0xFFA00000)] (vecIn 6 [(0, 0x3F800000)] w))

/-- A number is a NaN of f32. -/
def nan32 (v : Nat) : Prop := v / 2 ^ 23 % 2 ^ 8 = 255 ∧ v % 2 ^ 23 ≠ 0

theorem test_witness_NanOperands_a : ∀ o ∈ [Op.fadd, .fsub, .fmul, .fdiv, .fma],
    Met o { plain with len := if o = .fma then 2 else 1, t := 3, a := v 5, b := v 4 } (on nans)
      (fun _ c => Ordinary c ∧ nan32 (elemOf c.ty (c.a 0) 0) ∧ (elemOf c.ty (c.a 0) 0).testBit 22 = false ∧ c.real.getLsbD 0 = true) := by
  intro o ho
  simp only [List.mem_cons, List.not_mem_nil, or_false] at ho
  rcases ho with rfl | rfl | rfl | rfl | rfl <;>
    exact met (by decide +kernel) (by unfold Ordinary NoneOwed nan32; decide +kernel)
theorem test_witness_NanOperands_b : ∀ o ∈ [Op.fadd, .fsub, .fmul, .fdiv, .fma],
    Met o { plain with len := if o = .fma then 2 else 1, t := 3, a := v 6, b := v 4 } (on nans)
      (fun _ c => Ordinary c ∧ ¬ nan32 (elemOf c.ty (c.a 0) 0) ∧ nan32 (elemOf c.ty (c.b 0) 0)) := by
  intro o ho
  simp only [List.mem_cons, List.not_mem_nil, or_false] at ho
  rcases ho with rfl | rfl | rfl | rfl | rfl <;>
    exact met (by decide +kernel) (by unfold Ordinary NoneOwed nan32; decide +kernel)
theorem test_witness_NanOperands_c :
    Met .fma { plain with len := 2, t := 3, a := v 6, b := v 6, c := v 4 } (on nans)
      (fun _ c => Ordinary c ∧ ¬ nan32 (elemOf c.ty (c.a 0) 0) ∧ ¬ nan32 (elemOf c.ty (c.b 0) 0) ∧ nan32 (elemOf c.ty (c.c 0) 0)) :=
  met (by decide +kernel) (by unfold Ordinary NoneOwed nan32; decide +kernel)

/-- A binding whose results are i32, f32 or f64, from sources and a bank of i8, f32 or f64. -/
def sums (res src : BitVec 8) (w : Warp) : Warp :=
  { w with slots := List.replicate 7 (some ⟨{ record0 with sfmt := src, mfmt := src, res }, [], [], 0, false⟩) }
/-- With f32, a bank whose entry of row 0 and column 31 is 1, and 1 in every lane of the source and of d. -/
def summing : State :=
  { on (fun w => vecIn 0 (lanesOf 0x3F800000) (vecIn 2 (lanesOf 0x3F800000) (sums 3 3 w))) with banks := [(126, 0x80), (127, 0x3F)] }
theorem test_witness_MoldSums_macc :
    (Met .macc { plain with len := 1, t := 1, d := 2, a := ⟨false, 1, 0⟩ } (on bound)
      (fun _ c => ∃ b, c.warp.slotOf c.x.a.mold.toNat = some b ∧ b.record.rf = 1 ∧ b.record.sparse = false ∧ Ordinary c))
    ∧ MetIn .macc { plain with len := 1, t := 3, d := 2, a := ⟨false, 1, 0⟩ } summing
      (fun t c => ∃ b, c.warp.slotOf c.x.a.mold.toNat = some b ∧ b.record.rf = 3 ∧ b.record.sparse = false ∧ Ordinary c
        ∧ (let terms := termsOf t c.pourEnv b c.x.a.reg.toNat 31
           terms ≠ [] ∧ terms.all (fun x => match x.value with | some (.fin _ _ _) => true | _ => false) = true ∧ nanOf 3 (terms.flatMap Term.factors) = none
            ∧ ∃ n m e, decodeNum 3 (flushIn 3 c.warp.ftz (c.d (tyRegs 3) 31)) = .fin n m e
              ∧ (let p := exactSum (terms.filterMap Term.value)
                 (exactSum ([.fin n m e] ++ if p.1 = 0 then [] else [.fin (decide (p.1 < 0)) p.1.natAbs p.2])).1 ≠ 0)))
    ∧ Met .macc { plain with len := 1, t := 15, d := 2, a := ⟨false, 1, 0⟩ } (on (sums 15 15))
      (fun _ c => ∃ b, c.warp.slotOf c.x.a.mold.toNat = some b ∧ b.record.rf = 15 ∧ Ordinary c) :=
  ⟨met (by decide +kernel) ⟨⟨record0, [], [], 0, false⟩, by decide +kernel, by decide, by decide, by unfold Ordinary NoneOwed; decide +kernel⟩,
    met_in (by decide +kernel) ⟨⟨{ record0 with sfmt := 3, mfmt := 3, res := 3 }, [], [], 0, false⟩, by decide +kernel, by decide, by decide,
      by unfold Ordinary NoneOwed; decide +kernel, by decide +kernel, by decide +kernel, by decide +kernel, false, 0x800000, -23, by decide +kernel⟩,
    met (by decide +kernel) ⟨⟨{ record0 with sfmt := 15, mfmt := 15, res := 15 }, [], [], 0, false⟩, by decide +kernel, by decide,
      by unfold Ordinary NoneOwed; decide +kernel⟩⟩
theorem test_witness_MoldSums_mstep : Met .mstep { plain with len := 2, d := 1, e := 1 } (on bound)
    (fun _ c => ∃ b, c.warp.slotOf (bitField c.x.e 0 3) = some b ∧ c.real ≠ 0 ∧ NoneOwed c) :=
  met (by decide +kernel) ⟨⟨record0, [], [], 0, false⟩, by decide +kernel, by decide +kernel, by unfold NoneOwed; decide +kernel⟩

theorem test_witness_RegisterWrites : ∀ n ∈ ([0x00, 0x01, 0x30, 0x31, 0x32, 0x33, 0x34, 0x35, 0x3C, 0x3D, 0x40, 0x41] : List (BitVec 20)),
    Met .csrw { plain with len := 2, e := n } (on (fun w => w))
      (fun _ c => ∃ l, c.leader = some l ∧ csrRefuses (bitField c.x.e 0 12) (c.a l) = false) := by
  intro n hn
  simp only [List.mem_cons, List.not_mem_nil, or_false] at hn
  rcases hn with rfl | rfl | rfl | rfl | rfl | rfl | rfl | rfl | rfl | rfl | rfl | rfl <;>
    exact met (by decide +kernel) ⟨0, by decide +kernel⟩

/-! ### Witnesses: traps -/

/-- A warp with a handler. -/
def handled (w : Warp) : Warp := { w with trap := { w.trap with tbase := 0x48000 } }

theorem test_witness_TrapEntry : ∃ (s : State) (uid : Nat) (w : Warp), s.warpOf uid = some w ∧ w.uid = uid ∧ TrapsAtOnce s w ∧ w.trap.tbase ≠ 0 :=
  ⟨on handled, 2, warpIn (on handled) 2, by unfold TrapsAtOnce; decide +kernel⟩

/-- An access of device memory that has been issued, a store of four bytes. -/
def store4 : Access :=
  { seq := 1, pc := 0x40000, quad := 0, lane := 0, blame := 1, depth := 0, joined := none, ended := none, acq := none, rel := none, space := .dev,
    kind := .store, parts := [⟨0x50000, 4, 0x12345678, 0x50000, 0⟩], remote := none, tile := none, held := false, holds := false,
    helper := false }

/-- The warp of a state beside a shadow of its own, which is like it. -/
def shadowed (s : State) : State := { s with shadows := [Warp.asShadow (warpIn s 2)] }

/-- A warp with an access outstanding, one that speculates, one whose trap waits, and one with a shadow. -/
def storing (w : Warp) : Warp := { handled w with pending := [store4] }
def speculating (w : Warp) : Warp := { handled w with spec := some { word := 0, gen := 0, since := 0, wstat := 0, paths := [], buffer := [], reads := [] } }
def trapping (w : Warp) : Warp := { handled w with trapWait := some (Trap.of 2 1 0 none none) }
theorem test_witness_TrapWaits :
    (∃ (s : State) (w : Warp), s.warpOf 2 = some w ∧ w.uid = 2 ∧ w.trapWait ≠ none)
      ∧ (∃ (s : State) (w : Warp), s.warpOf 2 = some w ∧ w.uid = 2 ∧ w.trapWait = none ∧ w.spec ≠ none)
      ∧ (∃ (s : State) (w : Warp), s.warpOf 2 = some w ∧ w.uid = 2 ∧ w.trapWait = none ∧ w.spec = none ∧ s.shadowOf 2 = none ∧ w.quiet = false)
      ∧ ∃ (s : State) (w : Warp), s.warpOf 2 = some w ∧ w.uid = 2 ∧ w.trapWait = none ∧ w.spec = none ∧ s.shadowOf 2 ≠ none :=
  ⟨⟨on trapping, warpIn (on trapping) 2, by decide +kernel⟩, ⟨on speculating, warpIn (on speculating) 2, by decide +kernel⟩,
    ⟨on storing, warpIn (on storing) 2, by decide +kernel⟩, ⟨shadowed (on handled), warpIn (on handled) 2, by decide +kernel⟩⟩

/-- A virtual device with two queues and 64 vectors that holds the first 128 KiB of device memory from 0x60000 on. -/
def device0 : VDev :=
  { num := 0, pid := 0, host := 5, configAt := 0, windows := [(0x60000, 2)], queues := [⟨0x60000, 0, true⟩, ⟨0x60080, 1, true⟩],
    vectors := List.replicate 64 ⟨0, 0x3FF, 0, false, false⟩, arms := [], weight := 1, quantum := 1, wall := false, vtime := 0, timeOff := 0, pausing := false, paused := none,
    pausedHb := 0, away := none, gained := false, iface := .unlocked, digest := [], session := false, exchanged := false, log := [], logSeq := 0 }

theorem test_witness_TrapWithoutHandler : ∃ (s : State) (uid : Nat) (w : Warp) (k : Context) (v : VDev), s.warpOf uid = some w ∧ w.uid = uid ∧ TrapsAtOnce s w ∧ w.trap.tbase = 0
    ∧ s.ctxOf w.ctx = some k ∧ k.killed = false ∧ s.vdOf k.vd = some v :=
  ⟨{ on (fun w => w) with vdevs := [device0] }, 2, warpIn (on (fun w => w)) 2, placeContext, device0, by unfold TrapsAtOnce; decide +kernel⟩

theorem test_witness_SoftwareTraps : ∀ o ∈ [Op.trap, .bkpt],
    Met o { plain with d := 0xFF } (on handled)
      (fun s c => c.real ≠ 0 ∧ TrapsAtOnce s c.warp ∧ c.warp.trap.tbase ≠ 0 ∧ ∀ q, (c.warp.quad q).packed = false)
    ∧ Met o { plain with guard := ⟨false, 0⟩ } (on handled) (fun _ c => c.real = 0) := by
  have h (w : Warp) (h : w.quads.all (fun q => !q.packed) = true) (q : Nat) : (w.quad q).packed = false := by
    unfold Warp.quad
    rw [List.getD_eq_getElem?_getD]
    cases hq : w.quads[q]? with
    | none => rfl
    | some p => simpa using List.all_eq_true.mp h p (List.mem_of_getElem? hq)
  intro o ho
  simp only [List.mem_cons, List.not_mem_nil, or_false] at ho
  rcases ho with rfl | rfl <;>
    exact ⟨met (by decide +kernel) ⟨by decide +kernel, by unfold TrapsAtOnce; decide +kernel, by decide +kernel, h _ (by decide +kernel)⟩,
      met (by decide +kernel) (by decide +kernel)⟩

theorem test_witness_CheckTraps : ∃ (s : State) (cur : Issuing) (w : Warp) (x : Fields) (cause info : Nat), s.cur = some cur ∧ cur.slot < hiddenSlot ∧ s.gangWarps cur.core cur.gang = [w] ∧ s.warpOf w.uid = some w
    ∧ earlyFault w (w.members cur.gang) .add x = some (cause, info) ∧ w.activeOf (w.members cur.gang) &&& ~~~w.helper ≠ 0
    ∧ TrapsAtOnce s w ∧ w.trap.tbase ≠ 0 ∧ w.quads.all (fun q => !q.packed) = true :=
  ⟨on handled, ⟨0, 0, gangId 2 0⟩, warpIn (on handled) 2, { plain with len := 1, t := 0 }, 0x02, 0x503, by unfold TrapsAtOnce; decide +kernel⟩
/-- A privileged register outside the handler: row 6. -/
theorem test_witness_CheckTraps_privilege : ∃ (w : Warp) (x : Fields), w = warpIn (on handled) 2 ∧ (earlyFault w (w.members 0) .tret x).map (fun e => e.1) = some 0x03 :=
  ⟨_, plain, rfl, by decide +kernel⟩

theorem test_witness_TrapReturn : Met .tret plain (on (fun w => { handled w with inTrap := true, handler := 0xFF }))
    (fun _ c => c.warp.heldFault = none ∧ c.warp.barrier = none) := met (by decide +kernel) (by decide +kernel)

/-! ### Witnesses: control flow -/

/-- A quad of the warp changed, and a predicate that holds in the lanes of a mask. -/
def quadIs (q : Nat) (f : Path → Path) (w : Warp) : Warp := w.onQuad q (fun p => { p with path := f p.path })
def predIs (p : Nat) (m : LaneMask) (w : Warp) : Warp := { w with regs := { w.regs with p := Cells.put 0 w.regs.p p m } }

/-- An entry of a divergence stack: lane 0 waits at 0x40010, the address after a 16-byte instruction. -/
def waits0 (k : PathKind) : StackEntry := { kind := k, pmask := 1, jmask := 0xF, pcw := pcPcw 0x40010 }

def relative (c : Ctx) (_ : Nat) : Int := (c.pc.toNat : Int) + signed 32 c.x.i.toNat

/-- A second warp of the block, in slot 1. -/
def with2 (s : State) : State := { s with warps := s.warps ++ [Warp.fresh 3 0 1 1 1 1 0 0 255 64 0x40000 0 0] }

/-- The taken lanes are all, some and none of those of a quad. -/
def TakenKinds (c : Ctx) : Prop :=
  c.taken 0 ≠ 0 ∧ c.taken 0 ≠ (c.path 0).active ∧ c.taken 1 = (c.path 1).active ∧ c.taken 1 ≠ 0 ∧ c.taken 2 = 0

theorem test_witness_Branches : ∀ e ∈ ([(.bra, relative, { plain with len := 3, i := 0x100, guard := ⟨false, 1⟩ }),
      (.braFair, relative, { plain with len := 3, f := 1, i := 0xFFFFFFF0, guard := ⟨false, 1⟩ }),
      (.braPack, relative, { plain with len := 3, f := 2, i := 0x100, guard := ⟨false, 1⟩ }),
      (.brx, fun c l => (c.a l : Int), { plain with len := 1, a := v 4, guard := ⟨false, 1⟩ }),
      (.call, relative, { plain with len := 3, i := 0x100, d := 6, guard := ⟨false, 1⟩ }),
      (.ret, fun c l => (c.d 2 l : Int), { plain with d := 4, guard := ⟨false, 1⟩ })] : List (Op × (Ctx → Nat → Int) × Fields)),
    Met e.1 e.2.2 (on (fun w => { vecIn 4 (lanesOf 0x40100) (predIs 1 0xF6 w) with inTrap := true, handler := 0xFF }))
      (fun s c => Free s c ∧ BranchesFit e.2.1 c ∧ (e.1 = .braPack → c.warp.inTrap = true) ∧ TakenKinds c) := by
  intro e he
  simp only [List.mem_cons, List.not_mem_nil, or_false] at he
  rcases he with rfl | rfl | rfl | rfl | rfl | rfl <;>
    exact met (by decide +kernel) (by unfold Free BranchesFit TakenKinds; decide +kernel)

/-- `bra.fair` with a living pending path. -/
theorem test_witness_Branches_fair : Met .braFair { plain with len := 3, f := 1, i := 0xFFFFFFF0 }
    (on (quadIs 0 (fun p => { p with active := 0xE, stack := [waits0 .pending] })))
    (fun s c => Free s c ∧ BranchesFit relative c ∧ c.taken 0 = (c.path 0).active ∧ (c.path 0).stack ≠ []) :=
  met (by decide +kernel) (by unfold Free BranchesFit; decide +kernel)

theorem test_witness_Branches_pack : Met .braPack { plain with len := 3, f := 2, i := 0x100, guard := ⟨false, 1⟩ } (with2 (on (predIs 1 0xF6)))
    (fun s c => c.warp.inTrap = false ∧ BranchesFit relative c ∧ c.warp.trapWait = none ∧ c.warp.paired = false ∧ (s.coreOf c.warp.core).windows = []
      ∧ ∃ v q, s.warpOf v.uid = some v ∧ v.block = c.warp.block ∧ v.core = c.warp.core ∧ v.ended = false ∧ q ∈ v.aliveQuads
        ∧ (v.uid ≠ c.warp.uid ∨ q ∉ c.quads) ∧ (v.quad q).park = .running) :=
  met (by decide +kernel) (by
    refine ⟨by decide +kernel, by unfold BranchesFit; decide +kernel, by decide +kernel, by decide +kernel, by decide +kernel,
      Warp.fresh 3 0 1 1 1 1 0 0 255 64 0x40000 0 0, 0, by decide +kernel⟩)

/-- Lanes of quad 0 stay and leave, those of quad 1 stay, those of the others leave; the counters are as in the example of 18. -/
theorem test_witness_Loops : Met .loop { plain with len := 3, d := 3, i := 0xFFFFFFF8 }
    (on (vecIn 3 ([(0, 3), (1, 1), (2, 2), (3, 3)] ++ [(4, 3), (5, 3), (6, 3), (7, 3)])))
    (fun s c => Free s c ∧ NoneOwed c
      ∧ (∀ q, q ∈ c.quads → 0 ≤ relative c 0 ∧ relative c 0 < 2 ^ 55 ∧ relative c 0 % 4 = 0 ∧ (c.path q).stack.length < 16)
      ∧ c.stay 0 ≠ 0 ∧ c.stay 0 ≠ (c.path 0).active ∧ c.stay 1 = (c.path 1).active ∧ c.stay 2 = 0) :=
  met (by decide +kernel) (by unfold Free NoneOwed; decide +kernel)

/-- Quads that have parted at the loop before: its own entry stands on top of their stacks. -/
theorem test_witness_Loops_mine : Met .loop { plain with len := 3, d := 3, i := 0xFFFFFFF8 }
    (on (fun w => quadIs 0 (fun p => { p with active := 0xE, stack := [waits0 .pending] })
      (quadIs 1 (fun p => { p with active := 0xE, stack := [waits0 .pending] }) (vecIn 3 [(1, 1), (2, 2), (3, 3)] w))))
    (fun s c => Free s c ∧ NoneOwed c ∧ 0 ≤ relative c 0 ∧ relative c 0 < 2 ^ 55 ∧ relative c 0 % 4 = 0
      ∧ (∀ q, q < 2 → (c.path q).stack.head?.map (fun e => (e.kind, e.pcw)) = some (.pending, pcPcw c.next)) ∧ c.stay 0 ≠ 0 ∧ c.stay 1 = 0) :=
  met (by decide +kernel) (by unfold Free NoneOwed; decide +kernel)

/-- No trap of the warp waits, no packing window of its core is open, and no shadow runs. -/
def Calm (s : State) (c : Ctx) : Prop := c.warp.trapWait = none ∧ (s.coreOf c.warp.core).windows = [] ∧ c.warp.paired = false

/-- Quad 0 has a pending path, quad 1 a joined one, quad 2 an exited one, and the others have an empty stack. -/
def stacked (w : Warp) : Warp :=
  quadIs 0 (fun p => { p with active := 0xE, stack := [waits0 .pending] })
    (quadIs 1 (fun p => { p with active := 0xE, stack := [waits0 .joined] })
      (quadIs 2 (fun p => { p with active := 0xE, stack := [waits0 .exited] }) w))

theorem test_witness_PathEnds_join : Met .join plain (on stacked)
    (fun s c => Calm s c ∧ ∃ q, q ∈ c.warp.counted ∧ (q ∈ c.quads → True) ∧ (q ∉ c.quads → (c.warp.quad q).park = .running)) :=
  met (by decide +kernel) (by unfold Calm; exact ⟨by decide +kernel, 0, by decide +kernel⟩)

/-- The path of a quad after `exit` as the statement gives it. -/
def exitEnds (p : Path) : Path :=
  match p.stack with
  | [] => { p with living := 0 }
  | top :: rest =>
    if top.kind = .pending ∧ top.pmask &&& p.living ≠ 0 then
      { p with pc := pcwPc top.pcw, active := top.pmask &&& p.living, stack := { top with kind := .exited, pmask := p.active, pcw := pcPcw p.pc } :: rest }
    else if top.kind = .joined then { p with pc := pcwPc top.pcw + 4, active := top.jmask &&& p.living, stack := rest }
    else { p with active := top.jmask &&& p.living, stack := rest }.pathEnd p.pc true
def exitAfter (c : Ctx) (q : Nat) : Path :=
  let p := { c.path q with living := (c.path q).living &&& ~~~c.taken q, active := (c.path q).active &&& ~~~c.taken q }
  if p.active = 0 then exitEnds p else { p with pc := p.pc + 4 }

/-- Lanes of quad 3 stay, a path of each of quads 0 to 2 goes on, the others end. -/
theorem test_witness_PathEnds_exit : Met .exit { plain with guard := ⟨false, 1⟩ } (on (fun w => stacked (predIs 1 0xFFFF3EEE w)))
    (fun s c => Calm s c ∧ (exitAfter c 7).living = 0
      ∧ ∃ q, q ∈ c.warp.counted ∧ (q ∈ c.quads → (exitAfter c q).living ≠ 0) ∧ (q ∉ c.quads → (c.warp.quad q).park = .running)) :=
  met (by decide +kernel) (by unfold Calm; exact ⟨by decide +kernel, by decide +kernel, 3, by decide +kernel⟩)
theorem test_witness_PathEnds_last : Met .exit plain (with2 (on (fun w => w)))
    (fun s c => Calm s c ∧ c.warp.hidden = false ∧ c.warp.trail = [] ∧ c.quads = c.warp.aliveQuads ∧ (∀ q, q ∈ c.quads → (exitAfter c q).living = 0) ∧ c.warp.dirty = []
      ∧ ∃ v, v ∈ s.warps ∧ v.uid ≠ c.warp.uid ∧ v.block = c.warp.block ∧ v.ended = false) :=
  met (by decide +kernel) (by unfold Calm; decide +kernel)

/-- A quad still has a living pending path. -/
def Pends (c : Ctx) (q : Nat) : Prop := ∃ top rest, (c.path q).stack = top :: rest ∧ top.kind = .pending ∧ top.pmask &&& (c.path q).living ≠ 0

theorem not_pends {c : Ctx} {q : Nat} (h : (match (c.path q).stack with | [] => true | e :: _ => e.kind != .pending) = true) : ¬ Pends c q := by
  rintro ⟨top, rest, h1, h2, -⟩
  rw [h1] at h
  simp [h2] at h

theorem test_witness_Regangs_waits : ∀ e ∈ ([(.rgang, 0), (.rgangHome, 1)] : List (Op × BitVec 6)), Met e.1 { plain with f := e.2 } (on stacked)
    (fun s c => Calm s c ∧ ∃ q, q ∈ c.warp.counted ∧ (q ∈ c.quads → Pends c q) ∧ (q ∉ c.quads → (c.warp.quad q).park = .running)) := by
  intro e he
  simp only [List.mem_cons, List.not_mem_nil, or_false] at he
  rcases he with rfl | rfl <;>
    exact met (by decide +kernel) (by
      unfold Calm
      exact ⟨by decide +kernel, 0, by decide +kernel, fun _ => ⟨waits0 .pending, [], by decide +kernel, rfl, by decide +kernel⟩,
        fun h => absurd (by decide +kernel) h⟩)
theorem test_witness_Regangs_all : ∀ e ∈ ([(.rgang, 0, .rgang), (.rgangHome, 1, .rgangHome)] : List (Op × BitVec 6 × Park)),
    Met e.1 { plain with f := e.2.1 }
      (on (fun w => quadIs 1 (fun p => { p with active := 0xE, stack := [waits0 .joined] })
        (w.onQuad 2 (fun q => { q with gang := 2, park := e.2.2, path := { q.path with pc := 0x50000 } }))))
      (fun s c => Calm s c ∧ c.warp.counted ≠ []
        ∧ ∀ q, q ∈ c.warp.counted → (q ∈ c.quads → ¬ Pends c q) ∧ (q ∉ c.quads → (c.warp.quad q).park = e.2.2)) := by
  intro e he
  simp only [List.mem_cons, List.not_mem_nil, or_false] at he
  rcases he with rfl | rfl <;>
    exact met (by decide +kernel) (by
      unfold Calm
      refine ⟨by decide +kernel, by decide +kernel, fun q hq => ⟨fun h => not_pends ?_, ?_⟩⟩
      · revert q; decide +kernel
      · revert q; decide +kernel)

/-! ### Witnesses: memory -/

/-- A partition of the first 8,192 granules, of clusters 0 and 1, with 4 MiB of each scratchpad; cluster 1 is a margin cluster. -/
def part0 : Partition :=
  { desc := { pid := 0, saveBw := 100, guar := 1, margin := 2, lendTo := 0, hbm := [(0, 8192)], spad := [(0, 4), (0, 4), (0, 4), (0, 4)], ports := [],
              reserved := 0 },
    running := none, since := 0, turn := none }

/-- The placed machine in a partition with a device, whose block holds banks 0 and 1. -/
def onAll (f : Warp → Warp) : State :=
  { on f with vdevs := [device0], parts := [part0], blocks := [{ placeBlock 1 with banks := [3] }] }

/-- A property of every lane of a mask. -/
def EveryLane (m : LaneMask) (p : Nat → Prop) : Prop := ∀ l, l < 32 → m.getLsbD l = true → p l

/-- What a statement about accesses asks of a warp beside its own condition. -/
def Accessing (c : Ctx) : Prop := c.warp.spec = none ∧ c.warp.paired = false

def blkFits (s : State) (c : Ctx) (l : Nat) : Prop := (s.blockAt c.warp.block).holds (c.offset l) c.width = true ∧ c.offset l % c.width = 0
def untagged (s : State) (c : Ctx) (l : Nat) : Prop :=
  ∀ k, k < ceilDiv c.width 4 → ((s.blockAt c.warp.block).tagIn (layoutOf (c.offset l + 4 * k) c.layout) (min c.width 4)).isNone = true
def inWindow (s : State) (c : Ctx) (l : Nat) : Prop :=
  (s.window c.warp.ctx (coreDie c.core)).2 ≠ 0 ∧ c.offset l + c.width ≤ (s.window c.warp.ctx (coreDie c.core)).2 ∧ c.offset l % c.width = 0

theorem ok_all {α : Type} {l : List (Nat × Except Bad α)} (h : l.all (fun r => r.2.toBool) = true) : ∀ r ∈ l, ∃ p, r.2 = .ok p := by
  intro r hr
  have := List.all_eq_true.mp h r hr
  revert this
  cases r.2 <;> simp [Except.toBool]

/-- The last doubleword of block memory, and of a scratchpad window, in lane 31. -/
theorem test_witness_Accesses_ldb : MetIn .ldb { plain with len := 2, d := 2, a := v 4, e := 1 } (onAll (vecIn 4 [(31, 262136)]))
    (fun s c => Accessing c ∧ EveryLane c.lanes (blkFits s c) ∧ c.lanes.getLsbD 31 = true) :=
  met_in (by decide +kernel) (by unfold Accessing EveryLane blkFits; decide +kernel)
theorem test_witness_Accesses_stb : MetIn .stb { plain with len := 2, a := v 4, c := v 6, e := 1 } (onAll (vecIn 4 [(31, 262136)]))
    (fun s c => Accessing c ∧ EveryLane c.real (fun l => blkFits s c l ∧ untagged s c l) ∧ c.real.getLsbD 31 = true) :=
  met_in (by decide +kernel) (by unfold Accessing EveryLane blkFits untagged; decide +kernel)
theorem test_witness_Accesses_ldd : MetIn .ldd { plain with len := 2, d := 2, a := v 4, e := 1 } (onAll (vecIn 4 [(31, 4194296)]))
    (fun s c => Accessing c ∧ EveryLane c.lanes (inWindow s c) ∧ c.lanes.getLsbD 31 = true) :=
  met_in (by decide +kernel) (by unfold Accessing EveryLane inWindow; decide +kernel)
theorem test_witness_Accesses_std : MetIn .std { plain with len := 2, a := v 4, c := v 6, e := 1 } (onAll (vecIn 4 [(31, 4194296)]))
    (fun s c => Accessing c ∧ EveryLane c.real (inWindow s c) ∧ c.real.getLsbD 31 = true) :=
  met_in (by decide +kernel) (by unfold Accessing EveryLane inWindow; decide +kernel)

/-- Atomics of block memory (SCOPE 0) and of device memory (SCOPE 2). -/
theorem test_witness_Accesses_atom : ∀ o ∈ [Op.atom, .red], ∀ x ∈ [{ plain with len := 2, d := if o = .atom then 2 else 0, t := 1, a := v 4, b := v 6 },
      { plain with len := 2, d := if o = .atom then 2 else 0, t := 1, a := v 4, b := v 6, e := 2 }],
    MetIn o x (onAll (vecIn 4 (lanesOf 0x30000)))
      (fun s c => Accessing c ∧ (∀ r ∈ (c.spots s (tyWidth c.ty / 8) .rw c.real).2, ∃ p, r.2 = .ok p)
        ∧ (c.warp.cast = true → c.scope = .blk ∧ c.ty ≠ 3 ∧ c.ty ≠ 15) ∧ c.real = 0xFFFFFFFF) := by
  intro o ho x hx
  simp only [List.mem_cons, List.not_mem_nil, or_false] at ho hx
  unfold Accessing
  rcases ho with rfl | rfl <;> rcases hx with rfl | rfl <;>
    exact met_in (by decide +kernel) ⟨by decide +kernel, ok_all (by decide +kernel), by decide +kernel, by decide +kernel⟩
theorem test_witness_Accesses_mon : MetIn .mon { plain with len := 2, d := 2, a := v 4, e := 2 } (onAll (vecIn 4 (lanesOf 0x30000)))
    (fun s c => Accessing c ∧ (∀ r ∈ (c.spots s (tyWidth c.ty / 8) .r c.lanes).2, ∃ p, r.2 = .ok p) ∧ c.lanes = 0xFFFFFFFF) :=
  met_in (by decide +kernel) (by unfold Accessing; exact ⟨by decide +kernel, ok_all (by decide +kernel), by decide +kernel⟩)
/-- The tiles of device memory, of block memory and of the die's own scratchpad. -/
theorem test_witness_Accesses_tflag : ∀ e ∈ ([0x10, 0x11, 0x14] : List (BitVec 20)),
    MetIn .tflag { plain with len := 2, t := 19, a := v 4, b := v 6, c := v 8, e := e } (onAll (vecIn 4 (lanesOf 0x50000)))
      (fun s c => Accessing c ∧ (∀ r ∈ (checkLanes (tflagLane c) s (laneList c.real)).2, ∃ p, r.2 = .ok p) ∧ c.real = 0xFFFFFFFF) := by
  intro e he
  simp only [List.mem_cons, List.not_mem_nil, or_false] at he
  unfold Accessing
  rcases he with rfl | rfl | rfl <;> exact met_in (by decide +kernel) ⟨by decide +kernel, ok_all (by decide +kernel), by decide +kernel⟩

/-- A mold access lies in block memory, in no barrier word, and its bank is held. -/
def moldFits (s : State) (c : Ctx) (o n align : Nat) : Prop :=
  c.any = true ∧ (s.blockAt c.warp.block).holds o n = true ∧ c.moldOffset % align = 0
def moldFree (s : State) (c : Ctx) (o n lay : Nat) : Prop :=
  ∀ p ∈ unitParts (s.blockAt c.warp.block) o n lay, ((s.blockAt c.warp.block).tagIn p.name 16).isNone = true
def bankHeld (s : State) (c : Ctx) : Prop := c.bankOperand ≤ 63 ∧ ((s.blockAt c.warp.block).banksOn c.core).getLsbD c.bankOperand = true

theorem test_witness_Accesses_lines : ∀ o ∈ [Op.mload, .mstore],
    MetIn o { plain with len := 2, a := u 0, b := u 1, c := u 2, e := 0xF800 } (onAll (fun w => uniIn 0 258048 (uniIn 2 1 w)))
      (fun s c => Accessing c ∧ moldFits s c c.moldOffset (128 * (bitField c.x.e 11 5 + 1)) 128
        ∧ moldFree s c c.moldOffset (128 * (bitField c.x.e 11 5 + 1)) (bitField c.x.e 9 2) ∧ bankHeld s c ∧ bitField c.x.e 11 5 = 31) := by
  intro o ho
  simp only [List.mem_cons, List.not_mem_nil, or_false] at ho
  unfold Accessing moldFits moldFree bankHeld
  rcases ho with rfl | rfl <;> exact met_in (by decide +kernel) (by decide +kernel)
theorem test_witness_Accesses_mbind : MetIn .mbind { plain with len := 1, d := 7, a := u 0, b := v 255 } (onAll (uniIn 0 262112))
    (fun s c => Accessing c ∧ moldFits s c c.moldOffset 32 32) :=
  met_in (by decide +kernel) (by unfold Accessing moldFits; decide +kernel)
theorem test_witness_Accesses_image : ∀ e ∈ ([1, 2, 3] : List (BitVec 20)), ∀ o ∈ [Op.msave, .mrest],
    MetIn o { plain with len := 2, a := u 0, b := v 255, e := e } (onAll (fun w => uniIn 0 0x1000 (bound w)))
      (fun s c => Accessing c ∧ moldFits s c (c.moldOffset + (imageRange (bitField c.x.e 0 2)).1) (imageRange (bitField c.x.e 0 2)).2 64
        ∧ moldFree s c (c.moldOffset + (imageRange (bitField c.x.e 0 2)).1) (imageRange (bitField c.x.e 0 2)).2 0) := by
  intro e he o ho
  simp only [List.mem_cons, List.not_mem_nil, or_false] at he ho
  unfold Accessing moldFits moldFree
  rcases he with rfl | rfl | rfl <;> rcases ho with rfl | rfl <;> exact met_in (by decide +kernel) (by decide +kernel)

/-- A sparse binding of 64 rows. -/
def sparse64 : BindRec := { record0 with flags := 1, bound := 1 }
theorem test_witness_Accesses_mbmap : ∃ bits, MetIn .mbmap { plain with len := 1, d := 2, a := u 0, b := v 255 }
    (onAll (fun w => { w with slots := List.replicate 7 (some ⟨sparse64, [], [], 0, false⟩) }))
    (fun s c => Accessing c ∧ ∃ b, c.warp.slotOf (c.x.d.toNat % 8) = some b ∧ b.record.sparse = true ∧ bitAt c.x.e 0 = false ∧ b.record.rows = bits
      ∧ moldFits s c c.moldOffset (bits / 8) 32) :=
  ⟨sparse64.rows, met_in (by decide +kernel) (by
    unfold Accessing moldFits
    exact ⟨by decide +kernel, ⟨sparse64, [], [], 0, false⟩, by decide +kernel, by decide +kernel, by decide +kernel, rfl, by decide +kernel⟩)⟩

/-- A stack of 4,096 bytes whose last line is cached and dirty. -/
def cached (w : Warp) : Warp := { w with lines := [0, 31], dirty := [0, 31] }

theorem test_witness_StackAccesses_ldk : Met .ldk { plain with len := 2, d := 2, a := v 4 } (onAll (fun w => cached (vecIn 4 [(31, 4092)] w)))
    (fun s c => c.warp.spec = none ∧ c.warp.badLines = [] ∧ EveryLane c.lanes (fun l => (c.offset l + c.width ≤ (s.stackOf c.warp).2 ∧ c.offset l % c.width = 0)
      ∧ c.offset l / 128 ∈ c.warp.lines ∧ ∀ k, k < c.words → layoutOf (c.offset l + 4 * k) c.layout / 128 ∈ c.warp.dirty) ∧ c.lanes.getLsbD 31 = true) :=
  met (by decide +kernel) (by unfold EveryLane; decide +kernel)
theorem test_witness_StackAccesses_stk : Met .stk { plain with len := 2, a := v 4, c := v 6 } (onAll (fun w => cached (vecIn 4 [(31, 4092)] w)))
    (fun s c => c.warp.spec = none ∧ c.warp.paired = false ∧ EveryLane c.real (fun l => (c.offset l + c.width ≤ (s.stackOf c.warp).2 ∧ c.offset l % c.width = 0)
      ∧ c.offset l / 128 ∈ c.warp.lines) ∧ c.real.getLsbD 31 = true) :=
  met (by decide +kernel) (by unfold EveryLane; decide +kernel)
theorem test_witness_StackAccesses_fill : ∃ (s : State) (w : Warp) (line key : Nat), s.warpOf 2 = some w ∧ w.uid = 2 ∧ w.hidden = false ∧ line ∉ w.lines
    ∧ ((s.residents w.core).flatMap (fun v => v.lines)).length < 512
    ∧ (s.translate w.core w.ctx ((s.stackOf w).1 + 128 * line) .rw).2.toOption = some key
    ∧ (s.translate w.core w.ctx ((s.stackOf w).1 + 128 * line) .rw).1.rangeBad key 128 = false :=
  ⟨onAll cached, warpIn (onAll cached) 2, 5, 0x100280, by decide +kernel⟩

/-- A run of bytes, and an access of it, of the warp's place 9 in issue order. -/
def part (bytes : Nat) : Part := ⟨0x50008, bytes, 0xFEDCBA9876543210, 0x50008, 0⟩
def one (space : Space) (kind : AccessKind) (bytes lane : Nat) : Access :=
  { store4 with seq := 9, lane, quad := lane / 4, space, kind, parts := [part bytes] }

/-- What the statement asks of an access that is performed. -/
def Performs (s : State) (uid i : Nat) (w : Warp) (a : Access) (p : Part) : Prop :=
  s.warpOf uid = some w ∧ w.pending[i]? = some a ∧ s.mayAct w a = true ∧ a.remote = none ∧ a.parts = [p] ∧ p.bytes ≤ 8
    ∧ a.space ≠ .stack ∧ s.bankErrors = [] ∧ s.groups = [] ∧ Busy s w ∧ (a.space = .dev → s.rangeBad p.addr p.bytes = false) ∧ (∀ t ∈ w.late, t.1 ≠ a.seq)

theorem test_witness_AccessesPerformed_store : ∀ sp ∈ [Space.blk, .spad, .dev], ∃ s w a p, Performs s 2 0 w a p ∧ a.space = sp ∧ a.kind = .store := by
  intro sp hs
  simp only [List.mem_cons, List.not_mem_nil, or_false] at hs
  unfold Performs Busy
  rcases hs with rfl | rfl | rfl
  · exact ⟨onAll (fun w => { w with pending := [one .blk .store 8 31] }), _, one .blk .store 8 31, part 8, ⟨rfl, rfl, by decide +kernel⟩, rfl, rfl⟩
  · exact ⟨onAll (fun w => { w with pending := [one .spad .store 8 31] }), _, one .spad .store 8 31, part 8, ⟨rfl, rfl, by decide +kernel⟩, rfl, rfl⟩
  · exact ⟨onAll (fun w => { w with pending := [one .dev .store 8 31] }), _, one .dev .store 8 31, part 8, ⟨rfl, rfl, by decide +kernel⟩, rfl, rfl⟩

/-- The warp with one access pending, and its register awaited. -/
def awaits (a : Access) (w : Warp) : Warp := { w with pending := [a], scored := [⟨9, 0x80, [(.vec, 254)], [], []⟩] }

theorem test_witness_AccessesPerformed_load : ∃ s w a p e, Performs s 2 0 w a p ∧ a.kind = .load [254] true ∧ p.laid = 0 ∧ 0 < p.bytes ∧ p.bytes ≤ 4
    ∧ w.pending.length = 1 ∧ s.channels = [] ∧ w.scored.filter (fun e => e.seq == a.seq) = [e] ∧ e.vals = [] ∧ e.early = [] ∧ a.lane = 31 := by
  unfold Performs Busy
  exact ⟨onAll (awaits (one .blk (.load [254] true) 1 31)), _, one .blk (.load [254] true) 1 31, part 1, ⟨9, 0x80, [(.vec, 254)], [], []⟩,
    ⟨rfl, rfl, by decide +kernel⟩, rfl, rfl, by decide, by decide, rfl, rfl, rfl, rfl, rfl, rfl⟩
theorem test_witness_AccessesPerformed_atom : ∀ n ∈ [4, 8], ∃ s w a p e, Performs s 2 0 w a p ∧ a.kind = .atom .add 1 5 0 (some (255 - n / 4)) ∧ p.bytes = n
    ∧ w.pending.length = 1 ∧ s.channels = [] ∧ w.scored.filter (fun e => e.seq == a.seq) = [e] ∧ e.vals = [] ∧ e.early = [] ∧ a.lane = 31 := by
  intro n hn
  simp only [List.mem_cons, List.not_mem_nil, or_false] at hn
  unfold Performs Busy
  rcases hn with rfl | rfl
  · exact ⟨onAll (awaits (one .dev (.atom .add 1 5 0 (some 254)) 4 31)), _, one .dev (.atom .add 1 5 0 (some 254)) 4 31, part 4,
      ⟨9, 0x80, [(.vec, 254)], [], []⟩, ⟨rfl, rfl, by decide +kernel⟩, rfl, rfl, rfl, rfl, rfl, rfl, rfl, rfl⟩
  · exact ⟨onAll (awaits (one .dev (.atom .add 1 5 0 (some 253)) 8 31)), _, one .dev (.atom .add 1 5 0 (some 253)) 8 31, part 8,
      ⟨9, 0x80, [(.vec, 254)], [], []⟩, ⟨rfl, rfl, by decide +kernel⟩, rfl, rfl, rfl, rfl, rfl, rfl, rfl, rfl⟩

/-- A fence with an earlier store of its scope pending, and with none. -/
theorem test_witness_FencesAndWaits_fence : ∀ e ∈ ([(.fenceBlk, 0), (.fenceClu, 1), (.fenceDev, 2), (.fenceSys, 3)] : List (Op × BitVec 6)),
    ∀ l ∈ [[], [{ store4 with space := .blk }]], Met e.1 { plain with f := e.2 } (onAll (fun w => { w with pending := l }))
      (fun s c => c.any = true ∧ (∀ a ∈ c.warp.pending, a.seq < s.uids) ∧ ∀ x ∈ c.warp.waits, x.seq < s.uids) := by
  intro e he l hl
  simp only [List.mem_cons, List.not_mem_nil, or_false] at he hl
  rcases he with rfl | rfl | rfl | rfl <;> rcases hl with rfl | rfl <;> exact met (by decide +kernel) (by decide +kernel)
theorem test_witness_FencesAndWaits_tick : Met .fenceTick { plain with f := 4 } (onAll (fun w => w)) (fun _ c => c.any = true ∧ c.warp.tick = none) :=
  met (by decide +kernel) (by decide +kernel)
theorem test_witness_FencesAndWaits_rfence : Met .rfence plain (onAll (fun w => { w with pending := [one .dev (.load [3] false) 4 0] }))
    (fun s c => c.any = true ∧ (∀ a ∈ c.warp.pending, a.kind.writes = false)
      ∧ ∀ o ∈ s.channels, o.warp = c.warp.uid → o.access.kind.writes = false) := met (by decide +kernel) (by decide +kernel)
theorem test_witness_FencesAndWaits_wait : MetIn .wait { plain with len := 2, d := 2, a := v 4, b := v 6, e := 2 } (onAll (vecIn 4 (lanesOf 0x50000)))
    (fun s c => c.real ≠ 0 ∧ ∀ r ∈ (c.spots s (tyWidth c.ty / 8) .r c.real).2, ∃ p, r.2 = .ok p) :=
  met_in (by decide +kernel) ⟨by decide +kernel, ok_all (by decide +kernel)⟩

/-- A barrier word at offset 8 of the block, tagged, with a value; and the block then. -/
def barred (word : Nat) (tagged : Bool) : State :=
  { onAll (fun w => uniIn 1 8 w) with
    bmem := if word = 0 then [] else Memory.write [] 8 8 word, blocks := [{ placeBlock 1 with tags := if tagged then [(1, true)] else [] }] }

/-- What the statement asks of a `bar` at the word at offset 8. -/
def AtBar (s : State) (c : Ctx) (b : Block) (l o n : Nat) : Prop :=
  c.quads = c.warp.counted ∧ (∀ q, q ∈ c.quads → (c.path q).pc = c.pc) ∧ c.real.getLsbD l = true ∧ l < 32 ∧ (∀ k, k < l → c.real.getLsbD k = false)
    ∧ barOperands c.x c.warp.regs l = (o, n) ∧ s.blockOf c.warp.block = some b ∧ b.holds o 8 = true ∧ o % 8 = 0
    ∧ (c.warp.pending = [] ∧ c.warp.waits = [] ∧ c.warp.tick = none ∧ s.channels = []) ∧ c.warp.spec = none ∧ c.warp.paired = false
    ∧ c.warp.hidden = false ∧ c.warp.trapWait = none
    ∧ c.warp.barrier = none ∧ (s.coreOf c.warp.core).windows = [] ∧ s.bankErrors = [] ∧ s.groups = []

/-- With nothing outstanding a `bar` may be performed whenever its warp reaches it. -/
theorem at_bar_may {s : State} {c : Ctx} {b : Block} {l o n : Nat} (h : AtBar s c b l o n) (k : Nat) :
    s.mayPerform c.warp (c.warp.barAccess b c.quads c.op c.x k) = true := by
  obtain ⟨-, -, -, -, -, -, -, -, -, ⟨hp, hw, ht, hc⟩, -⟩ := h
  simp [State.mayPerform, Warp.mayPerform, Warp.barAccess, hp, hw, ht, hc]

theorem at_bar {s : State} {c : Ctx} {b : Block} {l o n : Nat} {p : Prop} (h : AtBar s c b l o n) (hp : p) :
    AtBar s c b l o n ∧ (∀ k, s.uids ≤ k → s.mayPerform c.warp (c.warp.barAccess b c.quads c.op c.x k) = true) ∧ p :=
  ⟨h, fun k _ => at_bar_may h k, hp⟩

/-- The words: GEN, QUOTA, ARRIVED and DEBT. -/
def barWord (gen quota arrived debt : Nat) : Nat := gen * 2 ^ 48 + quota * 2 ^ 38 + arrived * 2 ^ 28 + debt

theorem test_witness_BlockBarriers : ∀ e ∈ ([(.barInit, 0, true, 1023, 0, false), (.barInit, 0, true, 0, barWord 3 2 0 0, true),
      (.barArrive, 1, false, 0, barWord 0xFFFF 1 0 0, true), (.barArrive, 1, false, 0, barWord 5 1023 1021 0, true),
      (.barSync, 3, false, 0, barWord 5 2 1 0, true), (.barSync, 3, false, 0, barWord 5 2 1 4096, true),
      (.barSyncSpec, 4, false, 0, barWord 5 2 1 0, true), (.barSyncSpec, 4, false, 0, barWord 5 2 0 0, true),
      (.barWait, 2, true, 5, barWord 5 2 0 0, true), (.barWait, 2, true, 4, barWord 5 2 0 0, true),
      (.barDebt, 5, true, 1, barWord 5 2 0 0x7FFFFFE, true)] : List (Op × BitVec 6 × Bool × Nat × Nat × Bool)),
    Met e.1 { plain with len := 3, f := e.2.1, a := u 1, b := if e.2.2.1 then u 255 else v 0, i := BitVec.ofNat 32 e.2.2.2.1 } (barred e.2.2.2.2.1 e.2.2.2.2.2)
      (fun s c => AtBar s c { placeBlock 1 with tags := if e.2.2.2.2.2 then [(1, true)] else [] } 0 8 e.2.2.2.1
        ∧ (∀ k, s.uids ≤ k → s.mayPerform c.warp (c.warp.barAccess { placeBlock 1 with tags := if e.2.2.2.2.2 then [(1, true)] else [] } c.quads c.op c.x k) = true)
        ∧ s.bmem.read ((placeBlock 1).key 8) 8 = e.2.2.2.2.1 ∧ ∀ v ∈ s.warps, v.block = c.warp.block → v.barrier.isNone = true) := by
  intro e he
  simp only [List.mem_cons, List.not_mem_nil, or_false] at he
  rcases he with rfl | rfl | rfl | rfl | rfl | rfl | rfl | rfl | rfl | rfl | rfl <;>
    exact met (by decide +kernel) (at_bar (by unfold AtBar; decide +kernel) (by decide +kernel))

theorem test_witness_MoldBanks_malloc : ∀ n ∈ ([0, 1, 64] : List Word), Met .malloc { plain with len := 1, d := 2, b := u 0 } (onAll (uniIn 0 n))
    (fun _ c => c.any = true ∧ c.warp.paired = false ∧ c.b 0 = n.toNat ∧ c.b 0 ≤ 64 ∧ (bitAt c.x.e 0 = true → c.b 0 % 2 = 0)) := by
  intro n hn
  simp only [List.mem_cons, List.not_mem_nil, or_false] at hn
  rcases hn with rfl | rfl | rfl <;> exact met (by decide +kernel) (by decide +kernel)

/-- A request of 62 banks at the head of the core's queue, beside the two that the block holds. -/
def queued : State :=
  { onAll (fun w => w.onQuads quads8 (fun q => { q with park := .malloc })) with
    cores := [{ Core.reset 0 with mallocs := [⟨2, 62, false, 2, 0x40000⟩] }] }
theorem test_witness_MoldBanks_grant : ∃ (s : State) (core : Nat) (r : MallocReq) (rest : List MallocReq) (w : Warp) (b : Block),
    (s.coreOf core).mallocs = r :: rest ∧ r.pair = false ∧ s.warpOf r.warp = some w ∧ s.blockOf w.block = some b ∧ b.uid = w.block
    ∧ (∃ i, b.cores.findIdx? (fun c => c == core) = some i ∧ i < b.banks.length) ∧ w.core = core ∧ w.aliveQuads ≠ [] ∧ w.ended = false
    ∧ w.trapWait = none ∧ (s.coreOf core).windows = [] ∧ w.barrier = none
    ∧ (∃ q, q ∈ w.counted ∧ ((w.quad q).park = .malloc ∨ (w.quad q).park = .running)) ∧ r.n ≤ (bankNumbers (s.freeBanks core)).length :=
  ⟨queued, 0, ⟨2, 62, false, 2, 0x40000⟩, [], warpIn queued 2, { placeBlock 1 with banks := [3] }, by decide +kernel, by decide +kernel, by decide +kernel,
    by decide +kernel, by decide +kernel, ⟨0, by decide +kernel⟩, by decide +kernel⟩

theorem test_witness_MoldBanks_mfree : Met .mfree { plain with len := 1, a := u 0 } (onAll (uniIn 0 2))
    (fun s c => c.any = true ∧ c.warp.paired = false
      ∧ (∀ k, k < 64 → (c.a 0).testBit k = true → ((s.blockAt c.warp.block).banksOn c.core).getLsbD k = true)
      ∧ (∀ v ∈ s.warps ++ s.shadows, v.block = c.warp.block → v.core = c.core → v.ended = false → v.usesBanks (BitVec.ofNat 64 (c.a 0)) = false)
      ∧ ∃ b, s.blockOf c.warp.block = some b ∧ ∃ i, b.cores.findIdx? (fun k => k == c.core) = some i ∧ i < b.banks.length) :=
  met (by decide +kernel) ⟨by decide +kernel, by decide +kernel, by decide +kernel, by decide +kernel, { placeBlock 1 with banks := [3] }, by decide +kernel,
    0, by decide +kernel⟩
theorem test_witness_MoldBanks_mfill : Met .mfill { plain with len := 2, a := v 4, e := 0x1F81 } (onAll (fun w => w))
    (fun s c => c.warp.paired = false ∧ bankHeld s c ∧ c.bankOperand = 1 ∧ c.real = 0xFFFFFFFF) :=
  met (by decide +kernel) (by unfold bankHeld; decide +kernel)
theorem test_witness_MoldBanks_munbind : ∀ d ∈ ([1, 7] : List (BitVec 8)), Met .munbind { plain with len := 1, d := d } (onAll bound)
    (fun _ c => c.any = true ∧ 0 < c.x.d.toNat % 8 ∧ c.x.d.toNat % 8 ≤ c.warp.slots.length) := by
  intro d hd
  simp only [List.mem_cons, List.not_mem_nil, or_false] at hd
  rcases hd with rfl | rfl <;> exact met (by decide +kernel) (by decide +kernel)
theorem test_witness_MoldBanks_mbmap : ∃ bd, Met .mbmap { plain with len := 2, d := 2, e := 1 }
    (onAll (fun w => { w with slots := List.replicate 7 (some ⟨sparse64, [], [], 0, false⟩) }))
    (fun _ c => c.any = true ∧ 0 < c.x.d.toNat % 8 ∧ c.warp.slotOf (c.x.d.toNat % 8) = some bd ∧ bd.record.sparse = true ∧ bitAt c.x.e 0 = true) :=
  ⟨⟨sparse64, [], [], 0, false⟩, met (by decide +kernel) (by decide +kernel)⟩

/-! ### Witnesses: copies -/

/-- A tensor of 16 by 16 words of type b32, a row of 64 bytes after another, at an address; its box is some whole rows of it. -/
def square (base : Nat) (rows : Nat := 16) : List Byte :=
  leBytes 8 base ++ [0, 2, 0, 0] ++ leBytes 4 0 ++ (leBytes 8 16 ++ leBytes 8 16 ++ leBytes 8 1 ++ leBytes 8 1 ++ leBytes 8 1 ++ leBytes 8 1)
    ++ (leBytes 8 4 ++ leBytes 8 64 ++ leBytes 32 0) ++ (leBytes 4 16 ++ leBytes 4 rows ++ leBytes 4 1 ++ leBytes 4 1 ++ leBytes 4 1 ++ leBytes 4 1)
    ++ leBytes 8 0 ++ (leBytes 2 1 ++ leBytes 2 1 ++ leBytes 2 1 ++ leBytes 2 1 ++ leBytes 2 1 ++ leBytes 2 1) ++ leBytes 36 0

/-- The cells of some bytes at an address: those that are not zero. -/
def listed (a : Nat) (l : List Byte) : Memory := ((l.zipIdx a).filter (fun c => c.1 != 0)).map (fun c => (c.2, c.1))

/-- A parameter block: NIDX, IDXCTL, IDXREG, PERM and VTO. -/
def block (nidx ctl reg perm vto : Nat) : List Byte :=
  leBytes 24 0 ++ leBytes 4 0 ++ leBytes 4 nidx ++ leBytes 1 ctl ++ leBytes 1 reg ++ leBytes 3 perm ++ leBytes 1 0 ++ leBytes 2 0 ++ leBytes 4 0
    ++ leBytes 4 vto ++ leBytes 16 0

/-- Identity and exchange of the first two dimensions (20 Table 20-3). -/
def permId : Nat := 0 + 8 * 1 + 64 * 2 + 512 * 3 + 4096 * 4 + 32768 * 5
def permTurn : Nat := 1 + 8 * 0 + 64 * 2 + 512 * 3 + 4096 * 4 + 32768 * 5

/-- The record in the core's cache of shape records, a block in block memory at 0, and the registers that name them. -/
def copyState (pb : List Byte) (rows : Nat := 16) : State :=
  let s := onAll (fun w => uniIn 4 0x51000 w)
  { s with cores := [{ Core.reset 0 with shapes := [⟨none, 1, 0x51000, square 0x60000 rows⟩] }], bmem := listed 0 pb }

/-- The fields of a copy on sprue 7. -/
def copyFields (f : BitVec 6) : Fields := { plain with len := 2, f, a := u 4, b := u 4, c := u 8, e := 7 }

/-- What the statement asks of a copy instruction. -/
def CopyReady (s t s' : State) (c : Ctx) (kind : CopyKind) (pb src dst : List Byte) (extra : Nat) : Prop :=
  Plain s c ∧ (s.coreOf c.core).sprues.length = 8
    ∧ (∀ f, s.ownFault c.core c.sprueField c.warp.uid = some f → f.told = true)
    ∧ t.readCopy c kind = (s', .ok (pb, src, dst)) ∧ (s'.copyCheck c.warp.ctx c.sprueField (c.ask kind pb src dst extra)).isNone = true

/-- The same as one computation. -/
def copyOk (s : State) (o : Op) (x : Fields) (kind : CopyKind) (extra : Nat) (p : Ctx → Bool) : Bool :=
  match readied s o x with
  | none => false
  | some (t, c) =>
    c.any && !c.warp.paired && s.bankErrors.isEmpty && s.groups.isEmpty && (s.coreOf c.core).sprues.length == 8
      && (s.ownFault c.core c.sprueField c.warp.uid).isNone && p c
      && match t.readCopy c kind with
        | (s', .ok (pb, src, dst)) => (s'.copyCheck c.warp.ctx c.sprueField (c.ask kind pb src dst extra)).isNone
        | _ => false

/-- A copy instruction reaches its effect with its block and its records in order. -/
def CopyMet (s : State) (o : Op) (x : Fields) (kind : CopyKind) (extra : Nat) (p : Ctx → Bool) : Prop :=
  ∃ t c s' pb src dst, Reaches o x s t c ∧ CopyReady s t s' c kind pb src dst extra ∧ p c = true

theorem copy_met {s : State} {o : Op} {x : Fields} {kind : CopyKind} {extra : Nat} {p : Ctx → Bool} (h : copyOk s o x kind extra p = true) :
    CopyMet s o x kind extra p := by
  unfold copyOk at h
  split at h
  · cases h
  next t c hr =>
    rw [Bool.and_eq_true] at h
    obtain ⟨h1, h2⟩ := h
    split at h2
    next s' pb src dst hg =>
      simp only [Bool.and_eq_true, Bool.not_eq_true', Option.isNone_iff_eq_none, List.isEmpty_iff, beq_iff_eq] at h1
      obtain ⟨⟨⟨⟨⟨⟨ha, hs⟩, hb⟩, hgr⟩, hl⟩, hf⟩, hp⟩ := h1
      exact ⟨t, c, s', pb, src, dst, reaches_of hr, ⟨⟨ha, hs, sound_of hb hgr⟩, hl, fun f h => (by rw [hf] at h; cases h), hg, h2⟩, hp⟩
    · cases h2

theorem test_witness_Copies :
    let room (s : State) (c : Ctx) : Bool := (s.sprue c.core c.sprueField).length < 16
    let met (o : Op) (kind : CopyKind) (f : BitVec 6) (pb : List Byte) : Prop :=
      CopyMet (copyState pb) o (copyFields f) kind 0 (room (copyState pb))
    met .cp .cp 0 (block 0 0 0 0 0) ∧ met .cpg .cpg 0 (block 16 0x42 10 0 0) ∧ met .cps .cps 0 (block 16 0x42 10 0 0)
      ∧ met .cpt (.cpt false) 0 (block 0 0 0 permTurn 0) ∧ met .cpt (.cpt true) 1 (block 0 0 0 permTurn 0)
      ∧ CopyMet (copyState (block 0 0 0 0 0x105) 1) .cpv (copyFields 0) (.cpv false) 0 (room (copyState (block 0 0 0 0 0x105) 1)) :=
  ⟨copy_met (by decide +kernel), copy_met (by decide +kernel), copy_met (by decide +kernel), copy_met (by decide +kernel),
    copy_met (by decide +kernel), copy_met (by decide +kernel)⟩

/-- A living warp of the block beside the issuing one. -/
def anotherLives (s : State) (c : Ctx) : Bool := s.warps.any (fun v => v.block == c.warp.block && v.aliveQuads != [] && v.uid != c.warp.uid)

/-- The first `cpc` of a block of two warps, and of a block of one. -/
theorem test_witness_Copies_cpc :
    let s := copyState (block 0 0 0 0 0)
    s.cpcs = [] ∧ CopyMet (with2 s) .cpc (copyFields 0) .cpc 0 (fun c => anotherLives (with2 s) c)
      ∧ CopyMet s .cpc (copyFields 0) .cpc 0 (fun c => !anotherLives s c && decide ((s.sprue c.core c.sprueField).length < 16)) :=
  ⟨rfl, copy_met (by decide +kernel), copy_met (by decide +kernel)⟩

/-- A command of the second warp, and a `cpc` that it has opened; with a third warp the block has one slice more to give. -/
def command (uid : Nat) (work : CmdWork) : Command := Command.make uid (Warp.fresh 3 0 1 1 1 1 0 0 255 64 0x40000 0 0) (placeBlock 1) Routes.none work
def shape0 : Shape := Shape.ofBytes (square 0x60000)
def opened : OpenCpc :=
  { core := 0, named := (0x51000, 0x51000), sprue := 7, given := [(3, 0x40000, 0xFF)],
    cmd := command 1 (.copy .cpc shape0 shape0 [[0, 0, 0, 0, 0, 0]] ⟨none, 0, 0, 0⟩ [] 0 0) }
def openState (more : List Warp) : State :=
  let s := with2 (copyState (block 0 0 0 0 0))
  { s with cpcs := [opened], warps := s.warps ++ more }
theorem test_witness_Copies_cpc_given :
    let joins (c : Ctx) : Bool :=
      opened.cmd.block == c.warp.block && opened.given.all (fun g => g.1 != c.warp.uid) && opened.sprue == c.sprueField && opened.core == c.core
        && opened.named == (c.a 0, c.b 0)
    let missing (s : State) (c : Ctx) : Bool :=
      s.warps.any (fun v => v.block == c.warp.block && v.aliveQuads != [] && v.uid != c.warp.uid && opened.given.all (fun g => g.1 != v.uid))
    let third : List Warp := [Warp.fresh 4 0 2 1 1 2 0 0 255 64 0x40000 0 0]
    CopyMet (openState []) .cpc (copyFields 0) .cpc opened.bytes 
        (fun c => joins c && !missing (openState []) c && decide (((openState []).sprue c.core c.sprueField).length < 16))
      ∧ CopyMet (openState third) .cpc (copyFields 0) .cpc opened.bytes (fun c => joins c && missing (openState third) c) :=
  ⟨copy_met (by decide +kernel), copy_met (by decide +kernel)⟩

/-- The sprue masks of all sprues, and a command of the issuing warp at the head of sprue 7, with and without a fault. -/
def withHead (fault : Option CmdFault) : State :=
  { onAll (fun w => w) with
    cores := [{ Core.reset 0 with sprues := [[], [], [], [], [], [], [], [{ command 1 (.feed 1 0 0 0 0 false) with warp := 2, fault }]] }] }
theorem test_witness_Copies_qfence : Met .qfence { plain with len := 1, a := v 0xFF } (onAll (fun w => w))
    (fun s c => Plain s c ∧ (s.coreOf c.core).sprues.length = 8 ∧ (∀ q, q ∈ c.maskSprues → (s.sprue c.core q).length < 16) ∧ c.maskSprues.length = 8) :=
  met (by decide +kernel) ⟨plain_of (by decide +kernel), by decide +kernel⟩
theorem test_witness_Copies_qwait : Met .qwait { plain with len := 1, a := v 0x80 } (withHead none)
    (fun s c => Plain s c ∧ (∀ q, q ∈ c.maskSprues → s.ownFault c.core q c.warp.uid = none)
      ∧ ∃ q x, q ∈ c.maskSprues ∧ x ∈ s.sprue c.core q ∧ x.warp = c.warp.uid ∧ x.uid < s.uids ∧ ∀ m, x.work ≠ .qfence m) :=
  met (by decide +kernel) ⟨plain_of (by decide +kernel), by decide +kernel, 7, { command 1 (.feed 1 0 0 0 0 false) with warp := 2 }, by decide +kernel,
    by decide +kernel, by decide +kernel, by decide +kernel, by simp [command, Command.make]⟩
theorem test_witness_Copies_qwait_free : Met .qwait { plain with len := 1, a := v 0x7F } (withHead none)
    (fun s c => Plain s c ∧ ∀ q, q ∈ c.maskSprues → s.sprue c.core q = []) := met (by decide +kernel) ⟨plain_of (by decide +kernel), by decide +kernel⟩
theorem test_witness_Copies_qwaitReplay : Met .qwaitReplay { plain with len := 1, f := 1, a := v 0x80 } (withHead (some ⟨6, 0, 0, 0, true⟩))
    (fun s c => Plain s c ∧ (s.coreOf c.core).sprues.length = 8 ∧ 7 ∈ c.maskSprues ∧ s.ownFault c.core 7 c.warp.uid ≠ none) :=
  met (by decide +kernel) ⟨plain_of (by decide +kernel), by decide +kernel⟩
theorem test_witness_Copies_qwaitDiscard : Met .qwaitDiscard { plain with len := 1, f := 2, a := v 0x80 } (withHead (some ⟨6, 0, 0, 0, true⟩))
    (fun s c => Plain s c ∧ (s.coreOf c.core).sprues.length = 8 ∧ (∀ q, q ∈ c.quads → (c.warp.quad q).park = .running)
      ∧ (s.events.filter (fun e => e.1 == coreDie c.core)).length + c.maskSprues.length ≤ 4096 ∧ s.ownFault c.core 7 c.warp.uid ≠ none) :=
  met (by decide +kernel) ⟨plain_of (by decide +kernel), by decide +kernel⟩

/-! ### Witnesses: the ladle and the die -/

/-- What a computation says of the readied instruction. -/
theorem met_bool {o : Op} {x : Fields} {s : State} {p : State → Ctx → Bool} (h : (readied s o x).any (fun r => p r.1 r.2) = true) :
    MetIn o x s (fun t c => p t c = true) := by
  cases hr : readied s o x with
  | none => rw [hr] at h; cases h
  | some r => rw [hr] at h; exact ⟨r.1, r.2, reaches_of hr, h⟩

/-- `Plain`, as a computation (`plain_of` says that it gives it). -/
def plainB (s : State) (c : Ctx) : Bool := c.any && !c.warp.paired && s.bankErrors.isEmpty && s.groups.isEmpty
def calmB (s : State) (c : Ctx) : Bool := c.warp.waits == [] && s.warps.all (fun v => v.quads.all (fun q => q.park != .mnisect && q.park != .mnopen))

/-- A job record (08 Table 8-4): OUT, SPILL and RUNTAB in device memory, one run, two streams, and an operation. -/
def jobBytes (op : Nat) : List Byte :=
  leBytes 8 0x60000 ++ leBytes 8 100 ++ leBytes 8 0x70000 ++ leBytes 8 4096 ++ leBytes 8 0x80000 ++ leBytes 4 1 ++ [BitVec.ofNat 8 op, 16, 0, 0, 2, 0]
    ++ leBytes 78 0
/-- A job opened on it at 0x51000, whose ladle fields are written. -/
def job (uid op status : Nat) : Job :=
  { Job.ofBytes uid 0x51000 (Warp.fresh 2 0 0 1 1 0 0 0 255 64 0x40000 0 0) (placeBlock 1) Routes.none (jobBytes op) with status, writes := [] }
def ladle (jobs : List Job) : State := { onAll (fun w => uniIn 4 0x51000 (vecIn 6 (lanesOf 7) w)) with jobs }

/-- With fewer than 16 jobs open on the ladle, and with 16. -/
theorem test_witness_LadleInstructions_mnopen :
    let s0 : State := { ladle [] with dev := (ladle []).dev ++ listed 0x51000 (jobBytes 0) }
    let full : State := { s0 with jobs := List.replicate 16 { job 1 0 0 with name := 0x52000 } }
    let reads (s : State) (n : Nat) (t : State) (c : Ctx) : Bool :=
      plainB s c && (s.jobNamed c.warp.ctx (c.a 0)).isNone && (s.jobs.filter (fun j => j.cluster == coreCluster c.core)).length == n
        && match t.readOpen c with | (_, .ok (_, l)) => !jobBad l | _ => false
    MetIn .mnopen { plain with len := 2, a := u 4, c := v 255 } s0 (fun t c => reads s0 0 t c = true)
      ∧ MetIn .mnopen { plain with len := 2, a := u 4, c := v 255 } full (fun t c => reads full 16 t c = true) :=
  ⟨met_bool (by decide +kernel), met_bool (by decide +kernel)⟩

/-- The instruction names an open job. -/
def named (s : State) (c : Ctx) (j : Job) : Bool := plainB s c && s.jobNamed c.warp.ctx (c.a 0) == some j && s.jobOf j.uid == some j

/-- A job that takes the entries, and one whose fields are being written. -/
theorem test_witness_LadleInstructions_mnpush : ∀ j ∈ [job 1 0 0, { job 1 0 0 with writes := [.field 60 4 0] }],
    MetIn .mnpush { plain with len := 2, a := u 4, b := v 6, c := v 6, e := 1 } (ladle [j])
      (fun _ c => (named (ladle [j]) c j && j.status == 0 && decide (bitField c.x.e 0 6 < j.nstream) && !c.warp.cast && c.pushes != []
        && (j.refuses (bitField c.x.e 0 6) c.pushes).isNone && decide ((ladle [j]).resident j.cluster + c.pushes.length ≤ 65536)) = true) := by
  intro j hj
  simp only [List.mem_cons, List.not_mem_nil, or_false] at hj
  rcases hj with rfl | rfl <;> exact met_bool (by decide +kernel)
theorem test_witness_LadleInstructions_mnfeed : MetIn .mnfeed { plain with len := 2, a := u 4, b := u 6, c := u 8, e := 0x00F } (ladle [job 1 0 0])
    (fun _ c => (named (ladle [job 1 0 0]) c (job 1 0 0) && (job 1 0 0).status == 0 && decide (bitField c.x.e 3 6 < (job 1 0 0).nstream)
      && c.b 0 % (if bitAt c.x.e 9 then 8 else 16) == 0
      && ((ladle [job 1 0 0]).coreOf c.core).sprues.length == 8 && decide (((ladle [job 1 0 0]).sprue c.core c.sprueField).length < 16)) = true) :=
  met_bool (by decide +kernel)
/-- A drain begun now, one that goes on, and one that is done; no warp waits for a job. -/
theorem test_witness_LadleInstructions_mndrain : ∀ st ∈ [0, 1, 2], MetIn .mndrain { plain with len := 2, a := u 4 } (ladle [job 1 0 st])
    (fun _ c => (named (ladle [job 1 0 st]) c (job 1 0 st) && calmB (ladle [job 1 0 st]) c && decide (st < 3)) = true) := by
  intro st hs
  simp only [List.mem_cons, List.not_mem_nil, or_false] at hs
  rcases hs with rfl | rfl | rfl <;> exact met_bool (by decide +kernel)
theorem test_witness_LadleInstructions_mnisect : ∀ st ∈ [0, 1, 2], MetIn .mnisect { plain with len := 2, d := 2, a := u 4 } (ladle [job 1 4 st])
    (fun _ c => (named (ladle [job 1 4 st]) c (job 1 4 st) && (job 1 4 st).op == 4 && decide (st < 3)) = true) := by
  intro st hs
  simp only [List.mem_cons, List.not_mem_nil, or_false] at hs
  rcases hs with rfl | rfl | rfl <;> exact met_bool (by decide +kernel)
/-- `mnresume` of a spill on its way, of one that is done, of a job that is not stopped and of one stopped by a fault; `mnclose` of a job that is
not done, that is done, and that is done with a field to write. -/
theorem test_witness_LadleInstructions_others : ∀ e ∈ ([(.mnstat, 1, 2, job 1 0 5), (.mnresume, 2, 0, { job 1 0 4 with resuming := some true }),
      (.mnresume, 2, 0, { job 1 0 4 with resuming := some false }), (.mnresume, 2, 0, job 1 0 0), (.mnresume, 2, 0, job 1 0 3),
      (.mnclose, 1, 0, job 1 0 1), (.mnclose, 1, 0, { job 1 0 2 with acted := true }),
      (.mnclose, 1, 0, { job 1 0 2 with writes := [.field 60 4 2] })] : List (Op × BitVec 2 × BitVec 8 × Job)),
    MetIn e.1 { plain with len := e.2.1, d := e.2.2.1, a := u 4 } (ladle [e.2.2.2])
      (fun _ c => (named (ladle [e.2.2.2]) c e.2.2.2 && calmB (ladle [e.2.2.2]) c && c.warp.spec.isNone) = true) := by
  intro e he
  simp only [List.mem_cons, List.not_mem_nil, or_false] at he
  rcases he with rfl | rfl | rfl | rfl | rfl | rfl | rfl | rfl <;> exact met_bool (by decide +kernel)
/-- A job stopped without room for a run, with no entry and with one: the record now gives it the room. -/
theorem test_witness_LadleInstructions_room : ∀ l ∈ [[], [(⟨5, 7, 0, 0⟩ : LadleEntry)]],
    let j := { job 1 0 4 with spillCap := 0, entries := l }
    let s : State := { ladle [j] with dev := (ladle []).dev ++ listed 0x51000 (jobBytes 0) }
    MetIn .mnresume { plain with len := 2, a := u 4 } s (fun _ c => (named s c j && calmB s c && j.resuming.isNone
      && match s.readRange (.engine c.warp.uid) j.through j.ctx (j.name + 24) 8 with
        | (s1, .ok cap) =>
          (match s1.readRange (.engine c.warp.uid) j.through j.ctx (j.name + 40) 2 with
          | (_, .ok rmax) => decide (j.spilled + ((sortEntries j.entries).flatMap LadleEntry.bytes).length ≤ leAt cap 0 8)
              && decide (j.runs < min 4096 (leAt rmax 0 2)) && j.writes == []
          | _ => false)
        | _ => false) = true) := by
  intro l hl
  simp only [List.mem_cons, List.not_mem_nil, or_false] at hl
  rcases hl with rfl | rfl <;> exact met_bool (by decide +kernel)

/-- Nothing of the warp is outstanding, and its guard holds. -/
def freeB (s : State) (c : Ctx) : Bool := plainB s c && c.warp.pending == [] && s.channels.all (fun o => o.warp != c.warp.uid)

/-- A task record of one stage of one block, with a dependence, whose save area the context holds (04 Tables 4-1 and 4-2). -/
def taskBytes (dep : Nat) : List Byte :=
  leBytes 8 0x40000 ++ leBytes 8 0 ++ leBytes 8 0x200000 ++ leBytes 8 0x1000000 ++ leBytes 4 dep ++ leBytes 2 0 ++ [1, 0, 0, 0] ++ leBytes 22 0
    ++ leBytes 4 0 ++ (leBytes 4 1 ++ leBytes 4 1 ++ leBytes 4 1) ++ (leBytes 2 32 ++ leBytes 2 1 ++ leBytes 2 1) ++ [1, 4, 16, 0] ++ leBytes 2 1
    ++ leBytes 4 1024 ++ leBytes 16 0 ++ leBytes 144 0
/-- A state with some bytes at 0x51000 and the context's save area. -/
def dieState (l : List Byte) : State :=
  let s := onAll (fun w => uniIn 4 0x51000 w)
  { s with dev := s.dev ++ listed 0x51000 l, contexts := [{ placeContext with saveBase := 0x200000, saveSize := 0x1000000 }] }

/-- A launch that enters a task, and one that is refused. -/
theorem test_witness_SystemInstructions_launch : ∀ e ∈ [(taskBytes 1, true), (taskBytes 0, true), (leBytes 256 0, false)],
    MetIn .launch { plain with len := 2, d := 2, a := u 4 } (dieState e.1)
      (fun t c => (freeB (dieState e.1) c && match t.recordDev c (c.a 0) 4 with
        | (s', .ok bs) =>
          (match s'.enterTask (coreDie c.core) c.warp.ctx (TaskRec.ofBytes bs) with | (_, st, _) => (st == 0) == e.2)
        | _ => false) = true) := by
  intro e he
  simp only [List.mem_cons, List.not_mem_nil, or_false] at he
  rcases he with rfl | rfl | rfl <;> exact met_bool (by decide +kernel)

/-- A `tdep` on no task, on one that stays blocked, and on one that becomes ready. -/
theorem test_witness_SystemInstructions_tdep : ∀ e ∈ [(5, 0, 1), (1, 3, 1), (1, 3, 3)],
    let s : State := { onAll (fun w => uniIn 4 e.1 (uniIn 6 (BitVec.ofNat 32 e.2.2) w)) with tasks := [placeTask, { placeTask with idx := 1, counter := e.2.1, ready := false }] }
    MetIn .tdep { plain with len := 2, a := u 4, b := u 6 } s
      (fun _ c => (freeB s c && decide (c.a 0 < 2 ^ 14) && (match s.partOfCtx c.warp.ctx with | some p => onDie p.desc (natField (c.a 0) 12 2) | none => false)
        && (match s.taskOf (natField (c.a 0) 12 2) (c.a 0 % 4096) with
            | some k => decide (0 < k.counter) && !k.ready && k.rec'.nparam == 0 && !s.checkpointing k.ctx && e.1 == 1
            | none => e.1 == 5)) = true) := by
  intro e he
  simp only [List.mem_cons, List.not_mem_nil, or_false] at he
  rcases he with rfl | rfl | rfl <;> exact met_bool (by decide +kernel)
theorem test_witness_SystemInstructions_signal : MetIn .signal { plain with len := 2, a := u 4 } (onAll (uniIn 4 63))
    (fun _ c => (freeB (onAll (uniIn 4 63)) c && decide (c.a 0 ≤ 63) && (onAll (uniIn 4 63)).ctxOf c.warp.ctx == some placeContext
      && (onAll (uniIn 4 63)).vdOf placeContext.vd == some device0) = true) := met_bool (by decide +kernel)
theorem test_witness_SystemInstructions_evq : MetIn .evq { plain with len := 2, a := u 4 } (onAll (fun w => w))
    (fun _ c => (freeB (onAll (fun w => w)) c && decide (((onAll (fun w => w)).events.filter (fun e => e.1 == coreDie c.core)).length < 4096)) = true) :=
  met_bool (by decide +kernel)
/-- A command block without a body, and one with. -/
theorem test_witness_SystemInstructions_sysc : ∀ n ∈ [0, 64],
    let s := dieState (leBytes 12 0 ++ leBytes 4 n ++ leBytes 8 0)
    MetIn .sysc { plain with len := 2, a := u 4 } s
      (fun t c => (freeB s c && c.warp.waits == [] && (s.ctxOf c.warp.ctx).isSome && match t.recordDev c (c.a 0) 1 with
        | (s1, .ok hdr) =>
          (match (if leAt hdr 12 4 == 64 then s1.recordDev c (c.a 0 + 64) 1 else (s1, .ok [])) with
           | (s2, .ok _) => (s2.checkDev c.core c.warp.ctx (c.a 0) 64 .r).2.toBool
           | _ => false)
        | _ => false) = true) := by
  intro n hn
  simp only [List.mem_cons, List.not_mem_nil, or_false] at hn
  rcases hn with rfl | rfl <;> exact met_bool (by decide +kernel)
theorem test_witness_SystemInstructions_coll :
    let s := dieState (leBytes 8 9 ++ leBytes 2 1 ++ leBytes 2 0 ++ leBytes 2 4 ++ leBytes 2 0 ++ leBytes 8 0x52000 ++ leBytes 8 0 ++ leBytes 4 0)
    MetIn .coll { plain with len := 2, t := 1, a := u 4, b := u 6, c := u 8, e := 7 } s
      (fun t c => (plainB s c && (s.coreOf c.core).sprues.length == 8 && decide ((s.sprue c.core c.sprueField).length < 16)
        && c.b 0 == 0 && c.c 0 == 0 && match t.recordDev c (c.a 0) 1 with
        | (s1, .ok l) =>
          !collBad l c.ty && (match s1.recordPiece c (leAt l 16 8 + 4 * leAt l 10 2) 4 1 with | (_, .ok m) => leAt m 0 4 == s.pkg.toNat * 4 + coreDie c.core | _ => false)
        | _ => false) = true) := met_bool (by decide +kernel)
theorem test_witness_SystemInstructions_savew : MetIn .savew { plain with len := 2, a := u 4, e := 0x7F } (onAll (uniIn 4 0x51000))
    (fun _ c => (plainB (onAll (uniIn 4 0x51000)) c && ((onAll (uniIn 4 0x51000)).coreOf c.core).sprues.length == 8
      && decide (((onAll (uniIn 4 0x51000)).sprue c.core c.sprueField).length < 16) && c.wholeWarp && c.a 0 == 0x51000 && c.warp.scored == [] && c.warp.errors == []
      && bitField c.x.e 3 4 == 15) = true) := met_bool (by decide +kernel)

/-- A save slot at 0x51000 whose record is that of a warp of 8 registers with all quads living, every other byte 0. -/
def slotState : State :=
  let s := onAll (fun w => { uniIn 4 0x51000 w with nreg := 8 })
  { s with dev := s.dev ++ [(0x51000 + recordAt 1 0, 1), (0x51000 + recordAt 1 0 + 5, 1), (0x51000 + recordAt 1 0 + 6, 0xFF)] }
/-- CTRL and VREG of it. -/
theorem test_witness_SystemInstructions_restw : MetIn .restw { plain with len := 2, a := u 4, e := 5 } slotState
    (fun t c => (freeB slotState c && c.warp.scored == [] && c.warp.trail == [] && c.warp.spec.isNone && c.wholeWarp && c.a 0 == 0x51000 && c.warp.trapWait.isNone
      && c.warp.barrier.isNone && !c.warp.ended && (slotState.coreOf c.warp.core).windows == []
      && (let b := slotState.blockAt c.warp.block
        match t.readSlot (.engine c.warp.uid) c.core c.warp.ctx (c.a 0) b.cores.length c.warp.wid c.warp.nreg 5 with
          | (s', .ok sl) => (slotBad c.warp b c.core 5 sl).isNone && !natBit (leAt sl.record 1576 4) 31 && (pathOfRecord sl.record c.warp.absent 7).living != 0
            && (s'.applySlot (.engine c.warp.uid) c.warp.uid c.core b (c.a 0) 5 sl).2.isNone
          | _ => false)) = true) := met_bool (by decide +kernel)

theorem test_witness_SystemInstructions_rest :
    MetIn .yieldb plain (onAll (fun w => w)) (fun _ c => plainB (onAll (fun w => w)) c = true)
      ∧ ∀ n ∈ ([0, 1, 2, 3, 4, 5, 6, 7] : List Word), MetIn .perf { plain with len := 1, d := 2, a := u 4 } (onAll (uniIn 4 n))
          (fun _ c => (plainB (onAll (uniIn 4 n)) c && c.a 0 == n.toNat && c.lanes == 0xFFFFFFFF && decide (c.x.d.toNat + 2 ≤ 255)) = true) := by
  refine ⟨met_bool (by decide +kernel), fun n hn => ?_⟩
  simp only [List.mem_cons, List.not_mem_nil, or_false] at hn
  rcases hn with rfl | rfl | rfl | rfl | rfl | rfl | rfl | rfl <;> exact met_bool (by decide +kernel)

/-! ### Witnesses: events of the package -/

/-- The device with a memory window of two granules. -/
def device1 : VDev := { device0 with windows := [(0x8000000000060000, 2)] }

/-- A flit of zeros without its checksum, and with it. -/
def flit0 (kind : BitVec 4) (dst : BitVec 10) : Flit :=
  { seq := 0, ack := 0, nak := false, cls := 0, kind, dst, src := 1, credit := 0, low := 0, payload := List.replicate 240 0, crc := 0 }
def summed (f : Flit) : Flit := { f with crc := flitSum f }
def flit (kind : BitVec 4) (dst : BitVec 10) : Flit := summed (flit0 kind dst)
theorem flitSum_crc (f : Flit) (c : BitVec 64) : flitSum { f with crc := c } = flitSum f := rfl
theorem flit_good (f : Flit) (h : f.cls.toNat ≤ 3 ∧ f.kind.toNat ≤ 2 ∧ f.low = 0 ∧ f.payload.length = 240) : flitBad (summed f) = false := by
  have e (c : BitVec 64) (hc : c = flitSum f) : flitBad { f with crc := c } = false := by
    unfold flitBad
    rw [flitSum_crc, ← hc]
    obtain ⟨h1, h2, h3, h4⟩ := h
    simp only [h3, h4, bne_self_eq_false, Bool.or_false, Bool.or_eq_false_iff, decide_eq_false_iff_not, Nat.not_lt, gt_iff_lt]
    exact ⟨⟨trivial, h1⟩, h2⟩
  exact e _ rfl
/-- A `.sys` operation of the placed warp: a word that a lane stores. -/
def sysOp (inChannel : Bool) (failed : Option Nat) : SysOp :=
  { uid := 9, warp := 2, access := one .dev .store 4 0, pkg := 3, cls := 0, since := 0, inChannel, failed, reached := false }
/-- A package that is not the root, and its state once it joined and has heard of heartbeat n. -/
def leaf : State := { State.reset with pkg := 1 }
def behind (locked routed : Bool) (hb n : BitVec 64) : State := { leaf with hb, rootHb := n, locked, routed }

theorem test_witness_FabricEvents_heartbeat :
    let root : State := { State.reset with routes := [⟨7, 3, 2⟩] }
    (∀ s ∈ [root, { leaf with routed := false }, behind true true 4 6], s.change = none
        ∧ (s.pkg = s.root ∨ s.routed = false ∨ (s.joined = true ∧ s.locked = true ∧ s.hb.toNat < s.rootHb.toNat)))
      ∧ (root.pkg = root.root ∧ (root.routes.filter (fun r => r.cls == 3 && r.dst != root.pkg)).map (fun r => r.dst) = [7]
        ∧ (root.routeTo 7 3).toOption = some 2 ∧ (root.portOf 2).retry.length < 512 ∧ (root.portOf 2).waiting = [])
      ∧ ∀ s ∈ [{ leaf with joined := false }, behind false true 4 6, behind true true 4 4], s.pkg ≠ s.root ∧ s.routed = true
        ∧ (s.joined = false ∨ s.locked = false ∨ s.rootHb.toNat ≤ s.hb.toNat) := by decide +kernel
/-- A tick flit at the root, at a package that has not joined, and at one that has: of its own heartbeat, of another than its own or the next, of the
next, and of the one after the next when it waits for the next. -/
theorem test_witness_FabricEvents_tick :
    State.reset.pkg = State.reset.root ∧ (leaf.pkg ≠ leaf.root ∧ ({ leaf with joined := false } : State).joined = false)
      ∧ (∀ e ∈ ([(behind true true 4 3, 4), (behind true true 4 3, 9), (behind true true 4 3, 5), (behind true false 4 3, 9), (behind false true 4 3, 9)] :
            List (State × BitVec 64)),
          e.1.pkg ≠ e.1.root ∧ e.1.joined = true ∧ (e.1.locked = false ∨ e.1.hb.toNat + 1 ≠ e.1.rootHb.toNat ∨ e.1.rootHb = e.2))
      ∧ (let s := behind true true 4 5
         s.pkg ≠ s.root ∧ s.joined = true ∧ s.locked = true ∧ s.routed = true ∧ s.change = none ∧ s.hb.toNat + 1 = s.rootHb.toNat
           ∧ (6 : BitVec 64) = s.rootHb + 1) := by decide +kernel
theorem test_witness_FabricEvents_correction :
    (let s := behind false true 4 5
     s.pkg ≠ s.root ∧ s.change = none ∧ s.locked = false ∧ s.routed = true ∧ s.joined = true ∧ s.hb.toNat < s.rootHb.toNat)
      ∧ (1 : BitVec 10) ≠ State.reset.root ∧ leaf.pkg ≠ leaf.root ∧ leaf.routed = true := by decide +kernel
/-- A package without contexts, and with one, that becomes another; the root becomes itself. -/
theorem test_witness_FabricEvents_provisioning :
    let s : State := { State.reset with contexts := [placeContext] }
    (5 : BitVec 10) ≠ State.reset.root ∧ (5 : BitVec 10) ≠ State.reset.pkg ∧ State.reset.contexts = [] ∧ s.contexts ≠ []
      ∧ leaf.pkg ≠ leaf.root := by decide +kernel
/-- A flit for this package, one that goes on to package 7, one that is bad, a tick flit of the root, and one out of order. -/
theorem test_witness_FabricEvents_flit :
    let s : State := { State.reset with routes := [⟨7, 0, 2⟩] }
    let full : State := { s with ports := [{ Port.reset 2 with retry := List.replicate 512 (flit0 0 0) }] }
    flitBad (flit 1 0) = false ∧ flitBad (flit 1 7) = false ∧ flitBad { flit 1 0 with low := 1 } = true ∧ (s.portOf 0).up = true
      ∧ ((flit 1 0).seq = (s.portOf 0).expect ∧ (flit 1 0).dst = s.pkg)
      ∧ (flit 1 7).kind ≠ 0 ∧ (flit 1 7).dst ≠ s.pkg ∧ (s.routeTo (flit 1 7).dst (flit 1 7).cls.toNat).toOption = some 2
      ∧ (s.portOf 2).retry.length < 512 ∧ (s.portOf 2).waiting = [] ∧ 512 ≤ (full.portOf 2).retry.length ∧ (full.portOf 2).waiting = []
      ∧ (s.portOf 0).nakOut = false ∧ (s.portOf 0).retry.length < 512 ∧ (s.portOf 0).waiting = []
      ∧ ({ s with ports := [{ Port.reset 0 with nakOut := true, expect := 3 }] } : State).portOf 0 = { Port.reset 0 with nakOut := true, expect := 3 } :=
  ⟨flit_good (flit0 1 0) (by decide +kernel), flit_good (flit0 1 7) (by decide +kernel), by simp [flitBad], by decide +kernel, by decide +kernel, by decide +kernel,
    by decide +kernel, by decide +kernel, by decide +kernel, by decide +kernel, by decide +kernel, by decide +kernel, by decide +kernel, by decide +kernel,
    by decide +kernel, by decide +kernel⟩
theorem test_witness_FabricEvents_tick_flit :
    let f := summed { flit0 2 1 with cls := 3, src := 0 }
    flitBad f = false ∧ f.kind = 2 ∧ f.cls = 3 ∧ f.src = leaf.root ∧ f.dst = leaf.pkg ∧ f.seq = (leaf.portOf 15).expect ∧ (leaf.portOf 15).up = true :=
  ⟨flit_good { flit0 2 1 with cls := 3, src := 0 } (by decide +kernel), by decide +kernel, by decide +kernel, by decide +kernel, by decide +kernel,
    by decide +kernel, by decide +kernel⟩
/-- A port that asks to be trained again, one whose training failed, and one that is up. -/
theorem test_witness_FabricEvents_ports :
    let s : State := { State.reset with ports := [{ Port.reset 15 with naks := 8, untrained := true }] }
    8 ≤ (s.portOf 15).naks ∧ (s.portOf 15).up = true ∧ (s.portOf 15).untrained = true ∧ (s.portOf 0).untrained = false := by decide +kernel

/-- A read of another package that a fetch asked for, that failed. -/
def askOp (why : Option Nat) : SysOp := { sysOp true why with access := one .dev (.ask (.fetch 0 1 0x40000) false) 4 0 }
theorem test_witness_FabricEvents_response :
    (let s : State := { State.reset with hb := 65536, channels := [sysOp true none] }
     s.channels.find? (fun o => o.uid == 9) = some (sysOp true none) ∧ (sysOp true none).failed = none ∧ 65536 ≤ (s.hb - (sysOp true none).since).toNat)
      ∧ ∀ o ∈ [sysOp true (some 0x2FF), askOp (some 0x2FF)], ∀ answer ∈ [FabricAnswer.unknown, .notPerformed],
        let s : State := { State.reset with hb := 65536, channels := [o] }
        s.channels.find? (fun o => o.uid == 9) = some o ∧ o.failed = some 0x2FF ∧ s.canSettle o answer = true ∧ s.sentUnder 9 = none ∧ s.tasks = [] := by
  decide +kernel
/-- Where an operation is an access of a command. -/
theorem test_witness_FabricEvents_settled :
    let a : CmdAccess := ⟨some 9, [(0, ⟨.dev, 0x50008, 0x50008, 0⟩)], [], .dev⟩
    let y : RowWork := ⟨[0], [a], [], []⟩
    let x := { command 8 (.copy .cp shape0 shape0 [] ⟨none, 0, 0, 0⟩ [] 0 0) with works := [y], begun := true }
    let o : SysOp := { askOp (some 0x2FF) with access := one .dev (.ask (.engine 8) false) 4 0 }
    let s : State := { State.reset with hb := 65536, channels := [o], cores := [{ Core.reset 0 with sprues := [[x], [], [], [], [], [], [], []] }] }
    s.channels.find? (fun o => o.uid == 9) = some o ∧ s.canSettle o .unknown = true ∧ s.sentUnder 9 = some (0, 0, x, y, a)
      ∧ s.commandAt x.uid = some (0, 0, x) ∧ x.works = [y] ∧ x.begun = true ∧ x.heldWrites = 0 ∧ x.fault = none ∧ x.met = none := by decide +kernel
/-- Requests of the device's host and of another; a read, a write and an atomic at the ends of the window, and an exchange of TAIL. -/
theorem test_witness_FabricEvents_hosts :
    let s : State := { State.reset with vdevs := [device1] }
    (∀ v ∈ s.vdevs, v.permits ⟨6, 0x60000, .read 8⟩ = false) ∧ device1.permits ⟨5, 0x60000, .read 64⟩ = true ∧ s.rangeBad 0x60000 64 = false
      ∧ device1.permits ⟨5, 0x7FFF8, .write (leBytes 8 1)⟩ = true ∧ s.tornLine 0x7FFF8 8 = false
      ∧ device1.permits ⟨5, 0x7FFFC, .atom 0 1 5 0⟩ = true ∧ s.rangeBad 0x7FFFC 4 = false ∧ s.tornLine 0x7FFFC 4 = false
      ∧ device1.permits ⟨5, 0x60000, .atom 6 19 3 0⟩ = true := by decide +kernel
theorem test_witness_FabricEvents_deliver :
    let s : State := { on (fun w => w) with channels := [sysOp true none] }
    s.channels.find? (fun o => o.inChannel && o.pkg == 3 && o.cls == 0) = some (sysOp true none)
      ∧ s.warpOf 2 = some (warpIn s 2) ∧ Busy s (warpIn s 2) ∧ (sysOp true none).access.parts = [part 4] ∧ s.rangeBad 0x50008 4 = false
      ∧ s.tornLine 0x50008 4 = false ∧ ∀ t ∈ (warpIn s 2).late, t.1 ≠ (sysOp true none).access.seq := by
  unfold Busy
  decide +kernel

theorem test_witness_HardwareEvents_lives :
    let table : List (LifeCycle × LifeCycle) :=
      [(.manufacturing, .provisioned), (.provisioned, .deployed), (.provisioned, .retired), (.deployed, .provisioned), (.deployed, .retired)]
    (∀ e ∈ table, ({ State.reset with life := e.1 }.life, e.2) ∈ table) ∧ (State.reset.life, LifeCycle.manufacturing) ∉ table := by decide +kernel
theorem test_witness_HardwareEvents_power : (∃ s : State, 1024 ≤ (s.hb - s.powerHb).toNat) ∧ ∃ island : Nat, island < 84 :=
  ⟨⟨{ State.reset with hb := 1024 }, by decide +kernel⟩, ⟨83, by decide⟩⟩
theorem test_witness_HardwareEvents_cores :
    (∃ (core : Nat) (s : State), (s.coreOf core).gated = false ∧ (s.coreOf core).withdrawn = false ∧ (s.coreOf core).withdrawing = false
        ∧ (∀ b ∈ s.blocks, core ∉ b.cores) ∧ (∀ q ∈ (s.coreOf core).sprues, q = []) ∧ 8192 ≤ (s.hb - (s.coreOf core).idleSince).toNat)
      ∧ (∃ (core : Nat) (s : State), (s.coreOf core).gated = true ∧ s.groups = [])
      ∧ (∃ (core : Nat) (s : State), (s.coreOf core).withdrawn = false ∧ (∀ b ∈ s.blocks, core ∉ b.cores)
        ∧ 4 ≤ ((s.coreOf core).regErrors.filter (fun t => decide ((s.hb - t).toNat < 2 ^ 23))).length)
      ∧ (∃ s : State, s.tests = [(447, .fail)])
      ∧ (∀ l ∈ ([[], [(0, 4)], [(0, 1), (3, 2)], [(2, 0), (2, 0)]] : List (List (Nat × Nat))), ∀ f ∈ l, ∀ g ∈ l, f.2 ≤ 4 ∧ (f.1 = g.1 → f.2 = g.2))
      ∧ ∃ f ∈ [(1, 0), (1, 3)], ∃ g ∈ [(1, 0), (1, 3)], f.1 = g.1 ∧ f.2 ≠ g.2 :=
  ⟨⟨447, { State.reset with hb := 8192 }, by decide +kernel⟩, ⟨1, { State.reset with cores := [{ Core.reset 1 with gated := true }] }, by decide +kernel⟩,
    ⟨2, { State.reset with cores := [{ Core.reset 2 with regErrors := [0, 0, 0, 0] }] }, by decide +kernel⟩,
    ⟨{ State.reset with tests := [(447, .fail)] }, rfl⟩, by decide +kernel, by decide +kernel⟩

/-- A group of scratchpad banks with errors reported, a parity update queued, and a row to recompute. -/
def group0 : GroupId := ⟨.spad, 0, 0⟩
def reporting (n : Nat) (double : Bool) : State :=
  { State.reset with groups := [{ Group.reset group0 with queue := [(3, 5)], recompute := [4], reports := List.replicate n (0, double, 0) }] }
theorem test_witness_HardwareEvents_banks :
    let recent (s : State) (t : BitVec 64) : Bool := decide ((s.hb - t).toNat < 2 ^ 23)
    let mine (s : State) (bank : Nat) (double : Bool) := (s.groupOf group0).reports.filter (fun r => r.1 == bank && r.2.1 == double && recent s r.2.2)
    let parity : State := { State.reset with groups := [{ Group.reset group0 with reports := List.replicate 4 (4, true, 0) }] }
    (0 ∉ ((reporting 4 true).groupOf group0).retired ∧ 4 ≤ (mine (reporting 4 true) 0 true).length)
      ∧ 1024 ≤ (mine (reporting 1024 false) 0 false).length ∧ (4 ∉ (parity.groupOf group0).retired ∧ 4 ≤ (mine parity 4 true).length)
      ∧ ((reporting 0 true).groupOf group0).queue = [(3, 5)] ∧ (reporting 0 true).doubleAt group0 4 3 = false
      ∧ 4 ∈ ((reporting 0 true).groupOf group0).recompute ∧ ((reporting 0 true).groupOf group0).retired = []
      ∧ ∀ b, b < 4 → (reporting 0 true).doubleAt group0 b 4 = false := by decide +kernel
theorem test_witness_HardwareEvents_errors :
    (∃ (s : State) (w : Warp), s.warpOf 2 = some w ∧ 31 ∈ w.lines ∧ s.shadowOf 2 = none)
      ∧ ∃ target : ErrTarget, (∀ core, target ≠ .icache core) ∧ ∀ id bank row, target ≠ .bankWord id bank row :=
  ⟨⟨on cached, warpIn (on cached) 2, by decide +kernel⟩, .devLine 0, by simp, by simp⟩

/-! ### Witnesses: commands and signals -/

/-- A command of device 0 for context 1, with a body. -/
def jrfCmd (code : Nat) (body : List Byte) : JrfCommand :=
  { uid := 20, vd := 0, queue := some 0, die := 0, block := 0x60100, code, flags := 1, ctx := 1, sigvec := 63, body, after := [], copied := 0, phase := 0,
    watch := none, outcome := none }
/-- The placed machine of device 0 with such a command in focus. -/
def commanded (c : JrfCommand) : State := { onAll (fun w => w) with vdevs := [device1], focus := 20, commands := [c] }
/-- It may run. -/
def mayRun (s : State) (code : Nat) (c : JrfCommand) (v : VDev) : Prop := s.running code = some (c, v) ∧ s.barred c v = none ∧ s.zeroed = []

/-- A queue that holds a block at 0x60100, without a body and with one. -/
def queueState (len : Nat) : State :=
  { State.reset with
    vdevs := [device1], dev := ((((Memory.write [] 0x60000 8 0x60100).write 0x60008 8 0x60040).write 0x60040 8 0x60100).write 0x6010A 2 2).write 0x6010C 4 len,
    commands := [{ jrfCmd 0 [] with uid := 0 }] }
theorem test_witness_CommandEvents_take : ∀ len ∈ [0, 64],
    let s := queueState len
    s.vdOf 0 = some device1 ∧ device1.queues[0]? = some ⟨0x60000, 0, true⟩ ∧ device1.pausing = false ∧ device1.paused = none ∧ s.badLines = []
      ∧ s.dev.read 0x60000 8 ≠ s.dev.read 0x60008 8
      ∧ (let key := s.dev.read (s.dev.read 0x60008 8) 8
         key ≠ 0 ∧ key % 64 = 0 ∧ key < 2 ^ 40 ∧ s.dev.read (key + 12) 4 = len ∧ device1.inWindow key 64 = true ∧ device1.inWindow key (64 + len) = true
          ∧ 0x60000 + 16 ≤ key + 32 ∧ (s.dev.read (key + 10) 2).testBit 1 = true) := by decide +kernel
/-- A SIGNAL_ON of operation 4 on the word at 0x60300, which a block names through the placed context. -/
theorem test_witness_CommandEvents_watch :
    let s : State := { on (fun w => w) with vdevs := [device1] }
    (match s.checkDev (dieCore 0) 1 0x60300 8 .r with | (_, .ok (key, p)) => key == 0x60300 && p.isNone | _ => false) = true := by decide +kernel
/-- Queues that give nothing: one out of service, one of a device that is pausing or paused, and one that is empty. -/
theorem test_witness_CommandEvents_parked :
    (∃ q : QueueInfo, q.enable = false) ∧ ({ device1 with pausing := true } : VDev).pausing = true ∧ ({ device1 with paused := some 7 } : VDev).paused ≠ none
      ∧ (let s : State := { State.reset with dev := (Memory.write [] 0x60000 8 0x60040).write 0x60008 8 0x60040 }
         s.dev.read (s.dev.read (0x60000 + 8) 8) 8 = 0) := ⟨⟨⟨0, 0, false⟩, rfl⟩, by decide +kernel⟩
theorem test_witness_CommandEvents_complete :
    let c := { jrfCmd 0 [] with outcome := some (0, 7) }
    (commanded c).cmdOf 20 = some c ∧ c.after = [] ∧ (commanded c).badLines = [] ∧ c.block + 48 ≤ 2 ^ 40 ∧ c.flags.testBit 0 = true
      ∧ (commanded c).vdOf 0 = some device1 ∧ (device1.vectors[63]?).isSome = true := by
  decide +kernel
/-- Commands without a body, and those that the context or the interface decides. -/
theorem test_witness_CommandEvents_short : ∀ code ∈ [0, 2, 5, 7, 9], mayRun (commanded (jrfCmd code (leBytes 64 0))) code (jrfCmd code (leBytes 64 0)) device1
    ∧ (commanded (jrfCmd code (leBytes 64 0))).ctxOf 1 = some placeContext ∧ placeContext.killing = false := by
  unfold mayRun
  decide +kernel
/-- A context of the widest save area; the capacity is that of a package that holds one more. -/
theorem test_witness_CommandEvents_create :
    let c := jrfCmd 1 (leBytes 8 0x10000 ++ leBytes 8 0 ++ leBytes 8 (2 ^ 55) ++ leBytes 4 9 ++ [7, 3] ++ leBytes 34 0)
    mayRun (commanded c) 1 c device1 ∧ c.field 92 1 ≤ 7 ∧ c.field 93 1 < 4 ∧ c.field 64 8 % 65536 = 0 ∧ c.field 64 8 < 768000000000
      ∧ c.field 72 8 < 2 ^ 55 ∧ c.field 72 8 + c.field 80 8 ≤ 2 ^ 55 ∧ (c.field 93 1).testBit 0 = true ∧ (c.field 93 1).testBit 1 = true := by
  unfold mayRun
  decide +kernel
/-- A context with a ready task, without one, and a killed one. -/
theorem test_witness_CommandEvents_destroy :
    let c := jrfCmd 2 []
    let none' : State := { commanded c with tasks := [{ placeTask with ready := false }] }
    let dead : State := { commanded (jrfCmd 9 []) with contexts := [{ placeContext with killing := true, killed := true }] }
    ((commanded c).tasks.any (fun t => t.ctx == 1 && t.ready) = true) ∧ (mayRun none' 2 c device1 ∧ ∀ t ∈ none'.tasks, t.ctx = c.ctx → t.ready = false)
      ∧ mayRun dead 9 (jrfCmd 9 []) device1 := by
  unfold mayRun
  decide +kernel
/-- A granule at 512 MiB below a level 3 table that holds nothing there; then with its leaf. -/
def tabled (code : Nat) (leaf : Nat) : State :=
  let c := jrfCmd code (leBytes 8 (2 ^ 29) ++ leBytes 8 (if code = 3 then 0x70000 else 65536) ++ leBytes 8 (if code = 3 then 65536 else 0) ++ leBytes 2 0x3FF ++ [0, 7] ++ leBytes 36 0)
  let c := if code = 3 then c else { c with body := leBytes 8 (2 ^ 29) ++ leBytes 8 65536 ++ leBytes 48 0 }
  { commanded c with dev := (((commanded c).dev.write (placeTable + 8) 8 (0x3FF * 2 ^ 40 + 0x30001)).write 0x30000 8 leaf) }
theorem test_witness_CommandEvents_map :
    let s := tabled 3 0
    let c := s.commands.headD (jrfCmd 3 [])
    mayRun s 3 c device1 ∧ s.ctxOf 1 = some placeContext ∧ device1.iface = .unlocked ∧ c.field 80 8 = 65536 ∧ c.field 90 1 = 0 ∧ c.field 91 1 ≤ 7
      ∧ c.field 88 2 ≤ 0x3FF ∧ c.field 64 8 + 65536 ≤ 2 ^ 55 ∧ c.field 64 8 % 65536 = 0 ∧ c.field 72 8 % 65536 = 0 ∧ c.field 72 8 + 65536 ≤ 2 ^ 40
      ∧ device1.inWindow (c.field 72 8) 65536 = true ∧ s.leafAt placeRoot (c.field 64 8) = none ∧ s.entryAt placeRoot (c.field 64 8) 3 = some 0x30000 := by
  unfold mayRun
  decide +kernel
theorem test_witness_CommandEvents_unmap :
    let s := tabled 4 (0x3FF * 2 ^ 40 + 0x70000 + 0x1F)
    let c := s.commands.headD (jrfCmd 3 [])
    let busy : State := s.onWarp 2 (fun w => { w with pending := [{ one .dev (.atom .add 1 5 0 none) 4 0 with parts := [⟨0x70000, 4, 0, 2 ^ 29, 0⟩] }] })
    mayRun s 4 c device1 ∧ s.ctxOf 1 = some placeContext ∧ c.phase = 0 ∧ c.field 72 8 = 65536 ∧ c.field 64 8 + 65536 ≤ 2 ^ 55 ∧ c.field 64 8 % 65536 = 0
      ∧ s.leafAt placeRoot (c.field 64 8) = some 3 ∧ s.entryAt placeRoot (c.field 64 8) 3 = some 0x30000
      ∧ s.rangeBusy 1 (c.field 64 8) 65536 = false ∧ busy.rangeBusy 1 (c.field 64 8) 65536 = true := by
  unfold mayRun
  decide +kernel

/-- A copy of 4 bytes from the host, to it, and within the device. -/
def hostCopy (way phase : Nat) : JrfCommand :=
  { jrfCmd 6 (leBytes 8 0x60200 ++ leBytes 8 0x60240 ++ leBytes 8 4 ++ [BitVec.ofNat 8 way] ++ leBytes 2 (if way = 0 then 5 else 0x3FF)
      ++ leBytes 2 (if way = 1 then 5 else 0x3FF) ++ leBytes 35 0) with phase }
theorem test_witness_CommandEvents_copy : ∀ way ∈ [0, 1, 2],
    let c := hostCopy way 1
    let s := commanded c
    mayRun (commanded (hostCopy way 0)) 6 (hostCopy way 0) device1 ∧ c.field 88 1 ≤ 2 ∧ c.field 89 2 ≤ 0x3FF ∧ c.field 91 2 ≤ 0x3FF ∧ c.field 80 8 ≠ 0
      ∧ s.cmdOf 20 = some c ∧ s.vdOf 0 = some device1 ∧ device1.pausing = false ∧ device1.paused = none ∧ (s.copyPiece c 4 [1, 2, 3, 4]).2 = none ∧ c.field 80 8 ≤ c.copied + 4
      ∧ (s.readRange c.asker (dieCore c.die) c.ctx (c.field 64 8 + c.copied) 4).2.toBool = true := by
  unfold mayRun
  decide +kernel
theorem test_witness_CommandEvents_killed :
    let s : State := { State.reset with contexts := [{ placeContext with killing := true }], vdevs := [device1] }
    s.ctxOf 1 = some { placeContext with killing := true } ∧ s.quiescent 1 = true := by decide +kernel

theorem test_witness_CommandEvents_create_room : ∃ s : State, s.contexts.length < Config.contextCapacity :=
  ⟨State.reset, Nat.succ_pos _⟩

/-- A tensor record of one word. -/
def oneWord (base : Nat) : List Byte :=
  leBytes 8 base ++ [0, 2, 0, 0] ++ leBytes 4 0 ++ (leBytes 8 1 ++ leBytes 8 1 ++ leBytes 8 1 ++ leBytes 8 1 ++ leBytes 8 1 ++ leBytes 8 1)
    ++ (leBytes 8 4 ++ leBytes 8 64 ++ leBytes 32 0) ++ (leBytes 4 1 ++ leBytes 4 1 ++ leBytes 4 1 ++ leBytes 4 1 ++ leBytes 4 1 ++ leBytes 4 1)
    ++ leBytes 8 0 ++ (leBytes 2 1 ++ leBytes 2 1 ++ leBytes 2 1 ++ leBytes 2 1 ++ leBytes 2 1 ++ leBytes 2 1) ++ leBytes 36 0
/-- An export of such a tensor to 0x61000, and its import. -/
def tensors (code : Nat) (more : Memory) : State :=
  let c := jrfCmd code (if code = 10 then leBytes 8 0x60400 ++ leBytes 4 1 ++ leBytes 4 0 ++ leBytes 8 0x61000 ++ leBytes 8 4096 ++ leBytes 32 0
    else leBytes 8 0x61000 ++ leBytes 8 0x60400 ++ leBytes 4 1 ++ leBytes 44 0)
  let s := commanded c
  { s with dev := s.dev ++ listed 0x60400 (leBytes 8 0x60500) ++ listed 0x60500 (oneWord 0x60700) ++ more, tasks := [] }
def exported : State := tensors 10 []
theorem test_witness_CommandEvents_export :
    let s := exported
    let c := s.commands.headD (jrfCmd 10 [])
    mayRun s 10 c device1 ∧ s.ctxBusy 1 = false
      ∧ (match (s.noteWork c.ctx).tensors c.asker 0 c.ctx (c.field 64 8) (c.field 72 4) with
        | (s1, .ok shs) =>
          let len := shs.foldl (fun n sh => n + tensorBytes sh) 128
          decide (len ≤ c.field 88 8) && match s1.tensorData c.asker 0 c.ctx shs with
          | (s2, .ok data) => match s2.writeRange c.asker 0 c.ctx (c.field 80 8 + 128) data with
            | (s3, none) => (s3.writeRange c.asker 0 c.ctx (c.field 80 8)
                (leBytes 4 1 ++ leBytes 4 shs.length ++ leBytes 8 len ++ leBytes 8 (s.guestTime device1).toNat ++ leBytes 40 0 ++ sha512 data)).2.isNone
            | _ => false
          | _ => false
        | _ => false) = true := by
  unfold mayRun
  decide +kernel
theorem test_witness_CommandEvents_slice :
    let c := jrfCmd 12 ([200, 1, 0, 0] ++ leBytes 4 5000 ++ leBytes 56 0)
    mayRun { commanded c with change := none } 12 c device1 ∧ c.field 65 1 ≤ 1 ∧ 0 < c.field 68 4
      ∧ ∀ p, (commanded c).partOf device1.pid = some p → (commanded c).saveTime p.desc ≤ c.field 68 4 := by
  unfold mayRun
  decide +kernel
/-- Every item, with a buffer of 2²⁰ bytes. -/
theorem test_witness_CommandEvents_query : ∀ item ∈ [0, 1, 2, 3, 4, 5],
    let v : VDev := { device1 with windows := [(0x8000000000060000, 16)] }
    let c := jrfCmd 13 (leBytes 2 item ++ leBytes 6 0 ++ leBytes 8 0x60000 ++ leBytes 4 (2 ^ 20) ++ leBytes 44 0)
    let s : State := { commanded c with vdevs := [v] }
    (mayRun s 13 c v ∧ c.field 64 2 = item ∧ s.change = none ∧ s.badLines = []) ∧ ∀ figures, (queryBytes item figures).length ≤ c.field 80 4
      ∧ v.inWindow (c.field 72 8) (queryBytes item figures).length = true := by
  intro item hi v c s
  have h : (mayRun s 13 c v ∧ c.field 64 2 = item ∧ s.change = none ∧ s.badLines = []) ∧ c.field 80 4 = 2 ^ 20 ∧ c.field 72 8 = 0x60000 := by
    simp only [List.mem_cons, List.not_mem_nil, or_false] at hi
    unfold mayRun
    rcases hi with rfl | rfl | rfl | rfl | rfl | rfl <;> decide +kernel
  refine ⟨h.1, fun figures => ?_⟩
  have hl : (queryBytes item figures).length ≤ 2 ^ 20 := by
    unfold queryBytes
    split
    · simp [leBytes]
    · exact List.length_take_le _ _
  rw [h.2.1, h.2.2]
  refine ⟨hl, ?_⟩
  have hw : v.windowEnd 0x60000 = some (0x60000 + 2 ^ 20) := by decide +kernel
  have hc : v.inWindow 0x60000 (queryBytes item figures).length = v.covers 1 0x60000 (queryBytes item figures).length := rfl
  rw [hc, VDev.covers, hw]
  simp only [Bool.or_eq_true, decide_eq_true_eq]
  omega

/-- An image as an export wrote it. -/
def imaged : State :=
  let sh := Shape.ofBytes (oneWord 0x60700)
  let data := entryBytes sh ++ leBytes 64 0
  tensors 11 (listed 0x61000 (leBytes 4 1 ++ leBytes 4 1 ++ leBytes 8 256 ++ leBytes 8 0 ++ leBytes 40 0 ++ sha512 data ++ data))
theorem test_witness_CommandEvents_import :
    let s := imaged
    let c := s.commands.headD (jrfCmd 11 [])
    mayRun s 11 c device1 ∧ s.ctxBusy 1 = false
      ∧ (match (s.noteWork c.ctx).tensors c.asker 0 c.ctx (c.field 72 8) (c.field 80 4) with
        | (s1, .ok shs) => match s1.readRange c.asker 0 c.ctx (c.field 64 8) 128 with
          | (s2, .ok h) => leAt h 0 4 == 1 && leAt h 4 4 == shs.length && leAt h 8 8 == shs.foldl (fun n sh => n + tensorBytes sh) 128
            && match s2.readRange c.asker 0 c.ctx (c.field 64 8 + 128) (leAt h 8 8 - 128) with
              | (s3, .ok data) => h.drop 64 == sha512 data && entriesMatch shs data && (s3.placeTensors c.asker 0 c.ctx shs data).2.isNone
              | _ => false
          | _ => false
        | _ => false) = true := by
  unfold mayRun
  decide +kernel

theorem test_witness_SignalEvents_settings : ∀ e ∈ [(0, 63), (1, 63), (2, 0), (3, 63)],
    let c := jrfCmd 8 ([BitVec.ofNat 8 e.1, BitVec.ofNat 8 e.2] ++ leBytes 6 0 ++ leBytes 8 0x60300 ++ leBytes 2 0x3FF ++ leBytes 6 0 ++ leBytes 8 7
      ++ leBytes 8 (2 ^ 14 - 1) ++ leBytes 24 0)
    mayRun (commanded c) 8 c device1 ∧ c.field 64 1 = e.1 ∧ c.field 65 1 ≤ 63 ∧ device1.iface = .unlocked ∧ c.field 80 2 ≤ 0x3FF ∧ c.field 88 8 < 2 ^ 56
      ∧ c.field 96 8 < 2 ^ 14 ∧ device1.arms.length < 256 := by
  unfold mayRun
  decide +kernel
/-- A word of 0 at 0x60300 that has been equal since its block was taken and one that has not; and a block whose word no window holds. -/
theorem test_witness_SignalEvents_word : ∀ met ∈ [true, false],
    let c := { jrfCmd 8 ([4, 63] ++ leBytes 30 0 ++ leBytes 8 0x60300 ++ leBytes 8 7 ++ leBytes 16 0) with watch := some (0x60300, 7, met) }
    mayRun (commanded c) 8 c device1 ∧ mayRun (commanded { c with watch := none }) 8 { c with watch := none } device1
      ∧ c.field 64 1 = 4 ∧ c.field 65 1 ≤ 63 ∧ c.field 96 8 % 8 = 0 ∧ device1.arms.length < 256 ∧ keyRemote 0x60300 = none := by
  unfold mayRun
  decide +kernel
/-- A pending vector with a target here, and one with a target on package 7. -/
theorem test_witness_SignalEvents_write : ∀ pkg ∈ [(0x3FF : BitVec 10), 7], ∃ (s : State) (v : VDev) (x : Vector), s.vdOf 0 = some v ∧ v.vectors[63]? = some x
    ∧ x.pending = true ∧ x.mask = false ∧ x.target ≠ 0 ∧ v.paused = none ∧ s.change = none ∧ s.badLines = [] ∧ x.pkg = pkg := by
  intro pkg hp
  let x : Vector := ⟨0x60300, pkg, 5, false, true⟩
  let v : VDev := { device1 with vectors := List.replicate 64 x }
  refine ⟨{ State.reset with vdevs := [v] }, v, x, ?_⟩
  simp only [List.mem_cons, List.not_mem_nil, or_false] at hp
  rcases hp with rfl | rfl <;> decide +kernel

/-- A record for a vector, one for a task and one for neither. -/
def posted (tag : BitVec 64) : EventRecord := { ctx := 1, tag, cause := 0, sprue := 0, core := 0, rows := 0, bytes := 0, faddr := 0 }
def recorded (tag : BitVec 64) : State :=
  { onAll (fun w => w) with events := [(1, posted 0), (0, posted tag)], tasks := [{ placeTask with counter := 5 }] }
theorem test_witness_SignalEvents_record : ∀ tag : BitVec 64, (recorded tag).events = [(1, posted 0)] ++ (0, posted tag) :: []
    ∧ (∀ e ∈ [(1, posted 0)], e.1 ≠ 0) ∧ (posted tag).cause = 0 ∧ (recorded tag).ctxOf (posted tag).ctx = some placeContext :=
  fun tag => ⟨rfl, by decide +kernel, rfl, rfl⟩
/-- The tags of a vector and of a task. -/
theorem test_witness_SignalEvents_tags : (0x800000000000003F : BitVec 64).toNat / 2 ^ 62 = 2
    ∧ (let tag := (0x4000000000010000 : BitVec 64).toNat
       tag / 2 ^ 62 = 1 ∧ (recorded 0).partOfCtx 1 = some part0 ∧ onDie part0.desc (tag / 2 ^ 12 % 4) = true
        ∧ (recorded 0).taskOf (tag / 2 ^ 12 % 4) (tag % 4096) = some { placeTask with counter := 5 } ∧ tag / 2 ^ 16 % 2 ^ 32 < 5) := by decide +kernel

/-! ### Witnesses: partitions and devices -/

/-- Another partition, on cluster 2, which may borrow from the first. -/
def part1 : Partition := { part0 with desc := { part0.desc with pid := 1, saveBw := 1000, guar := 4, margin := 0, hbm := [(8192, 8192)], spad := [] } }
def lender : Partition := { part0 with desc := { part0.desc with lendTo := 2 }, running := some 0 }

/-- A table that fits and one that does not; a tick that is too near. -/
theorem test_witness_PartitionEvents_commit : (let s : State := { State.reset with hb := 4 }
    s.change = none ∧ s.life ≠ .retired ∧ tableBad (mergeParts (s.parts.map (fun p => p.desc)) [part0.desc, part1.desc]) = false ∧ 16 ≤ (16 : BitVec 64).toNat
      ∧ s.unmapsMemory (mergeParts (s.parts.map (fun p => p.desc)) [part0.desc, part1.desc]) = false ∧ s.outgrowsSlice [part0.desc, part1.desc] = false)
    ∧ tableBad (mergeParts [] [part0.desc, { part1.desc with guar := 1 }]) = true ∧ ¬ 16 ≤ (15 : BitVec 64).toNat := by decide +kernel
/-- A change whose cores are quiet and one that has to wait; the heartbeat before its tick, and those before that; and one that took longer than 1 ms. -/
theorem test_witness_PartitionEvents_change :
    let c (tick : Option (BitVec 64)) : LayoutChange := ⟨[{ part0.desc with guar := 4 }], 16, 0, tick⟩
    let s (hb : BitVec 64) (tick : Option (BitVec 64)) : State := { State.reset with hb, change := some (c tick) }
    let running : State := { onAll (fun w => w) with ns := 1000001, change := some (c none) }
    ((s 4 none).change = some (c none) ∧ ((s 4 none).ns - (c none).since).toNat ≤ 1000000 ∧ (s 4 none).changeQuiet (c none) = true)
      ∧ (running.change = some (c none) ∧ running.changeQuiet (c none) = false ∧ 1000000 < (running.ns - (c none).since).toNat)
      ∧ ((20 : BitVec 64).toNat ≤ ((s 19 (some 20)).hb + 1).toNat ∧ (s 19 (some 20)).pkg = (s 19 (some 20)).root)
      ∧ ((s 18 (some 20)).hb + 1).toNat < (20 : BitVec 64).toNat ∧ within part0.desc.hbm 8192 1 = false := by decide +kernel
/-- A margin cluster of the first partition that is lent to nobody. -/
def margin (quiet : Nat) (idle : Bool) : MarginState := ⟨1, quiet, false, idle, none, false⟩
theorem test_witness_PartitionEvents_idle :
    let s : State := { State.reset with parts := [lender], margins := [margin 64 false] }
    s.marginOf 1 = some (margin 64 false) ∧ s.change = none ∧ s.pkg = s.root ∧ (margin 64 false).lentTo = none ∧ 64 ≤ (margin 64 false).quiet
      ∧ (margin 64 false).busy = false ∧ s.ownerBusy 1 = false := by decide +kernel

/-- A device and a context of the second partition, whose task wants a block. -/
def startable (ctx : Nat) : Task := { placeTask with ctx, stages := [{ next := 0, done := 0, slots := [], stuck := false, cores := [] }] }
def lending : State :=
  { State.reset with
    parts := [lender, { part1 with running := some 16 }], vdevs := [{ device1 with num := 16, pid := 1 }], contexts := [{ placeContext with vd := 16 }],
    tasks := [startable 1], margins := [margin 64 true] }
theorem test_witness_PartitionEvents_lend :
    lending.marginOf 1 = some (margin 64 true) ∧ lending.marginOwner 1 = some lender ∧ lending.ownerBusy 1 = false ∧ lending.clusterIdle 1 = true
      ∧ lending.leaving 1 = false
      ∧ lowestPart (lending.parts.filter (lending.mayBorrow lender.desc 1)) = some { part1 with running := some 16 } := by decide +kernel
/-- The owner wants a block when only a core of the lent cluster can take it. -/
def claiming : State :=
  { State.reset with
    parts := [lender], vdevs := [device1], contexts := [placeContext], tasks := [startable 1], margins := [⟨1, 0, false, false, some 1, false⟩],
    cores := ((List.range 28).filter (fun k => k != 14)).map (fun k => { Core.reset k with withdrawn := true }) }
theorem test_witness_PartitionEvents_claim :
    claiming.marginOf 1 = some ⟨1, 0, false, false, some 1, false⟩ ∧ claiming.marginOwner 1 = some lender ∧ claiming.wouldClaim 0 1 = true
      ∧ (∀ b ∈ claiming.blocks, b.cores.any (inCluster 1) = false) ∧ claiming.clusterIdle 1 = true := by decide +kernel
/-- A slice of a device of weight 1 that has run its quantum, and of one of weight 0. -/
theorem test_witness_PartitionEvents_slice : ∀ weight ∈ [0, 1], ∃ (s : State) (p : Partition) (v : VDev), s.partOf 0 = some p ∧ s.sliceOver p = true
    ∧ p.running = some 0 ∧ s.vdOf 0 = some v ∧ v.weight = weight := by
  intro weight hw
  let v : VDev := { device1 with weight }
  refine ⟨{ State.reset with ns := 1000000, parts := [lender], vdevs := [v], contexts := [placeContext], tasks := [startable 1] }, lender, v, ?_⟩
  simp only [List.mem_cons, List.not_mem_nil, or_false] at hw
  rcases hw with rfl | rfl <;> decide +kernel

theorem test_witness_DeviceEvents_create : ∃ (s : State) (spec : VDevSpec) (p : Partition), s.partOf spec.pid = some p ∧ s.life ≠ .retired ∧ spec.num ≤ 15
    ∧ s.vdOf (16 * spec.pid + spec.num) = none ∧ spec.dies.length ≤ 16 ∧ (∀ d ∈ spec.dies, d ≤ 3) ∧ spec.configAt % 64 = 0
    ∧ spec.configAt + 2048 ≤ 768000000000 ∧ spec.dies[1]? = some 3 :=
  ⟨{ State.reset with parts := [part0] }, ⟨0, 15, 5, 0x60000, [0, 3]⟩, part0, by decide +kernel⟩
/-- A window in the partition, for a device that is unlocked, one that runs and one in ERROR; a granule count as its length. -/
def ifaced (iface : Iface) : State := { State.reset with parts := [part0], vdevs := [{ device1 with iface, windows := List.replicate 16 (0, 0) }] }
theorem test_witness_DeviceEvents_window :
    (∀ i ∈ [Iface.unlocked, .locked, .run, .error], (ifaced i).vdOf 0 = some { device1 with iface := i, windows := List.replicate 16 (0, 0) }
        ∧ (ifaced i).partOf 0 = some part0)
      ∧ windowInside part0.desc (0, (0x00FFFFFF : BitVec 64)) = true ∧ (0x00FFFFFF : BitVec 64).toNat < 2 ^ 24
      ∧ (let w : BitVec 64 := 0x8000000000060000
         windowInside part0.desc (w, 0) = true ∧ bitField w 0 16 = 0 ∧ bitField w 40 19 = 0 ∧ bitField w 61 2 ≤ 1) := by decide +kernel
theorem test_witness_DeviceEvents_config : ∃ (s : State) (q : QueueInfo) (x : Vector), s.badLines = [] ∧ s.vdOf 0 = some device1 ∧ device1.iface = .unlocked ∧ device1.queues[1]? = some q
    ∧ device1.vectors[63]? = some x :=
  ⟨{ State.reset with vdevs := [device1] }, ⟨0x60080, 1, true⟩, ⟨0, 0x3FF, 0, false, false⟩, by decide +kernel⟩
theorem test_witness_DeviceEvents_pause : ∃ s : State, s.vdOf 0 = some device1 ∧ device1.paused = none ∧ s.deviceBlocks 0 = []
    ∧ ∀ c, c ∈ s.commands → c.vd = 0 → c.code = 6 → s.midPiece c = false :=
  ⟨{ State.reset with vdevs := [device1] }, by decide +kernel⟩
theorem test_witness_DeviceEvents_resume : ∀ wall ∈ [false, true], ∃ (s : State) (v : VDev), s.vdOf 0 = some v ∧ v.paused = some 7 ∧ v.wall = wall := by
  intro wall hw
  let v : VDev := { device1 with wall, paused := some 7 }
  refine ⟨{ State.reset with vdevs := [v] }, v, ?_⟩
  simp only [List.mem_cons, List.not_mem_nil, or_false] at hw
  rcases hw with rfl | rfl <;> decide +kernel
theorem test_witness_DeviceEvents_migrate :
    let v : VDev := { device1 with paused := some 7 }
    let s : State := { State.reset with vdevs := [v], contexts := [placeContext], parts := [part0] }
    let dest : MigrationDest := ⟨9, Config.stepping, true, true⟩
    dest.pkg ≠ s.pkg ∧ s.vdOf 0 = some v ∧ s.partOf v.pid = some part0 ∧ v.paused ≠ none ∧ dest.stepping = Config.stepping ∧ v.iface = .unlocked ∧ dest.room = true ∧ dest.tasksFree = true
      ∧ ∀ c ∈ s.contexts, c.vd = 0 → s.quiescent c.id = true :=
  ⟨by decide +kernel, by decide +kernel, by decide +kernel, by decide +kernel, rfl, rfl, rfl, rfl, by decide +kernel⟩
/-- A paused device with a context arrives where there is room, and where its number is taken. -/
def moving : Moving :=
  { src := 9, part := part0.desc, vd := { device1 with paused := some 7 }, mem := [(0x60200, 9)], spad := [], versions := [], contexts := [placeContext],
    tasks := [], saved := [], jobs := [], maps := [], commands := [], pause := 1000 }
theorem test_witness_DeviceEvents_arrive :
    let s : State := { State.reset with arrived := [moving], parts := [part0] }
    (9 : BitVec 10) ≠ s.pkg ∧ s.arrived = moving :: [] ∧ (({ s with arrived := [] } : State).arrive 3 moving).isSome = true
      ∧ (({ s with arrived := [], vdevs := [device1] } : State).arrive 0 moving).isNone = true := by decide +kernel
theorem test_witness_DeviceEvents_reset : ∃ (s : State) (v : VDev), s.vdOf 0 = some v ∧ s.focus = 0 ∧ v.iface ≠ .unlocked ∧ s.change = none
    ∧ ∀ c ∈ s.contexts, c.vd ≠ 0 :=
  ⟨ifaced .run, { device1 with iface := .run, windows := List.replicate 16 (0, 0) }, by decide +kernel⟩
/-- The device in focus in each interface state, without contexts, with a key exchange under way and with a session. -/
theorem test_witness_DeviceEvents_requests :
    (∀ i ∈ [Iface.unlocked, .locked, .run, .error], (ifaced i).vdOf (ifaced i).focus = some { device1 with iface := i, windows := List.replicate 16 (0, 0) }
        ∧ (∀ c ∈ (ifaced i).contexts, c.vd ≠ 0) ∧ (ifaced i).life ≠ .retired ∧ (ifaced i).identity = true)
      ∧ (∃ (s : State) (v : VDev), s.vdOf s.focus = some v ∧ v.exchanged = true ∧ v.session = true)
      ∧ (∃ (s : State), s.life = .retired) ∧ ∃ (s : State) (v : VDev), s.vdOf s.focus = some v ∧ s.identity = false :=
  ⟨by decide +kernel, ⟨{ State.reset with vdevs := [{ device1 with exchanged := true, session := true }] }, { device1 with exchanged := true, session := true },
    by decide +kernel⟩, ⟨{ State.reset with life := .retired }, rfl⟩, ⟨{ State.reset with vdevs := [device1], identity := false }, device1, by decide +kernel⟩⟩
/-! ### Witnesses: the scheduler -/

/-- The device's partition runs its slice, and a task wants its first block; nothing is resident. -/
def scheduling (t : Task) : State :=
  { onAll (fun w => w) with parts := [{ part0 with running := some 0 }], tasks := [t], blocks := [], warps := [] }
/-- A want that can be placed, of a block of one core and 64 bytes of block memory. -/
def placeable (s : State) (stage : Nat) : Bool :=
  match s.wanted 0 0 stage with
  | some w => w.saved.isNone && (s.placement w).isSome && w.desc.cores == 1 && decide (w.desc.bmem ≤ 262144)
  | none => false

/-- A pipeline of two stages with a queue of depth 4 at the start of the scratchpad window, whose flags are at 0x51000. -/
def pipeline (made used : Nat) (cores : List (List Nat)) : State :=
  let t : Task :=
    { placeTask with
      rec' := { placeTask.rec' with nstage := 2, stages := [{ placeStage with gx := 4, bmem := 64 }, { placeStage with gx := 4, bmem := 64, queue := 64 }] },
      stages := [⟨0, 0, [], false, cores.headD []⟩, ⟨0, 0, [], false, cores.getD 1 []⟩] }
  { scheduling t with
    spad := listed 64 (leBytes 4 0 ++ leBytes 4 4 ++ leBytes 8 0 ++ leBytes 8 0x51000 ++ leBytes 8 made ++ leBytes 8 used),
    dev := (scheduling t).dev ++ listed 0x51000 (leBytes 8 (2 ^ 63)) }
theorem test_witness_SchedulingEvents_start :
    placeable (scheduling (startable 1)) 0 = true ∧ Sound (scheduling (startable 1)) ∧ placeable (pipeline 1 0 [[0], [1]]) 1 = true :=
  ⟨by decide +kernel, sound_of rfl rfl, by decide +kernel⟩

/-- A finished task with a successor that waits for it alone. -/
def finishing : State :=
  let t : Task := { placeTask with rec' := { placeTask.rec' with succ := [1], nsucc := 1 }, stages := [⟨1, 1, [], false, []⟩] }
  let n : Task := { placeTask with idx := 1, counter := 1, ready := false, rec' := { placeTask.rec' with param := 0x51000, nparam := 1 } }
  { scheduling t with tasks := [t, n] }
theorem test_witness_SchedulingEvents_complete : (match finishing.taskOf 0 0 with
    | some t => finishing.ctxOf t.ctx == some placeContext && t.finished && !finishing.taskBusy 0 0
        && (t.rec'.succ.take t.rec'.nsucc).map (fun v => (bitField v 12 2, bitField v 0 12)) == [(0, 1)]
    | none => false) = true
    ∧ (match finishing.taskOf 0 1 with
      | some x => x.counter == 1 && !x.ready && !finishing.checkpointing x.ctx && (finishing.readRange (.engine x.order) (dieCore 0) x.ctx x.rec'.param (4 * x.rec'.nparam)).2.toBool
      | none => false) = true := by decide +kernel

/-- The queue full, low, and between. -/
theorem test_witness_SchedulingEvents_rebalance : ∀ e ∈ [(3, 0), (1, 0), (2, 0)],
    let s : State := { pipeline e.1 e.2 [[0, 1], [2, 3]] with hb := 64 }
    (match s.taskOf 0 0 with
      | some t => t.ready && !t.rec'.marker && t.rec'.nstage == 2 && s.hb.toNat % 64 == 0 && t.evalHb != s.hb && s.ns == s.edgeNs && (match t.rec'.stages, t.stages with
        | [e', d], [p, g] => s.queueOf t d == some (4, 0x51000, e.1, e.2) && decide (1 < p.cores.length) && decide (1 < g.cores.length)
            && decide (p.next < e'.blocks)
        | _, _ => false)
      | none => false) = true := by decide +kernel

/-- The placed block, of 64 bytes of block memory and a warp of 8 registers, on a cluster that is to change partition. -/
def evicting : State :=
  let s := onAll (fun w => { w with nreg := 8 })
  { s with
    parts := [{ part0 with running := some 0 }], change := some ⟨[{ part0.desc with guar := 4 }], 16, 0, none⟩, blocks := [{ placeBlock 1 with bmem := 64 }],
    tasks := [{ placeTask with rec' := { placeTask.rec' with save := 0x200000, saveLen := 0x1000000, stages := [{ placeStage with bmem := 64, vregs := 1 }] } }] }
theorem test_witness_SchedulingEvents_evict : (evicting.mustGo 1 && match evicting.blockOf 1, evicting.taskOf 0 0 with
    | some b, some t =>
      let s0 := (match evicting.wantOver 1 with | some w => evicting.reserve w | none => evicting).onBlock 1 (fun b => { b with leaving := true })
      let s1 := s0.holdFaults { b with leaving := true }
      let s2 : State := { s1 with warps := s1.warps.map (fun (w : Warp) => if w.block == 1 then w.squash else w) }
      let ws := s2.warps.filter (fun w => w.block == 1)
      let s3 := ws.foldl (fun s w => s.writeBackAll w.uid) (s2.noteWork t.ctx)
      s0.quietBlock 1 && !s0.goesOn 1 && s1.commandsOver 1
        && (match s3.ctxOf t.ctx with | some x => !x.killing | none => false) && match s3.imageOf b (b.bmem / 64) with
        | (s4, .ok image) => (s4.writeChunks noAsker (dieCore b.die) t.ctx (s1.slotAddr b.die b.task b.stage b.saveSlot)
            ((0, b.header 2 s4.hb) :: image ++ (tagsAt b.cores.length, b.tagBytes) :: s4.bankImages b ++ ws.map (s4.recordOf b.cores.length))).2.isNone
        | _ => false
    | _, _ => false) = true := by decide +kernel

/-- A saved block in a slot at some address, with a header; another block leaves one place for it on core 0 and the other cores are withdrawn. -/
def saved0 : SavedBlock := ⟨1, 1, 0, 0, 0, 0, 0, [⟨2, 0, 0, 0, 0, 0, 0⟩]⟩
def restoring (save : Nat) (l : Memory) : State :=
  let s := scheduling { placeTask with rec' := { placeTask.rec' with save, saveLen := 0x1000000, stages := [{ placeStage with bmem := 64, vregs := 1 }] } }
  { s with
    saved := [saved0], dev := s.dev ++ l, blocks := [{ placeBlock 7 with task := 5, bases := [1024], bmem := 261120 }],
    cores := (List.range 27).map (fun k => { Core.reset (k + 1) with withdrawn := true }) }
def header0 : List Byte := headerBytes 2 0 0 1 1 64 0 0 [0]

/-- A slot that cannot be read, and one whose header does not fit. -/
theorem test_witness_SchedulingEvents_restore_fails : ∀ e ∈ [(2 ^ 40, true), (0x200000, false)],
    (match (restoring e.1 []).wanted 0 0 0 with
      | some w => w.saved == some saved0 && match (restoring e.1 []).readRange noAsker (dieCore 0) 1 ((restoring e.1 []).slotAddr 0 0 0 0) 256 with
        | (_, .error _) => e.2
        | (_, .ok header) => headerBad w.desc header && !e.2
      | none => false) = true := by decide +kernel

theorem chooseBases_one {s : State} {d : StageDesc} {set : List Nat} (h : s.basesFor [] (set.getD 0 0) (shareAt d.bmem 0) = [0]) :
    s.chooseBases d set 1 = (s.chooseNat.2, [0]) := by
  have g (k : Nat) : ([0] : List Nat).getD k 0 = 0 := by cases k <;> rfl
  simp only [State.chooseBases, h, g, List.nil_append]
/-- One that fits. -/
def restorable : State := restoring 0x200000 (listed 0x200000 header0 ++ [(0x200000 + recordAt 1 0, 1)])
def wanted0 : Want := (restorable.wanted 0 0 0).getD ⟨placeTask, 0, placeStage, 0, none, [], none⟩
def readHead : State × Except Bad (List Byte) := restorable.readRange noAsker (dieCore 0) 1 (restorable.slotAddr 0 0 0 0) 256
theorem test_witness_SchedulingEvents_restore :
    restorable.wanted 0 0 0 = some wanted0 ∧ wanted0.saved = some saved0
      ∧ (match readHead.2 with | .ok header => !headerBad wanted0.desc header | .error _ => false) = true ∧ readHead.1.placement wanted0 = some [0]
      ∧ restorable.blockOf 1 = none ∧ restorable.warps = [] ∧ readHead.1.chooseBases wanted0.desc [0] wanted0.desc.cores = (readHead.1.chooseNat.2, [0])
      ∧ (match readHead.2 with
        | .ok header =>
          let s1 := readHead.1.chooseNat.2
          let b := wanted0.block 1 0 [0] [0] ((List.range wanted0.desc.cores).map (fun j => BitVec.ofNat 64 (leAt header (64 + 8 * j) 8)))
          let base := readHead.1.slotAddr 0 0 0 0
          (match ({ s1 with blocks := s1.blocks ++ [b] } : State).applyBlock noAsker (dieCore 0) 1 b base header with
          | (s2, none) =>
            (s2.restoreWarps (s2.blockAt 1) wanted0.desc 1 base (readHead.1.warpSlots wanted0.desc wanted0.task.rec'.paired [0]) saved0.warps).2.isNone
          | _ => false)
        | .error _ => false) = true :=
  ⟨by decide +kernel, by decide +kernel, by decide +kernel, by decide +kernel, by decide +kernel, by decide +kernel,
    chooseBases_one (by decide +kernel), by decide +kernel⟩

theorem before_none {w : Warp} (h : w.quads.all (fun q => q.before.isNone) = true) (q : Nat) : (w.quad q).before = none := by
  unfold Warp.quad
  rw [List.getD_eq_getElem?_getD]
  cases hq : w.quads[q]? with
  | none => rfl
  | some p => simpa using List.all_eq_true.mp h p (List.mem_of_getElem? hq)
/-- The context's watchdog has counted to its interval, and its warp has a handler. -/
theorem test_witness_SchedulingEvents_watchdog :
    let s : State := { on handled with contexts := [{ placeContext with watchdog := 5, count := 5 }] }
    let w := warpIn s 2
    (∃ c, s.ctxOf 1 = some c ∧ c.watchdog ≠ 0 ∧ c.watchdog ≤ c.count) ∧ w ∈ s.warps ∧ s.warpOf w.uid = some w ∧ w.ctx = 1 ∧ w.ended = false
      ∧ w.aliveQuads ≠ [] ∧ TrapsAtOnce s w ∧ w.trap.tbase ≠ 0 ∧ ∀ q, (w.quad q).before = none :=
  ⟨⟨{ placeContext with watchdog := 5, count := 5 }, by decide +kernel⟩, by decide +kernel, by decide +kernel, by decide +kernel, by decide +kernel,
    by decide +kernel, by unfold TrapsAtOnce; decide +kernel, by decide +kernel, before_none (by decide +kernel)⟩
/-! ### Witnesses: the engines -/

/-- The placed machine with commands of its warp at the head of sprue 7 of core 0. -/
def heads (l : List Command) (f : Warp → Warp := fun w => w) : State :=
  { onAll f with cores := [{ Core.reset 0 with sprues := [[], [], [], [], [], [], [], l] }] }
def mine (work : CmdWork) : Command := { command 1 work with warp := 2 }
/-- A tensor of one word at an address. -/
def wordShape (base : Nat) : Shape := Shape.ofBytes (oneWord base)
def copyOne (src dst : Nat) : Command := mine (.copy .cp (wordShape src) (wordShape dst) [[0, 0, 0, 0, 0, 0]] ⟨none, 0, 0, 0⟩ [] 0 0)
def saveOne : Command := mine (.save 1 0x51000 [(0, [1, 2])] false)

/-- What the statement asks of the head of sprue 7: not done and without a fault, its accesses issued or not. -/
def readyB (s : State) (x : Command) (begun : Bool) : Bool :=
  s.cpcs == [] && s.sprue 0 7 == [x] && s.commandAt x.uid == some (0, 7, x) && !x.done && x.fault.isNone && x.begun == begun

/-- A save and a copy whose accesses are not issued. -/
theorem test_witness_EngineEvents_begin : readyB (heads [saveOne]) saveOne false = true ∧ (heads [saveOne]).orderedBefore saveOne.after = true
    ∧ (let x := copyOne 0x60000 0x60100
       readyB (heads [x]) x false = true ∧ x.lost = [] ∧ (heads [x]).orderedBefore x.after = true
        ∧ (let p := x.plan []
           match (heads [x]).locate (.engine x.uid) 0 x.ctx ((heads [x]).blockOf x.block) p x.rows ((List.range p.rows).filter (fun r => !x.rows.contains r || false)) with
           | (_, ms) => (ms.map (fun m => m.1) == [0] && ms.all (fun m => match m.2 with | .ok l => (p.start [0] true l).accs != [] | .error _ => false)) = true)) := by
  decide +kernel

/-- A row of a save that is written, and one whose line is bad. -/
theorem test_witness_EngineEvents_save : ∀ bad ∈ [false, true],
    let x := { saveOne with begun := true, works := [⟨[0], [], [], []⟩] }
    let s : State := { heads [x] with badLines := if bad then [(0x51000 / 64, true)] else [] }
    readyB s x true = true ∧ x.works[0]? = some ⟨[0], [], [], []⟩
      ∧ (match (s.saveRows x [(0, [1, 2])] false)[0]? with
        | some row => (match (s.noteWork x.ctx).saveRow 0 0x51000 x row with | (_, none) => !bad | (_, some e) => bad && !e.later)
        | none => false) = true := by decide +kernel

/-- A begun copy of one word that has one access left: it reads, or it writes. -/
def reading (key : Nat) : RowWork := ⟨[0], [⟨none, [(0, ⟨.dev, key, key, 0⟩)], [], .dev⟩], [], [(0, ⟨.dev, 0x60100, 0x60100, 0⟩)]⟩
def writing (key : Nat) : RowWork := ⟨[0], [⟨none, [], (List.range 4).map (fun i => (key + i, ⟨7, 0xFF, key⟩)), .dev⟩], [(0, 0x07070707)], []⟩
def begunWith (kind : CopyKind) (y : RowWork) : Command :=
  { mine (.copy kind (wordShape 0x60000) (wordShape 0x60100) [[0, 0, 0, 0, 0, 0]] ⟨none, 0, 0, 0⟩ [] 5 1) with begun := true, works := [y] }
/-- Each on lines that are good and on lines that are bad. -/
def nears (kind : CopyKind) (y : RowWork) (bad : Bool) : State :=
  { heads [begunWith kind y] with badLines := if bad then [(0x60000 / 64, true), (0x60100 / 64, true)] else [] }
theorem test_witness_EngineEvents_read : ∀ bad ∈ [false, true],
    let y := reading 0x60000
    let x := begunWith .cp y
    readyB (nears .cp y bad) x true = true ∧ (CopyKind.cp == .cpt true && y.swaps) = false ∧ x.next[0]? = some (0, 0)
      ∧ y.accs.all (fun a => a.space == .dev && (keyRemote a.key).isNone && a.write == []
          && (match ((nears .cp y bad).noteWork x.ctx).readElems (wordShape 0x60000).esz a.reads with | (_, .ok _) => !bad | (_, .error _) => bad)) = true := by
  decide +kernel
theorem test_witness_EngineEvents_write : ∀ bad ∈ [false, true],
    let y := writing 0x60100
    let x := begunWith .cp y
    readyB (nears .cp y bad) x true = true ∧ (CopyKind.cp == .cpt true && y.swaps) = false ∧ x.next[0]? = some (0, 0) ∧ x.heldWrites = 0 ∧ x.met = none
      ∧ y.dsts = []
      ∧ y.accs.all (fun a => a.space == .dev && (keyRemote a.key).isNone && a.write != []
          && (((nears .cp y bad).noteWork x.ctx).writeRun a.space a.write).2.isNone == !bad) = true := by decide +kernel
theorem test_witness_EngineEvents_versioned : ∀ add ∈ [false, true],
    let y := writing 0x60100
    let x := begunWith (.cpv add) y
    readyB (nears (.cpv add) y false) x true = true ∧ (CopyKind.cpv add == .cpt true && y.swaps) = false ∧ x.next[0]? = some (0, 0)
      ∧ y.accs.all (fun a => a.space == .dev && (keyRemote a.key).isNone && a.write != []) = true := by decide +kernel
/-- An access of package 3, which a port reaches. -/
theorem test_witness_EngineEvents_remote :
    let y := reading (4 * 2 ^ 40 + 0x60000)
    let x := begunWith .cp y
    let s : State := { heads [x] with routes := [⟨3, 0, 2⟩] }
    readyB s x true = true ∧ (CopyKind.cp == .cpt true && y.swaps) = false ∧ x.next[0]? = some (0, 0)
      ∧ y.accs.all (fun a => a.space == .dev && keyRemote a.key == some 3) = true ∧ (s.routeTo 3 0).toOption = some 2
      ∧ s.mayTake 2 (s.request x.ctx x.uid) = true := by decide +kernel
/-- A transpose in place that meets a bad line. -/
theorem test_witness_EngineEvents_transpose :
    let y := reading 0x60000
    let x := begunWith (.cpt true) y
    let s := nears (.cpt true) y true
    readyB s x true = true ∧ y.swaps = true ∧ x.next[0]? = some (0, 0)
      ∧ (match s.readElems (wordShape 0x60000).esz (y.accs.flatMap (fun a => a.reads)) with | (_, .error _) => true | _ => false) = true := by decide +kernel

/-- An entry of a `qfence`, a command that is done, with and without routes, and one with a fault. -/
def routed (record task : Bool) : Command :=
  { copyOne 0x60000 0x60100 with done := true, routes := { Routes.none with record, task, die := 0, index := 0, tag := 5 } }
theorem test_witness_EngineEvents_complete : (heads [mine (.qfence 3)]).fenceMet 0 3 = true
    ∧ ∀ x ∈ [routed false false, routed true false, routed false true],
      let s : State := { heads [x] with tasks := [{ placeTask with counter := 2 }] }
      x.fault = none ∧ x.done = true ∧ s.ringFull (coreDie 0) = false ∧ x.routes.barrier = false
        ∧ s.taskOf x.routes.die x.routes.index = some { placeTask with counter := 2 } ∧ s.warpOf x.warp = some (warpIn s 2) ∧ Busy s (warpIn s 2) := by
  unfold Busy
  decide +kernel
theorem test_witness_EngineEvents_fault :
    let f : CmdFault := ⟨6, 0x60000, 0, 0, false⟩
    let x := { copyOne 0x60000 0x60100 with fault := some f }
    let s : State := { heads [x] handled with hb := 1024 }
    let w := warpIn s 2
    s.sprue 0 7 = [x] ∧ s.warpOf x.warp = some w ∧ 1024 ≤ (s.hb - f.since).toNat ∧ w.realLanes ≠ 0
      ∧ (w.ended = false ∧ w.aliveQuads ≠ [] ∧ w.trap.tbase ≠ 0) ∧ TrapsAtOnce s w ∧ ∀ q, (w.quad q).before = none :=
  ⟨by decide +kernel, by decide +kernel, by decide +kernel, by decide +kernel, by decide +kernel, by unfold TrapsAtOnce; decide +kernel,
    before_none (by decide +kernel)⟩

/-- A collective of two ranks over one word: one is here, the other a peer. -/
def collWork (npart timeout : Nat) : CmdWork := .coll 0 1 0x51000 0x60000 0x60100 9 npart 0 4 timeout 0 0
theorem test_witness_EngineEvents_collective :
    let x := mine (collWork 2 0)
    let s := heads [x]
    let peers : List CollPeer := [⟨1, 0, 1, 4, [7, 0, 0, 0]⟩]
    let ms := s.members 9 0
    (ms.any (fun m => m.core == 0 && m.sprue == 7) && match s.readMembers ms with
      | (s1, rs) =>
        rs.all (fun r => r.2.toBool)
          && (let data (r : CollMember × Except Bad (List Byte)) : List CollPeer := match r.2 with | .ok d => [r.1.peer d] | .error _ => []
            let all := peers ++ rs.flatMap data
            let ranked := (List.range 2).map (fun k => all.find? (fun p => p.rank == k))
            ranked.all (fun p => p.any (fun v => v.op == 0 && v.ty == 1 && v.bytes == 4))
              && (s1.writeMembers (combineAll 0 1 ((ranked.filterMap (fun p => p)).map (fun p => p.data)) 0 (4 / max 1 (tyWidth 1 / 8))) 0 ms).2.isNone))
      = true := by decide +kernel
theorem test_witness_EngineEvents_tree : (1 : Nat) ∉ setFS ++ setFD ∧ [0xFFFFFFFF, 2].length ≤ 4096 ∧ ∀ a ∈ [0xFFFFFFFF, 2], a < 2 ^ tyWidth 1 := by
  decide +kernel
theorem test_witness_EngineEvents_collTimeout :
    let x := mine (collWork 2 3)
    let s : State := { heads [x] with hb := 3072, dev := (heads [x]).dev ++ listed 0x51010 (leBytes 8 0x52000) }
    s.sprue 0 7 = [x] ∧ x.done = false ∧ x.fault = none ∧ 1024 * 3 ≤ (s.hb - 0).toNat
      ∧ (let here := (s.members 9 0).map (fun m => m.rank)
         let missing := ((List.range 2).find? (fun r => !here.contains r)).getD 0
         match (s.readRange (.engine x.uid) 0 x.ctx (0x51000 + 16) 8).2 with
         | .ok table => leAt table 0 8 == 0x52000 && missing == 1 && (s.readRange (.engine x.uid) 0 x.ctx (0x52000 + 4 * missing) 4).2.toBool
         | .error _ => false) = true := by decide +kernel

/-- Feeds of no entry, and of one whose job's fields are being written. -/
theorem test_witness_EngineEvents_feed : ∀ n ∈ [0, 1],
    let x := mine (.feed 1 0x60000 0 n 1 true)
    let s : State := { heads [x] with jobs := [{ job 1 0 0 with writes := [.field 60 4 0], entries := List.replicate 1 ⟨5, 6, 1, 0⟩ }] }
    s.sprue 0 7 = [x] ∧ x.done = false ∧ s.orderedBefore x.after = true := by decide +kernel
/-- A feed of one entry that its job takes. -/
theorem test_witness_EngineEvents_entry : ∀ keysOnly ∈ [false, true],
    let x := mine (.feed 1 0x60000 0 1 1 keysOnly)
    let s : State := { heads [x] with jobs := [job 1 0 0] }
    let f : StoppedFeed := { base := 0x60000, off := 0, count := 1, stream := 1, keysOnly }
    s.sprue 0 7 = [x] ∧ x.done = false ∧ s.orderedBefore x.after = true ∧ s.jobOf 1 = some (job 1 0 0) ∧ (job 1 0 0).status = 0 ∧ (job 1 0 0).writes = []
      ∧ s.resident (job 1 0 0).cluster + 1 ≤ 65536
      ∧ (match s.feedEntry (job 1 0 0) f with | (_, .ok e) => ((job 1 0 0).refuses 1 [e]).isNone | _ => false) = true := by decide +kernel
/-- A feed that waits, while what its job holds is written as a run. -/
theorem test_witness_EngineEvents_feed_waits :
    let x := mine (.feed 1 0x60000 0 1 1 true)
    let f : StoppedFeed := { base := 0x60000, off := 0, count := 1, stream := 1, keysOnly := true }
    let s : State := { heads [x] with jobs := [{ job 1 0 0 with writes := [.field 60 4 0] }] }
    (match s.feedStep 1 f with | (_, .wait) => true | _ => false) = true := by decide +kernel
/-- A drain of a job with one entry, and the final merge of a job of two parts: to be merged, merged, and done. -/
theorem test_witness_EngineEvents_drain : ∀ span ∈ [false, true], ∀ e ∈ [(1, false), (1, true), (2, true)],
    let j : Job := { job 1 0 e.1 with entries := [⟨5, 6, 1, 0⟩], span, final := span, npart := 2, donePart := 1, merged := e.2 }
    let s := ladle [j]
    s.jobOf 1 = some j ∧ j.status = e.1 ∧ j.writes = [] ∧ j.away = [] ∧ j.span = span ∧ j.final = span ∧ j.donePart + 1 = j.npart ∧ j.op ≠ 4
      ∧ s.jobRoom j = true ∧ j.acted = false ∧ j.routes.barrier = false ∧ j.routes.task = false
      ∧ (match (s.noteWork j.ctx).readRuns j j.runs with
        | (_, .ok runs) => (j.pieces (j.emits (runs ++ j.entries))).all (fun p => decide (p.off + p.bytes.length ≤ p.limit))
        | _ => false) = true := by decide +kernel

/-- A versioned write of a command, held until its line has version 0, or past its deadline. -/
def heldWrite : HeldWrite :=
  { cmd := 1, ctx := 1, line := 0x1800, name := 0x60000, index := 0, rows := [0], expect := 0, add := none, data := [(0x60000, 1), (0x60001, 2)], deadline := 10 }
theorem test_witness_EngineEvents_version :
    let x := { copyOne 0x60000 0x60100 with heldWrites := 1, begun := true }
    let s : State := { heads [x] with hb := 10, heldWrites := [heldWrite] }
    (s.heldWrites.filter (fun h => h.line == 0x1800))[0]? = some heldWrite ∧ s.version 0x1800 = heldWrite.expect ∧ s.badLines = []
      ∧ heldWrite.deadline.toNat ≤ s.hb.toNat ∧ s.commandAt heldWrite.cmd = some (0, 7, x) ∧ x.works = [] ∧ x.met = none ∧ x.fault = none
      ∧ heldWrite.data[1]? = some (0x60001, 2) ∧ heldWrite.add = none := by decide +kernel

/-- A `wait` of lane 0 of quad 0 for a word of device memory to differ from a value, beside a quad that runs. -/
def waiting (operand : DWord) : Waiting :=
  { seq := 9, early := [], pc := 0x40000, len := 8, quads := 1, wide := false, ne := true, acq := none, ext := false, dst := 2, timeout := 3, since := 0,
    lanes := [⟨0, .dev, 0x60000, 0x60000, none, operand, none, true⟩] }
def waitsAt (operand : DWord) (w : Warp) : Warp := { handled (w.onQuad 0 (fun q => { q with park := .waiting })) with waits := [waiting operand] }
def laneAt (operand : DWord) : WaitLane := ⟨0, .dev, 0x60000, 0x60000, none, operand, none, true⟩
def wakes (operand : DWord) : Bool :=
  match (onAll (waitsAt operand)).warpOf 2 with
  | some w =>
    w.waits.findSome? (fun x => (x.lanes.find? (fun l => l.lane == 0 && l.result.isNone)).map (fun l => (x, l)))
        == some (waiting operand, laneAt operand)
      && (onAll (waitsAt operand)).mayPerform w ((waiting operand).access (laneAt operand)) && w.quads.length == 8 && !w.paired && w.trail == []
      && (laneAt operand).stirred
  | none => false
/-- The word is 0: it equals the first value and differs from the second. -/
theorem test_witness_EngineEvents_wake : wakes 0 = true ∧ wakes 1 = true
    ∧ (match (onAll (waitsAt 0)).readAt .dev 0x60000 4 with | (_, .ok v) => v == 0 | _ => false) = true
    ∧ Busy (onAll (waitsAt 0)) (warpIn (onAll (waitsAt 0)) 2) := by
  refine ⟨by decide +kernel, by decide +kernel, by decide +kernel, by unfold Busy; decide +kernel⟩
theorem test_witness_EngineEvents_waitTimeout :
    let s : State := { onAll (waitsAt 0) with hb := 3072 }
    let w := warpIn s 2
    let x := waiting 0
    s.warpOf 2 = some w ∧ (w.ended = false ∧ TrapsAtOnce s w ∧ w.trap.tbase ≠ 0)
      ∧ w.waits.find? (fun x => x.quads.getLsbD 0) = some x ∧ 0 ∈ w.aliveQuads ∧ x.timeout ≠ 0 ∧ 1024 * x.timeout ≤ (s.hb - x.since).toNat
      ∧ x.lanes.filter (fun l => l.result.isNone) ≠ [] := by
  unfold TrapsAtOnce
  decide +kernel

/-- A `fence.tick` on an unlocked package, one that has not drained, one that has, and one with an edge before, at and after the heartbeat. -/
def ticking (edge : Option (BitVec 64)) (pending : List Access) (locked : Bool) : State :=
  { onAll (fun w => { w.onQuad 0 (fun q => { q with park := .fenceTick }) with tick := some ⟨1, 9, edge⟩, pending }) with hb := 5, locked }
theorem test_witness_EngineEvents_tick :
    (∀ e ∈ [(none, false), (none, true), (some 4, true), (some 5, true), (some 6, true)], ∃ w, (ticking e.1 [] e.2).warpOf 2 = some w ∧ w.tick = some ⟨1, 9, e.1⟩)
      ∧ (ticking none [] true).drained 0 9 = true ∧ (ticking none [{ store4 with seq := 8 }] true).drained 0 9 = false
      ∧ Busy (ticking (some 5) [] true) (warpIn (ticking (some 5) [] true) 2)
      ∧ (let s : State := { ticking (some 5) [] true with ns := 63 }
         s.hb = 5 ∧ (s.ns - s.edgeNs).toNat < 64)
      ∧ (let s : State := { ticking (some 5) [] true with ns := 64 }
         ¬ (s.hb.toNat < 5 ∨ s.hb = 5 ∧ (s.ns - s.edgeNs).toNat < 64)) := by
  refine ⟨fun e he => ?_, by decide +kernel, by decide +kernel, by unfold Busy; decide +kernel, by decide +kernel, by decide +kernel⟩
  refine ⟨warpIn (ticking e.1 [] e.2) 2, ?_⟩
  simp only [List.mem_cons, List.not_mem_nil, or_false] at he
  rcases he with rfl | rfl | rfl | rfl | rfl <;> decide +kernel

theorem test_witness_EngineEvents_sleep :
    let s := onAll (fun w => w.onQuad 7 (fun q => { q with park := .sleep }))
    let w := warpIn s 2
    s.warpOf 2 = some w ∧ w.quads.length = 8 ∧ (w.quad 7).park = .sleep ∧ (w.quad 7).readyAt ≤ (s.coreOf w.core).clk := by decide +kernel
/-- A packing window that is over, and one of another instruction. -/
theorem test_witness_EngineEvents_window :
    let x : PackWindow := ⟨1, 0x40000, 0⟩
    let s : State := { onAll (fun w => w.onQuad 3 (fun q => { q with park := .packing 0x40000 })) with
      cores := [{ Core.reset 0 with clk := 256, windows := [x, ⟨1, 0x40100, 0⟩] }] }
    let w := warpIn s 2
    x ∈ (s.coreOf 0).windows ∧ x.opened + 256 ≤ (s.coreOf 0).clk ∧ w ∈ s.windowWarps 0 x.block ∧ s.warpOf w.uid = some w ∧ 3 ∈ w.aliveQuads
      ∧ 3 < w.quads.length ∧ (w.quad 3).park = .packing 0x40000 := by decide +kernel
theorem test_witness_EngineEvents_step :
    let s := onAll (fun w => { w with mstep := { w.mstep with active := true, total := 3, done := 1 } })
    let w := warpIn s 2
    s.warpOf 2 = some w ∧ w.mstep.active = true ∧ w.mstep.done + 1 < w.mstep.total := by decide +kernel
/-- A compared operation that agrees with what the shadow offers, with an access that it holds and without one, and one that differs in a region that may restart. -/
theorem test_witness_EngineEvents_shadow : ∀ e ∈ ([(0, [4, 7]), (1, [4, 7]), (1, [4, 8])] : List (Nat × List Nat)),
    let h : Trail := { quads := 1, others := false, seq := e.1, compared := some [4, 7], released := false, value := none, exits := false, bar := false, trap := none, banks := 0 }
    let s : State := shadowed (onAll (fun w => { handled w with wctl := 0x40, pending := [{ store4 with held := true }], trail := [h], region := 0x40001, rcount := 2 }))
    let s : State := { s with shadows := s.shadows.map (fun v => { v with offer := some e.2 }) }
    let w := warpIn s 2
    (match s.shadowOf 2 with | some v => v.offer == some e.2 | none => false) = true ∧ s.warpOf 2 = some w ∧ w.trail.find? Trail.keyed = some h ∧ w.spec = none
      ∧ Busy s w ∧ bitAt w.region 0 = true ∧ bitField w.rcount 0 2 < 3 := by
  unfold Busy
  decide +kernel
/-- A dirty line and a clean one. -/
theorem test_witness_EngineEvents_stack :
    let s := onAll (fun w => { w with lines := [0, 31], dirty := [31] })
    let w := warpIn s 2
    s.warpOf 2 = some w ∧ w.pins 0 = false ∧ w.pins 31 = false ∧ s.badLines = [] ∧ 0 ∈ w.lines ∧ 0 ∉ w.dirty ∧ 31 ∈ w.lines ∧ 31 ∈ w.dirty
      ∧ (s.translate w.core w.ctx ((s.stackOf w).1 + lineBytes * 31) .w).2.toBool = true := by decide +kernel

/-! ### Results

Single steps on the values of the manual's own tables. Every lane holds the operands in v4, v6 and v8 (pairs at the next register), and the result
is that of v2 in lane 0 with WSTAT. -/

/-- What an instruction leaves in v2 and v3 of lane 0, and in WSTAT. -/
def leaves (i : Instr) (a b c : List Word) : Option (Nat × Nat) :=
  let put (n : Nat) (l : List Word) (w : Warp) : Warp := l.zipIdx.foldl (fun w e => vecIn (n + e.2) (lanesOf e.1) w) w
  match exec i (on (fun w => put 4 a (put 6 b (put 8 c w)))) with
  | .next s => (s.warpOf 2).map (fun w => ((w.regs.vec 3 0).toNat * 2 ^ 32 + (w.regs.vec 2 0).toNat, w.wstat.toNat))
  | _ => none
/-- Fields of two sources with a type, and a selector F. -/
def xy (t : BitVec 5) (f : BitVec 6 := 0) : Fields := { plain with len := 1, f, d := 2, t, a := v 4, b := v 6 }

-- 15 Table 15-7.
theorem test_div : leaves (.div (xy 1)) [7] [0xFFFFFFFE] [] = some (0xFFFFFFFD, 0) := by decide +kernel
theorem test_div_zero : leaves (.div (xy 2)) [5] [0] [] = some (0xFFFFFFFF, 2) := by decide +kernel
theorem test_rem : leaves (.rem (xy 1)) [0xFFFFFFF9] [2] [] = some (0xFFFFFFFF, 0) := by decide +kernel
theorem test_mulhi : leaves (.mulhi (xy 1)) [0x80000000] [2] [] = some (0xFFFFFFFF, 0) := by decide +kernel
theorem test_mulhi_unsigned : leaves (.mulhi (xy 2)) [0x80000000] [2] [] = some (1, 0) := by decide +kernel
theorem test_abs_sat : leaves (.abs { xy 1 1 with b := v 0 }) [0x80000000] [] [] = some (0x7FFFFFFF, 0x20) := by decide +kernel
theorem test_add_sat : leaves (.add (xy 10 1)) [0xF010807F] [0x20208001] [] = some (0xFF30FF80, 0x20) := by decide +kernel
theorem test_sub_sat : leaves (.sub (xy 2 1)) [3] [5] [] = some (0, 0x20) := by decide +kernel
theorem test_shl : leaves (.shl (xy 0)) [1] [32] [] = some (0, 0) := by decide +kernel
theorem test_shl_wrap : leaves (.shl (xy 0 1)) [1] [33] [] = some (2, 0) := by decide +kernel
theorem test_sra : leaves (.sra (xy 1)) [0x80000000] [40] [] = some (0xFFFFFFFF, 0) := by decide +kernel
theorem test_rot : leaves (.rot (xy 0)) [0x80000001] [1] [] = some (3, 0) := by decide +kernel
theorem test_clz : leaves (.clz { xy 0 with b := v 0 }) [0] [] [] = some (32, 0) := by decide +kernel
theorem test_ctz_pair : leaves (.ctz { xy 19 with b := v 0 }) [0, 0] [] [] = some (64, 0) := by decide +kernel
/-- A field of 4 bits at 8. -/
theorem test_bfe : leaves (.bfe { xy 1 with len := 2, b := v 0, e := 0x80108 }) [0xF00] [] [] = some (0xFFFFFFFF, 0) := by decide +kernel
theorem test_bfe_short : leaves (.bfe { xy 2 with len := 2, b := v 0, e := 0x8021E }) [0xFFFFFFFF] [] [] = some (3, 0) := by decide +kernel
theorem test_sat : leaves (.sat (xy 1)) [200] [8] [] = some (0x7F, 0x20) := by decide +kernel

-- 16 Table 16-5.
theorem test_fadd_overflow : leaves (.fadd (xy 3)) [0x7F7FFFFF] [0x7F7FFFFF] [] = some (0x7F800000, 0x14) := by decide +kernel
theorem test_fadd_sat : leaves (.fadd (xy 3 1)) [0x7F7FFFFF] [0x7F7FFFFF] [] = some (0x7F7FFFFF, 0x34) := by decide +kernel
theorem test_fma : leaves (.fma { xy 3 with len := 2, c := v 8 }) [0x3F800800] [0x3F800800] [0xBF801000] = some (0x33800000, 0) := by decide +kernel
theorem test_fmul_tie : leaves (.fmul (xy 3)) [0x3F800800] [0x3F800800] [] = some (0x3F801000, 0x10) := by decide +kernel
theorem test_fmin_signalling : leaves (.fmin (xy 3)) [0x7FA00000] [0x3F800000] [] = some (0x7FE00000, 1) := by decide +kernel
theorem test_fmin_zeros : leaves (.fmin (xy 3)) [0x80000000] [0] [] = some (0x80000000, 0) := by decide +kernel
theorem test_fmax_zeros : leaves (.fmax (xy 3)) [0x80000000] [0] [] = some (0, 0) := by decide +kernel
theorem test_fdiv_zero : leaves (.fdiv (xy 3)) [0x3F800000] [0x80000000] [] = some (0xFF800000, 2) := by decide +kernel
theorem test_fround : leaves (.fround { xy 3 with b := v 0 }) [0x40200000] [] [] = some (0x40000000, 0x10) := by decide +kernel
theorem test_fscale : leaves (.fscale (xy 3)) [0x3F800000] [128] [] = some (0x7F800000, 0x14) := by decide +kernel
theorem test_fscale_rz : leaves (.fscale { xy 3 with rm := 1 }) [0x3F800000] [128] [] = some (0x7F7FFFFF, 0x14) := by decide +kernel
theorem test_fcvt_int : leaves (.fcvt { xy 1 with len := 2, b := v 0, rm := 1, e := 3 }) [0xC02CCCCD] [] [] = some (0xFFFFFFFE, 0x10) := by decide +kernel
theorem test_fcvt_nan : leaves (.fcvt { xy 1 with len := 2, b := v 0, rm := 1, e := 3 }) [0x7FC00001] [] [] = some (0, 0x21) := by decide +kernel
/-- 460.0 into element 2 of e4m3 (16, the example of R350). -/
theorem test_fcvt_e4m3 : leaves (.fcvt { xy 6 with len := 2, b := v 0, e := 0x43 }) [0x43E60000] [] [] = some (0x7E0000, 0x10) := by decide +kernel

/-- 18 Table 18-5: a gang of lanes 0 to 7 of which 5 to 7 are helper lanes and the rest is absent; p2 holds in lanes 1, 3 and 6. -/
def table18 (w : Warp) : Warp :=
  let w := predIs 2 0x4A w
  { w with
    helper := 0xE0, absent := 0xFFFFFF00,
    quads := w.quads.zipIdx.map (fun e => if e.2 < 2 then e.1 else { e.1 with path := { e.1.path with living := 0, active := 0 } }) }
def gives (i : Instr) (f : Warp → Nat) : Option Nat :=
  match exec i (on table18) with | .next s => (s.warpOf 2).map f | _ => none
theorem test_ballot : gives (.ballot { plain with len := 1, d := 5, a := v 2 }) (fun w => (w.regs.vec 5 4).toNat) = some 0xA := by decide +kernel
theorem test_vote_all : gives (.vote { plain with len := 1, d := 1, a := v 2 }) (fun w => (w.regs.predMask 1).toNat % 256) = some 0 := by decide +kernel
theorem test_vote_any : gives (.vote { plain with len := 1, f := 1, d := 1, a := v 2 }) (fun w => (w.regs.predMask 1).toNat % 256) = some 0xFF := by decide +kernel
theorem test_qvote_any : gives (.qvote { plain with len := 1, f := 1, d := 1, a := v 2 }) (fun w => (w.regs.predMask 1).toNat % 256) = some 0xF := by decide +kernel
theorem test_elect : gives (.elect { plain with len := 1, d := 1 }) (fun w => (w.regs.predMask 1).toNat % 256) = some 1 := by decide +kernel
theorem test_lanes_active : gives (.lanes { plain with len := 1, d := 6 }) (fun w => (w.regs.vec 6 0).toNat) = some 0xFF := by decide +kernel
theorem test_lanes_exists : gives (.lanes { plain with len := 1, f := 2, d := 6 }) (fun w => (w.regs.vec 6 7).toNat) = some 0x1F := by decide +kernel

end Sys2Proof.Tests
end

section
/-!
PROOFS. The fabric (O53): rules for bytes, ports, the flits that a port sends and takes, the heartbeat, `.sys` operations and requests of hosts; the
obligation is settled at the end.
-/
namespace Sys2Proof.Machine

/-! ### Numbers as bytes -/

theorem pow_256 (n : Nat) : 256 ^ n = 2 ^ (8 * n) := by rw [Nat.pow_mul]

/-- A number below 256^(n + 1) is its low byte and the rest. -/
theorem low_byte_add (v n : Nat) : v % 256 + 256 * (v / 256 % 256 ^ n) = v % 256 ^ (n + 1) := by
  rw [Nat.pow_succ, Nat.mul_comm (256 ^ n), Nat.mod_mul]

theorem length_leBytes (n v : Nat) : (leBytes n v).length = n := by
  induction n generalizing v with
  | zero => rfl
  | succ n ih => simp [leBytes, ih]

/-- The low bytes of a number written as bytes, read back. -/
theorem leAt_leBytes {n m : Nat} (h : n ≤ m) (v : Nat) : leAt (leBytes m v) 0 n = v % 256 ^ n := by
  have shift : ∀ (n off : Nat) (b : Byte) (bs : List Byte), leAt (b :: bs) (off + 1) n = leAt bs off n := by
    intro n
    induction n with
    | zero => intros; rfl
    | succ n ih => intro off b bs; simp only [leAt, ih, List.getD_cons_succ]
  induction n generalizing m v with
  | zero => simp [leAt, Nat.mod_one]
  | succ n ih =>
    obtain ⟨m, rfl⟩ : ∃ k, m = k + 1 := ⟨m - 1, by omega⟩
    simp only [leAt, leBytes, shift, ih (Nat.le_of_succ_le_succ h), List.getD_cons_zero, BitVec.toNat_ofNat]
    exact low_byte_add v n

/-- The bytes of a number put at an address are that number written there. -/
theorem Memory.setBytes_leBytes (m : Memory) (a n v : Nat) : m.setBytes a (leBytes n v) = m.write a n v := by
  induction n generalizing m a v with
  | zero => rfl
  | succ n ih => exact ih _ _ _

theorem Memory.byte_setBytes_outside (m : Memory) (a : Nat) (bs : List Byte) {b : Nat} (hb : b < a ∨ a + bs.length ≤ b) :
    (m.setBytes a bs).byte b = m.byte b := by
  induction bs generalizing m a with
  | nil => rfl
  | cons c bs ih =>
    simp only [List.length_cons] at hb
    rw [Memory.setBytes, ih _ _ (by omega), Memory.byte_setByte, if_neg (by omega)]

theorem Memory.byte_setBytes_inside (m : Memory) (a : Nat) {bs : List Byte} {i : Nat} {b : Byte} (h : bs[i]? = some b) :
    (m.setBytes a bs).byte (a + i) = b := by
  induction bs generalizing m a i with
  | nil => simp at h
  | cons c bs ih =>
    rw [Memory.setBytes]
    cases i with
    | zero =>
      rw [Memory.byte_setBytes_outside _ _ _ (by omega), Memory.byte_setByte]
      simpa using h
    | succ i =>
      rw [show a + (i + 1) = a + 1 + i by omega]
      exact ih _ _ (by simpa using h)

/-- A number written to memory is read back, modulo its bytes. -/
theorem Memory.read_write_same (m : Memory) (a n v : Nat) : (m.write a n v).read a n = v % 2 ^ (8 * n) := by
  have key : ∀ (n a v : Nat) (m : Memory), (∀ i, i < n → m.byte (a + i) = BitVec.ofNat 8 (v / 256 ^ i)) → m.read a n = v % 256 ^ n := by
    intro n
    induction n with
    | zero => intro a v m _; simp [Memory.read, Nat.mod_one]
    | succ n ih =>
      intro a v m h
      have h0 := h 0 (by omega)
      have hs : m.read (a + 1) n = v / 256 % 256 ^ n := ih (a + 1) (v / 256) m (fun i hi => by
        rw [show a + 1 + i = a + (i + 1) by omega, h (i + 1) (by omega), Nat.pow_succ, Nat.mul_comm, Nat.div_div_eq_div_mul])
      rw [Memory.read, hs]
      simp only [Nat.add_zero, Nat.pow_zero, Nat.div_one] at h0
      rw [h0, BitVec.toNat_ofNat]
      exact low_byte_add v n
  rw [← pow_256]
  exact key n a v _ (fun i hi => Memory.byte_write_inside m a n v i hi)

/-! ### Ports -/

@[simp] theorem State.putPort_portOf (s : State) (p : Port) (k : Nat) : (s.putPort p).portOf k = if k = p.id then p else s.portOf k := by
  unfold State.portOf State.putPort
  rw [List.find?_append, List.find?_filter]
  by_cases hk : k = p.id
  · rw [List.find?_eq_none.2 (fun q _ => by simp [hk])]
    simp [hk]
  · have others : (fun q : Port => decide ((q.id != p.id) = true ∧ (q.id == k) = true)) = fun q => q.id == k := by
      funext q
      by_cases hq : q.id = k <;> simp [hq, hk]
    have hp : (p.id == k) = false := by simpa using fun e => hk e.symm
    rw [others, List.find?_cons, hp, if_neg hk]
    simp

@[simp] theorem State.portOf_id (s : State) (k : Nat) : (s.portOf k).id = k := by
  unfold State.portOf
  cases h : s.ports.find? (fun p => p.id == k) with
  | none => rfl
  | some p => simpa using List.find?_some h

/-- A port that nothing has touched is up, so that being up is a matter of its state alone. -/
theorem State.portUp_eq (s : State) (k : Nat) : s.portUp k = (s.portOf k).up := by
  unfold State.portUp State.portOf
  cases s.ports.find? (fun p => p.id == k) <;> rfl

/-- Routes depend on the routing table and on which ports are up. -/
theorem State.routeTo_congr {s t : State} (hr : t.routes = s.routes) (hu : ∀ k, (t.portOf k).up = (s.portOf k).up) (pkg : BitVec 10) (cls : Nat) :
    t.routeTo pkg cls = s.routeTo pkg cls := by
  simp only [State.routeTo, State.portUp_eq, hr, hu]

/-- A route leads to a port that is up. -/
theorem State.up_of_routeTo {s : State} {pkg : BitVec 10} {cls k : Nat} (h : s.routeTo pkg cls = .ok k) : (s.portOf k).up = true := by
  unfold State.routeTo at h
  split at h
  · cases h
  · split at h
    · rename_i r hf
      simp only [Except.ok.injEq] at h
      have := List.find?_some hf
      simpa [State.portUp_eq, h] using this
    · cases h

/-- What sending does not touch of a port: what it has received, its training and its counts. -/
def Port.Sends (p q : Port) : Prop := q = { p with retry := q.retry, sent := q.sent, waiting := q.waiting }

theorem Port.Sends.refl (p : Port) : p.Sends p := rfl
theorem Port.Sends.trans {p q r : Port} (h : p.Sends q) (h' : q.Sends r) : p.Sends r := by
  unfold Port.Sends at *; rw [h', h]
theorem Port.emit_sends (p : Port) (f : Flit) : p.Sends (p.emit f) := rfl

theorem Port.push_room {p : Port} (f : Flit) (hr : p.retry.length < 512) (hw : p.waiting = []) : p.push f = p.emit f := by
  simp [Port.push, hw, Nat.not_le.2 hr]

theorem Port.push_full {p : Port} (f : Flit) (hr : 512 ≤ p.retry.length) : p.push f = { p with waiting := p.waiting ++ [f] } := by
  simp [Port.push, hr]

theorem Port.push_sends (p : Port) (f : Flit) : p.Sends (p.push f) := by
  unfold Port.push
  split <;> rfl

theorem Port.flush_sends (p : Port) : p.Sends p.flush := by
  have key : ∀ (fs : List Flit) (q : Port), q.Sends (fs.foldl Port.emit q) := by
    intro fs
    induction fs with
    | nil => intro q; rfl
    | cons f fs ih => intro q; exact (Port.emit_sends q f).trans (ih _)
  exact Port.Sends.trans (q := { p with waiting := p.waiting.drop (512 - p.retry.length) }) rfl (key _ _)

/-- With nothing waiting there is nothing to flush. -/
theorem Port.flush_none {p : Port} (h : p.waiting = []) : p.flush = p := by
  unfold Port.flush
  simp only [h, List.take_nil, List.drop_nil, List.foldl_nil]
  rw [← h]

/-- The port after a good flit that is next: it expects the one after it, and its acknowledgement or NAK has acted (01 R15, R16). -/
def Port.accept (p : Port) (f : Flit) : Port :=
  let p := { p with expect := p.expect + 1, nakOut := false }
  if f.nak then p.nakked f.ack else { p.acknowledge f.ack with naks := 0 }

/-- Beside what it sends and its counts, a flit taken moves only what is expected. -/
theorem Port.accept_eq (p : Port) (f : Flit) :
    p.accept f = { p with
      expect := p.expect + 1, nakOut := false, acked := (p.accept f).acked, retry := (p.accept f).retry, sent := (p.accept f).sent,
      waiting := (p.accept f).waiting, naks := (p.accept f).naks, nakSeq := (p.accept f).nakSeq } := by
  unfold Port.accept
  simp only
  split
  · unfold Port.nakked
    simp only
    split <;> rw [Port.flush_sends _] <;> rfl
  · unfold Port.acknowledge
    simp only
    split
    · rw [Port.flush_sends _]
    · rfl

@[simp] theorem Port.accept_id (p : Port) (f : Flit) : (p.accept f).id = p.id := by rw [Port.accept_eq]
@[simp] theorem Port.accept_up (p : Port) (f : Flit) : (p.accept f).up = p.up := by rw [Port.accept_eq]
@[simp] theorem Port.accept_expect (p : Port) (f : Flit) : (p.accept f).expect = p.expect + 1 := by rw [Port.accept_eq]
@[simp] theorem Port.accept_nakOut (p : Port) (f : Flit) : (p.accept f).nakOut = false := by rw [Port.accept_eq]
@[simp] theorem Port.accept_inbox (p : Port) (f : Flit) : (p.accept f).inbox = p.inbox := by rw [Port.accept_eq]

/-- A flit without NAK ends a row of NAKs, and one with it counts (R16). -/
theorem Port.accept_naks (p : Port) (f : Flit) :
    (p.accept f).naks = if f.nak then (if p.nakSeq = f.ack + 1 then p.naks + 1 else 1) else 0 := by
  unfold Port.accept Port.nakked
  cases f.nak <;> simp

/-- An acknowledgement of what the retry buffer holds frees it; a NAK has the rest sent again. -/
theorem Port.accept_acked {p : Port} {f : Flit} (hw : p.waiting = []) (hn : (f.ack - p.acked).toNat ≤ p.retry.length) :
    (p.accept f).acked = f.ack ∧ (p.accept f).retry = p.retry.drop (f.ack - p.acked).toNat
      ∧ (p.accept f).sent = p.sent ++ (if f.nak then p.retry.drop (f.ack - p.acked).toNat else []) := by
  unfold Port.accept Port.nakked Port.acknowledge
  cases f.nak
  · simp only [Bool.false_eq_true, if_false, if_pos hn]
    rw [Port.flush_none (by exact hw)]
    simp
  · simp only [if_true, if_pos hn, Port.replay]
    rw [Port.flush_none (by exact hw)]
    simp

/-! ### Frames of the fabric -/

theorem SameMemory.refl (s : State) : SameMemory s s := ⟨rfl, rfl, rfl, rfl, rfl⟩

theorem SameMemory.trans {s t u : State} (h : SameMemory s t) (h' : SameMemory t u) : SameMemory s u := by
  obtain ⟨h1, h2, h3, h4, h5⟩ := h
  obtain ⟨g1, g2, g3, g4, g5⟩ := h'
  exact ⟨g1.trans h1, g2.trans h2, g3.trans h3, g4.trans h4, g5.trans h5⟩

/-- Nothing changes but ports, `.sys` operations in flight, the error logs of devices and what the package sends out. -/
def OnlyFabric (s u : State) : Prop := u = { s with ports := u.ports, channels := u.channels, vdevs := u.vdevs, out := u.out }

theorem OnlyFabric.refl (s : State) : OnlyFabric s s := rfl
theorem OnlyFabric.trans {s t u : State} (h : OnlyFabric s t) (h' : OnlyFabric t u) : OnlyFabric s u := by
  unfold OnlyFabric at *; rw [h', h]
theorem OnlyFabric.sameMemory {s u : State} (h : OnlyFabric s u) : SameMemory s u := by rw [h]; exact SameMemory.refl s
theorem OnlyFabric.putPort (s : State) (p : Port) : OnlyFabric s (s.putPort p) := rfl
theorem OnlyFabric.reachNow (s : State) : OnlyFabric s s.reachNow := rfl
theorem OnlyFabric.failOp (s : State) (uid reason port : Nat) : OnlyFabric s (s.failOp uid reason port) := rfl

/-- A fold over states keeps what each round keeps. -/
theorem foldl_keeps {α β : Type} (g : State → β) {f : State → α → State} (h : ∀ s a, g (f s a) = g s) (l : List α) (s : State) :
    g (l.foldl f s) = g s := by
  induction l generalizing s with
  | nil => rfl
  | cons a l ih => rw [List.foldl_cons, ih, h]

/-- A fold over states stays in a relation that each round stays in. -/
theorem foldl_rel {α : Type} {r : State → State → Prop} (refl : ∀ s, r s s) (trans : ∀ {s t u}, r s t → r t u → r s u) {f : State → α → State}
    (h : ∀ s a, r s (f s a)) (l : List α) (s : State) : r s (l.foldl f s) := by
  induction l generalizing s with
  | nil => exact refl s
  | cons a l ih => exact trans (h s a) (ih _)

theorem OnlyFabric.foldl {α : Type} {f : State → α → State} (h : ∀ s a, OnlyFabric s (f s a)) (l : List α) (s : State) : OnlyFabric s (l.foldl f s) :=
  foldl_rel OnlyFabric.refl OnlyFabric.trans h l s

theorem OnlyFabric.failUnrouted (s : State) (reason port : Nat) : OnlyFabric s (s.failUnrouted reason port) := by
  unfold State.failUnrouted
  exact OnlyFabric.foldl (fun s (o : SysOp) => OnlyFabric.failOp s o.uid reason port) _ s

theorem State.failUnrouted_ports (s : State) (reason port : Nat) : (s.failUnrouted reason port).ports = s.ports := by
  unfold State.failUnrouted
  refine foldl_keeps State.ports (fun s o => ?_) _ s
  rfl

theorem State.failUnrouted_out (s : State) (reason port : Nat) : (s.failUnrouted reason port).out = s.out := by
  unfold State.failUnrouted
  refine foldl_keeps State.out (fun s o => ?_) _ s
  rfl

/-- A record in the log of every device of some partitions changes devices alone. -/
theorem OnlyFabric.logPart (s : State) (holds : Partition → Bool) (r : ErrorRecord) : OnlyFabric s (s.logPart holds r) := by
  unfold State.logPart
  refine OnlyFabric.foldl (fun s v => ?_) _ s
  rfl

theorem State.logPart_ports (s : State) (holds : Partition → Bool) (r : ErrorRecord) : (s.logPart holds r).ports = s.ports := by
  unfold State.logPart
  refine foldl_keeps State.ports (fun s v => ?_) _ s
  rfl

/-! ### A flit sent on (01 R18) -/

theorem State.forward_routed {s : State} {f : Flit} {k : Nat} (h : s.routeTo f.dst f.cls.toNat = .ok k) :
    s.forward f = s.putPort ((s.portOf k).push f) := by simp only [State.forward, h]

theorem OnlyFabric.forward (s : State) (f : Flit) : OnlyFabric s (s.forward f) := by
  unfold State.forward
  split <;> rfl

/-- What a flit sent on leaves of each port. -/
theorem State.forward_port (s : State) (f : Flit) (k : Nat) :
    (s.portOf k).Sends ((s.forward f).portOf k) ∧ ((s.portOf k).up = false → (s.forward f).portOf k = s.portOf k) := by
  cases h : s.routeTo f.dst f.cls.toNat with
  | error i => simp only [State.forward, h]; exact ⟨rfl, fun _ => rfl⟩
  | ok j =>
    rw [State.forward_routed h, State.putPort_portOf]
    have hid : ((s.portOf j).push f).id = j := by rw [Port.push_sends (s.portOf j) f]; exact s.portOf_id j
    rw [hid]
    split
    · rename_i e
      subst e
      exact ⟨Port.push_sends _ f, fun hd => absurd (State.up_of_routeTo h) (by simp [hd])⟩
    · exact ⟨rfl, fun _ => rfl⟩

/-- Flits sent on change nothing of a port that is down. -/
theorem State.forward_down (fs : List Flit) (s : State) {k : Nat} (h : (s.portOf k).up = false) :
    (fs.foldl (fun s f => s.forward f) s).portOf k = s.portOf k := by
  induction fs generalizing s with
  | nil => rfl
  | cons f fs ih =>
    have e := (s.forward_port f k).2 h
    rw [List.foldl_cons, ih _ (by rw [e]; exact h), e]

/-- A flit with a route to a port that has room goes out there. -/
theorem State.forward_room {s : State} {f : Flit} {k : Nat} (h : s.routeTo f.dst f.cls.toNat = .ok k) (hr : (s.portOf k).retry.length < 512)
    (hw : (s.portOf k).waiting = []) : (s.forward f).portOf k = (s.portOf k).emit f ∧ (s.forward f).out = s.out := by
  rw [State.forward_routed h, Port.push_room f hr hw]
  exact ⟨by rw [State.putPort_portOf, if_pos (by exact (s.portOf_id k).symm)], rfl⟩

/-- One to a port whose retry buffer is full waits there (log 71). -/
theorem State.forward_full {s : State} {f : Flit} {k : Nat} (h : s.routeTo f.dst f.cls.toNat = .ok k) (hr : 512 ≤ (s.portOf k).retry.length) :
    (s.forward f).portOf k = { s.portOf k with waiting := (s.portOf k).waiting ++ [f] } := by
  rw [State.forward_routed h, Port.push_full f hr, State.putPort_portOf, if_pos (by exact (s.portOf_id k).symm)]

/-! ### The heartbeat (01 R22, R23) -/

/-- The counter advanced by one, with what an edge looks at. -/
def Edged (s u : State) : Prop :=
  u.hb = s.hb + 1
    ∧ u = { s with hb := u.hb, edgeNs := s.ns, locked := u.locked, contexts := u.contexts, margins := u.margins, ports := u.ports, out := u.out }

/-- The package has come to be unlocked, or turned to correcting, and says so. -/
def Unlocked (s u : State) : Prop := u.hb = s.hb ∧ u.locked = false ∧ u.out = s.out ++ [.lockReport false] ∧ SameMemory s u

/-- An edge without a change of layout under way. -/
theorem State.edge_quiet {s : State} (h : s.change = none) : s.edge = { s.watchAll.watchMargins with hb := s.hb + 1, edgeNs := s.ns } := by
  have hc : s.watchAll.watchMargins.change = none := h
  simp only [State.edge, hc]

theorem State.edge_edged {s : State} (h : s.change = none) :
    Edged s s.edge ∧ s.edge.locked = s.locked ∧ s.edge.ports = s.ports ∧ s.edge.out = s.out := by
  rw [State.edge_quiet h]
  exact ⟨⟨rfl, rfl⟩, rfl, rfl, rfl⟩

theorem Edged.sameMemory {s u : State} (h : Edged s u) : SameMemory s u := by rw [h.2]; exact SameMemory.refl s

/-- Nothing changes but ports and what the package sends out. -/
def OnlySends (s u : State) : Prop := u = { s with ports := u.ports, out := u.out }

theorem OnlySends.refl (s : State) : OnlySends s s := rfl
theorem OnlySends.trans {s t u : State} (h : OnlySends s t) (h' : OnlySends t u) : OnlySends s u := by
  unfold OnlySends at *; rw [h', h]
/-- What is sent and the lock leave an edge an edge. -/
theorem Edged.sends {s t u : State} (h : Edged s t) (hu : OnlySends t u) : Edged s u := by
  obtain ⟨hb, ht⟩ := h
  unfold OnlySends at hu
  exact ⟨by rw [hu]; exact hb, by rw [hu, ht]⟩
theorem Edged.lock {s t : State} (h : Edged s t) (b : Bool) : Edged s { t with locked := b } := by
  obtain ⟨hb, ht⟩ := h
  exact ⟨hb, by rw [ht]⟩

theorem OnlySends.forward (s : State) (f : Flit) : OnlySends s (s.forward f) := by
  unfold State.forward
  split <;> rfl

/-- The root's value goes out: only ports and messages change. -/
theorem OnlySends.sendTicks (s : State) : OnlySends s s.sendTicks := by
  unfold State.sendTicks
  exact foldl_rel OnlySends.refl OnlySends.trans (fun s d => OnlySends.forward s _) _ s

/-- With one destination, whose port has room, one tick flit goes out there with the counter in its first bytes (log 72). -/
theorem State.sendTicks_one {s : State} {d : BitVec 10} {k : Nat}
    (hd : (s.routes.filter (fun r => r.cls == 3 && r.dst != s.pkg)).map (fun r => r.dst) = [d]) (hk : s.routeTo d 3 = .ok k)
    (hr : (s.portOf k).retry.length < 512) (hw : (s.portOf k).waiting = []) :
    s.sendTicks.out = s.out ∧ s.sendTicks.portOf k = (s.portOf k).emit (tickFlit d s.pkg s.hb) := by
  have e : s.sendTicks = s.forward (tickFlit d s.pkg s.hb) := by
    simp [State.sendTicks, hd, List.eraseDups_cons]
  rw [e]
  exact (State.forward_room (f := tickFlit d s.pkg s.hb) hk hr hw).symm

theorem heartbeatTick_root {s : State} (h : s.pkg = s.root) : exec .heartbeatTick s = .next s.edge.sendTicks := by
  simp [exec, execHeartbeatTick, h]

theorem heartbeatTick_follower {s : State} (h : s.pkg ≠ s.root) :
    exec .heartbeatTick s =
      .next (if s.routed = false ∨ (s.joined = true ∧ s.locked = true ∧ s.hb.toNat < s.rootHb.toNat) then s.edge else s) := by
  simp [exec, execHeartbeatTick, h, and_assoc]

/-- An edge counts by one: on the root, which sends its value out, on one that runs on its own reference, and on a locked one behind its root. -/
theorem heartbeatTick_edge {s : State} (hc : s.change = none)
    (h : s.pkg = s.root ∨ s.routed = false ∨ (s.joined = true ∧ s.locked = true ∧ s.hb.toNat < s.rootHb.toNat)) :
    ∃ u, exec .heartbeatTick s = .next u ∧ Edged s u ∧ u.locked = s.locked ∧ (s.pkg ≠ s.root → u.ports = s.ports ∧ u.out = s.out)
      ∧ (s.pkg = s.root → u = s.edge.sendTicks) := by
  obtain ⟨he, hl, hp, ho⟩ := State.edge_edged hc
  by_cases hr : s.pkg = s.root
  · refine ⟨_, heartbeatTick_root hr, he.sends (OnlySends.sendTicks _), ?_, fun hn => absurd hr hn, fun _ => rfl⟩
    rw [OnlySends.sendTicks s.edge]
    exact hl
  · exact ⟨_, by rw [heartbeatTick_follower hr, if_pos (h.resolve_left hr)], he, hl, fun _ => ⟨hp, ho⟩, fun h => absurd h hr⟩

/-- The tick flit of an edge of the root. -/
theorem edge_sendTicks_one {s : State} {d : BitVec 10} {k : Nat} (hc : s.change = none)
    (hd : (s.routes.filter (fun r => r.cls == 3 && r.dst != s.pkg)).map (fun r => r.dst) = [d]) (hk : s.routeTo d 3 = .ok k)
    (hr : (s.portOf k).retry.length < 512) (hw : (s.portOf k).waiting = []) :
    s.edge.sendTicks.out = s.out ∧ ∃ g, (s.edge.sendTicks.portOf k).sent = (s.portOf k).sent ++ [g] ∧ g.cls = 3 ∧ g.kind = 2 ∧ g.dst = d
      ∧ g.src = s.pkg ∧ leAt g.payload 0 8 = s.edge.sendTicks.hb.toNat := by
  have hb : s.edge.sendTicks.hb = s.edge.hb := by rw [OnlySends.sendTicks s.edge]
  rw [hb]
  rw [State.edge_quiet hc]
  obtain ⟨ho, hp⟩ := State.sendTicks_one (s := { s.watchAll.watchMargins with hb := s.hb + 1, edgeNs := s.ns }) hd hk hr hw
  refine ⟨ho, _, by rw [hp]; rfl, rfl, rfl, rfl, rfl, ?_⟩
  exact (leAt_leBytes (by omega) _).trans (Nat.mod_eq_of_lt (BitVec.isLt _))

/-- A value of the root's counter is nothing to the root. -/
theorem hearRoot_root {s : State} (root : BitVec 64) (h : s.pkg = s.root) : s.hearRoot root = s := by simp [State.hearRoot, h]

/-- A package that joins takes it and is locked (log 28). -/
theorem hearRoot_joins {s : State} (root : BitVec 64) (h : s.pkg ≠ s.root) (hj : s.joined = false) :
    s.hearRoot root = { s with rootHb := root, routed := true, hb := root, edgeNs := s.ns, joined := true, locked := true } := by
  simp [State.hearRoot, h, hj]

/-- One that has joined, and has no edge to catch up with, follows its root, unlocks, or goes on correcting. -/
theorem hearRoot_follows {s : State} {root : BitVec 64} (h : s.pkg ≠ s.root) (hj : s.joined = true)
    (hq : s.locked = false ∨ s.hb.toNat + 1 ≠ s.rootHb.toNat ∨ s.rootHb = root) :
    s.hearRoot root =
      let t : State := { s with rootHb := root, routed := true }
      if s.hb = root then { t with locked := true }
      else if (s.locked = true ∧ s.hb + 1 ≠ root) ∨ s.routed = false then t.unlock else t := by
  have e : (s.joined && s.locked && s.hb.toNat + 1 == s.rootHb.toNat && s.rootHb != root) = false := by
    rcases hq with hq | hq | hq <;> simp [hq]
  have hn : (s.pkg == s.root) = false := by simpa using h
  unfold State.hearRoot
  rw [hn, e]
  simp only [Bool.false_eq_true, if_false, hj, Bool.not_true, Bool.true_and, beq_iff_eq, Bool.or_eq_true, Bool.and_eq_true, bne_iff_ne, ne_eq,
    Bool.not_eq_true']

/-- An unlocked package says so; its counter and memory stand. -/
theorem State.unlock_unlocked (s : State) : Unlocked s s.unlock := ⟨rfl, rfl, rfl, SameMemory.refl s⟩

/-- One that has joined is locked by its own value, unlocks, or goes on correcting (01 R22, R23). -/
theorem tickFlitReceive_follows {root : BitVec 64} {s : State} (h : s.pkg ≠ s.root) (hj : s.joined = true)
    (hq : s.locked = false ∨ s.hb.toNat + 1 ≠ s.rootHb.toNat ∨ s.rootHb = root) :
    (s.hb = root → exec (.tickFlitReceive root) s = .next { s with rootHb := root, routed := true, locked := true })
      ∧ (s.hb ≠ root → (s.locked = true ∧ s.hb + 1 ≠ root) ∨ s.routed = false →
          ∃ u, exec (.tickFlitReceive root) s = .next u ∧ Unlocked s u ∧ u.rootHb = root ∧ u.routed = true)
      ∧ (s.hb ≠ root → s.routed = true → s.locked = false ∨ s.hb + 1 = root →
          exec (.tickFlitReceive root) s = .next { s with rootHb := root, routed := true }) := by
  have e : exec (.tickFlitReceive root) s = .next (s.hearRoot root) := rfl
  rw [e, hearRoot_follows h hj hq]
  refine ⟨fun hb => ?_, fun hb hu => ?_, fun hb hr hs => ?_⟩
  · simp only [if_pos hb]
  · simp only [if_neg hb, if_pos hu]
    exact ⟨_, rfl, ({ s with rootHb := root, routed := true } : State).unlock_unlocked, rfl, rfl⟩
  · have hn : ¬ ((s.locked = true ∧ s.hb + 1 ≠ root) ∨ s.routed = false) := by
      rintro (⟨hl, hne⟩ | hr')
      · exact hs.elim (fun hs => by simp [hl] at hs) (fun hs => hne hs)
      · simp [hr] at hr'
    simp only [if_neg hb, if_neg hn]

/-- A locked package that waits for the edge its root has passed counts it, and follows. -/
theorem hearRoot_catches {s : State} {root : BitVec 64} (h : s.pkg ≠ s.root) (hj : s.joined = true) (hl : s.locked = true) (hr : s.routed = true)
    (hc : s.change = none) (hb : s.hb.toNat + 1 = s.rootHb.toNat) (hn : root = s.rootHb + 1) :
    s.hearRoot root = { s.edge with rootHb := root, routed := true } ∧ s.edge.hb = s.rootHb := by
  have e : s.hb + 1 = s.rootHb := by
    apply BitVec.eq_of_toNat_eq
    have := s.rootHb.isLt
    rw [BitVec.toNat_add, show (1 : BitVec 64).toNat = 1 from rfl, hb]
    exact Nat.mod_eq_of_lt this
  have ne : s.rootHb ≠ root := by rw [hn]; bv_omega
  obtain ⟨⟨h1, h2⟩, h3, -, -⟩ := State.edge_edged hc
  have e1 : (s.pkg == s.root) = false := by simpa using h
  have e2 : (s.joined && s.locked && s.hb.toNat + 1 == s.rootHb.toNat && s.rootHb != root) = true := by simp [hj, hl, hb, ne]
  have j : s.edge.joined = true := by rw [h2]; exact hj
  have r : s.edge.routed = true := by rw [h2]; exact hr
  have e3 : (s.edge.hb == root) = false := by rw [h1, e]; simpa using ne
  have e4 : (s.edge.hb + 1 != root) = false := by rw [h1, e, hn, bne_self_eq_false]
  refine ⟨?_, h1.trans e⟩
  unfold State.hearRoot
  rw [e1, e2]
  simp only [Bool.false_eq_true, if_false, if_true, j, r, e3, e4, Bool.not_true, Bool.and_false, Bool.or_false]

/-- A correction counts one edge toward the root, and locks when it has come to its value. -/
theorem counterCorrection_edge {s : State} (h : s.pkg ≠ s.root) (hc : s.change = none) (hl : s.locked = false) (hr : s.routed = true)
    (hj : s.joined = true) (hb : s.hb.toNat < s.rootHb.toNat) :
    ∃ u, exec .counterCorrection s = .next u ∧ Edged s u ∧ u.locked = decide (u.hb = s.rootHb) ∧ u.ports = s.ports ∧ u.out = s.out := by
  obtain ⟨he, -, hp, ho⟩ := State.edge_edged hc
  refine ⟨{ s.edge with locked := s.edge.hb == s.edge.rootHb }, ?_, he.lock _, ?_, hp, ho⟩
  · simp [exec, execCounterCorrection, h, hl, hr, hj, Nat.not_le.2 hb]
  · have e : s.edge.rootHb = s.rootHb := by rw [he.2]
    simp only [e]
    rfl

theorem rootSelection_other {s : State} {pkg : BitVec 10} (h : pkg ≠ s.root) :
    ∃ u, exec (.rootSelection pkg) s = .next u ∧ u.root = pkg ∧ u.routed = true ∧ u.hb = s.hb ∧ u.locked = decide (pkg = s.pkg) ∧ SameMemory s u := by
  by_cases e : pkg = s.pkg
  · subst e
    exact ⟨({ s with root := s.pkg } : State).lead, by simp [exec, execRootSelection, h], rfl, rfl, rfl, by simp [State.lead], SameMemory.refl s⟩
  · exact ⟨{ s.unlock with root := pkg, routed := true, rootHb := 0 }, by simp [exec, execRootSelection, h, e], rfl, rfl, rfl,
      by simp [e, State.unlock, State.answer], SameMemory.refl s⟩

theorem rootRouteLoss_unlocks {s : State} (h : s.pkg ≠ s.root) (hr : s.routed = true) :
    ∃ u, exec .rootRouteLoss s = .next u ∧ u.routed = false ∧ Unlocked s u :=
  ⟨{ s.unlock with routed := false }, by simp [exec, execRootRouteLoss, h, hr], rfl, s.unlock_unlocked⟩

/-- The state of a package with its identifier, its routes and the operations that they leave without a way. -/
def State.provisioned (s : State) (pkg : BitVec 10) (routes : List Route) : State :=
  ({ s with pkg, routes := routes.filter (fun r => isPort r.port) } : State).reachNow.failUnrouted 0 0xFF

theorem State.provisioned_eq (s : State) (pkg : BitVec 10) (routes : List Route) :
    OnlyFabric { s with pkg, routes := routes.filter (fun r => isPort r.port) } (s.provisioned pkg routes) :=
  (OnlyFabric.reachNow _).trans (OnlyFabric.failUnrouted _ _ _)

theorem packageProvisioning_cases (pkg : BitVec 10) (routes : List Route) (s : State) :
    exec (.packageProvisioning pkg routes) s = .next (
      if pkg = s.root then (s.provisioned pkg routes).lead
      else if pkg = s.pkg then s.provisioned pkg routes
      else if s.contexts = [] then { s.provisioned pkg routes with joined := false, locked := false } else (s.provisioned pkg routes).unlock) := by
  have hr : (s.provisioned pkg routes).root = s.root := by rw [s.provisioned_eq pkg routes]
  have hc : (s.provisioned pkg routes).contexts = s.contexts := by rw [s.provisioned_eq pkg routes]
  change Host.Outcome.next (if pkg == (s.provisioned pkg routes).root then (s.provisioned pkg routes).lead
    else if !(pkg != s.pkg) then s.provisioned pkg routes
    else if (s.provisioned pkg routes).contexts == [] then { s.provisioned pkg routes with joined := false, locked := false }
    else (s.provisioned pkg routes).unlock) = _
  simp [hr, hc]

/-- The package after its identifier and routes are set: a root leads, one that keeps its identifier stays as locked as it was, and another one
joins anew where no context counts with it, and corrects where one does (01 R22). -/
theorem packageProvisioning_next (pkg : BitVec 10) (routes : List Route) (s : State) :
    ∃ u, exec (.packageProvisioning pkg routes) s = .next u ∧ u.pkg = pkg ∧ u.routes = routes.filter (fun r => r.port < 16)
      ∧ u.hb = s.hb ∧ SameMemory s u ∧ (pkg ≠ s.root → pkg ≠ s.pkg → s.contexts = [] → u.joined = false ∧ u.locked = false)
      ∧ (pkg ≠ s.root → pkg ≠ s.pkg → s.contexts ≠ [] → u.joined = s.joined ∧ u.locked = false)
      ∧ (pkg ≠ s.root → pkg = s.pkg → u.joined = s.joined ∧ u.locked = s.locked) ∧ (pkg = s.root → u.joined = true ∧ u.locked = true) := by
  have hp := s.provisioned_eq pkg routes
  unfold OnlyFabric at hp
  rw [packageProvisioning_cases]
  by_cases hr : pkg = s.root
  · refine ⟨_, by rw [if_pos hr], ?_⟩
    unfold State.lead
    rw [hp]
    exact ⟨rfl, rfl, rfl, SameMemory.refl s, fun h => absurd hr h, fun h => absurd hr h, fun h => absurd hr h, fun _ => ⟨rfl, rfl⟩⟩
  · rw [if_neg hr]
    by_cases hk : pkg = s.pkg
    · refine ⟨_, by rw [if_pos hk], ?_⟩
      rw [hp]
      exact ⟨rfl, rfl, rfl, SameMemory.refl s, fun _ h => absurd hk h, fun _ h => absurd hk h, fun _ _ => ⟨rfl, rfl⟩, fun h => absurd h hr⟩
    · rw [if_neg hk]
      by_cases hc : s.contexts = []
      · refine ⟨_, by rw [if_pos hc], ?_⟩
        rw [hp]
        exact ⟨rfl, rfl, rfl, SameMemory.refl s, fun _ _ _ => ⟨rfl, rfl⟩, fun _ _ h => absurd hc h, fun _ h => absurd h hk, fun h => absurd h hr⟩
      · refine ⟨_, by rw [if_neg hc], ?_⟩
        unfold State.unlock State.answer
        rw [hp]
        exact ⟨rfl, rfl, rfl, SameMemory.refl s, fun _ _ h => absurd h hc, fun _ _ _ => ⟨rfl, rfl⟩, fun _ h => absurd h hk, fun h => absurd h hr⟩

/-! ### Flits received (01 R14 to R16, R18) -/

/-- A tick flit of the root for this package. -/
def TickFlit (s : State) (f : Flit) : Prop := f.kind = 2 ∧ f.cls = 3 ∧ f.src = s.root ∧ f.dst = s.pkg

/-- A flit that is bad, or not the next, is answered with a NAK, but for one out of order while a NAK is out (log 73). -/
theorem flitReceive_bad {port : Nat} {f : Flit} {s : State} (hp : port < 16) (hu : (s.portOf port).up = true)
    (h : flitBad f = true ∨ f.seq ≠ (s.portOf port).expect) :
    exec (.flitReceive port f) s = .next (if (s.portOf port).nakOut = true ∧ flitBad f = false then s
      else s.putPort { (s.portOf port).push (nakFlit f.src s.pkg) with nakOut := true }) := by
  have e : (flitBad f || f.seq != (s.portOf port).expect) = true := by
    rcases h with h | h <;> simp [h]
  simp [exec, execFlitReceive, isPort, hp, hu, e]

/-- A good flit that is next: the port takes it; an idle one ends there, one for this package is heard or kept, and another goes on. -/
theorem flitReceive_good {port : Nat} {f : Flit} {s : State} (hp : port < 16) (hu : (s.portOf port).up = true)
    (hb : flitBad f = false) (hs : f.seq = (s.portOf port).expect) :
    exec (.flitReceive port f) s = .next (
      let p := (s.portOf port).accept f
      if f.kind = 0 then s.putPort p
      else if f.dst = s.pkg then
        if f.kind = 2 ∧ f.cls = 3 ∧ f.src = s.root then (s.putPort p).hearRoot (BitVec.ofNat 64 (leAt f.payload 0 8))
        else s.putPort { p with inbox := p.inbox ++ [f] }
      else (s.putPort p).forward f) := by
  simp only [exec, execFlitReceive]
  rw [if_neg (by simp [isPort, hp, hu]), if_neg (by simp [hb, hs])]
  simp only [beq_iff_eq, Bool.and_eq_true, and_assoc]
  unfold Port.accept
  split
  · rfl
  · split <;> rfl

/-- A tick flit is heard once its port has taken it. -/
theorem flitReceive_tick {port : Nat} {f : Flit} {s : State} (hp : port < 16) (hu : (s.portOf port).up = true)
    (hb : flitBad f = false) (hs : f.seq = (s.portOf port).expect) (ht : TickFlit s f) :
    exec (.flitReceive port f) s = exec (.tickFlitReceive (BitVec.ofNat 64 (leAt f.payload 0 8))) (s.putPort ((s.portOf port).accept f)) := by
  obtain ⟨h1, h2, h3, h4⟩ := ht
  rw [flitReceive_good hp hu hb hs]
  simp [h1, h2, h3, h4, exec, execTickFlitReceive]

/-- A good flit that ends at this package and is no tick flit: it lies in the inbox unless it is idle. -/
theorem flitReceive_kept {port : Nat} {f : Flit} {s : State} (hp : port < 16) (hu : (s.portOf port).up = true)
    (hb : flitBad f = false) (hs : f.seq = (s.portOf port).expect) (ht : ¬ TickFlit s f) (hk : f.kind = 0 ∨ f.dst = s.pkg) :
    exec (.flitReceive port f) s =
      .next (s.putPort { (s.portOf port).accept f with inbox := (s.portOf port).inbox ++ (if f.kind = 0 then [] else [f]) }) := by
  rw [flitReceive_good hp hu hb hs]
  by_cases h0 : f.kind = 0
  · rw [if_pos h0, if_pos h0, List.append_nil, ← Port.accept_inbox (s.portOf port) f]
  · have hd := hk.resolve_left h0
    have e : ¬ (f.kind = 2 ∧ f.cls = 3 ∧ f.src = s.root) := fun h => ht ⟨h.1, h.2.1, h.2.2, hd⟩
    simp only [if_neg h0, if_pos hd, if_neg e, Port.accept_inbox]

/-- A good flit for another package goes on by the routes of this one. -/
theorem flitReceive_sentOn {port : Nat} {f : Flit} {s : State} (hp : port < 16) (hu : (s.portOf port).up = true)
    (hb : flitBad f = false) (hs : f.seq = (s.portOf port).expect) (hk : f.kind ≠ 0) (hd : f.dst ≠ s.pkg) :
    exec (.flitReceive port f) s = .next ((s.putPort ((s.portOf port).accept f)).forward f) := by
  rw [flitReceive_good hp hu hb hs]
  simp only [if_neg hk, if_neg hd]

/-- A port that has taken a flit is as far up as before, so routes are as before. -/
theorem routeTo_accept (s : State) (port : Nat) (f : Flit) (pkg : BitVec 10) (cls : Nat) :
    (s.putPort ((s.portOf port).accept f)).routeTo pkg cls = s.routeTo pkg cls := by
  refine State.routeTo_congr (s := s) (t := s.putPort ((s.portOf port).accept f)) rfl (fun k => ?_) pkg cls
  rw [State.putPort_portOf, Port.accept_id, State.portOf_id]
  split
  · rename_i e
    rw [e, Port.accept_up]
  · rfl

/-- A port that a flit goes on by is not changed by what the flit came by. -/
theorem portOf_accept_other (s : State) {port k : Nat} (f : Flit) (h : k ≠ port) : (s.putPort ((s.portOf port).accept f)).portOf k = s.portOf k := by
  rw [State.putPort_portOf, Port.accept_id, State.portOf_id, if_neg h]

/-- What a receiver does with a flit never touches memory. -/
theorem flitReceive_next {port : Nat} {f : Flit} {s : State} (hp : port < 16) (hu : (s.portOf port).up = true)
    (h : flitBad f = true ∨ f.seq ≠ (s.portOf port).expect ∨ ¬ TickFlit s f) :
    ∃ u, exec (.flitReceive port f) s = .next u ∧ OnlyFabric s u := by
  by_cases hbad : flitBad f = true ∨ f.seq ≠ (s.portOf port).expect
  · refine ⟨_, flitReceive_bad hp hu hbad, ?_⟩
    split
    · exact OnlyFabric.refl s
    · exact OnlyFabric.putPort s _
  · obtain ⟨hb, hs⟩ : flitBad f = false ∧ f.seq = (s.portOf port).expect := by simpa using hbad
    have ht : ¬ TickFlit s f := by simpa [hb, hs] using h
    by_cases hk : f.kind = 0 ∨ f.dst = s.pkg
    · exact ⟨_, flitReceive_kept hp hu hb hs ht hk, OnlyFabric.putPort s _⟩
    · rw [not_or] at hk
      exact ⟨_, flitReceive_sentOn hp hu hb hs hk.1 hk.2, (OnlyFabric.putPort s _).trans (OnlyFabric.forward _ f)⟩

/-- What a flit taken and kept leaves of its port. -/
theorem flitReceive_taken {port : Nat} {f : Flit} {s u : State} (hp : port < 16) (hu : (s.portOf port).up = true) (he : exec (.flitReceive port f) s = .next u)
    (hb : flitBad f = false) (hs : f.seq = (s.portOf port).expect) (ht : ¬ TickFlit s f) (hk : f.kind = 0 ∨ f.dst = s.pkg) :
    u.portOf port = { (s.portOf port).accept f with inbox := (s.portOf port).inbox ++ (if f.kind = 0 then [] else [f]) } := by
  rw [flitReceive_kept hp hu hb hs ht hk] at he
  obtain rfl := Host.Outcome.next.inj he
  rw [State.putPort_portOf, if_pos (by simp)]

/-- A flit sent on goes out by the port that its route names, or waits there for room (log 71). -/
theorem flitReceive_goesOn {port : Nat} {f : Flit} {s u : State} (hp : port < 16) (hu : (s.portOf port).up = true) (he : exec (.flitReceive port f) s = .next u)
    (hb : flitBad f = false) (hs : f.seq = (s.portOf port).expect) (hk : f.kind ≠ 0) (hd : f.dst ≠ s.pkg) {k : Nat}
    (hr : s.routeTo f.dst f.cls.toNat = .ok k) (hne : k ≠ port) (hw : (s.portOf k).waiting = []) :
    ((s.portOf k).retry.length < 512 → u.portOf k = (s.portOf k).emit f)
      ∧ (512 ≤ (s.portOf k).retry.length → u.portOf k = { s.portOf k with waiting := [f] }) := by
  rw [flitReceive_sentOn hp hu hb hs hk hd] at he
  obtain rfl := Host.Outcome.next.inj he
  have hr' := (routeTo_accept s port f f.dst f.cls.toNat).trans hr
  have hpk := portOf_accept_other s f hne
  constructor
  · intro hl
    rw [(State.forward_room hr' (by rw [hpk]; exact hl) (by rw [hpk]; exact hw)).1, hpk]
  · intro hl
    rw [State.forward_full hr' (by rw [hpk]; exact hl), hpk, hw]
    rfl

/-- What a NAK leaves of the port that sends it. -/
theorem flitReceive_naks {port : Nat} {f : Flit} {s u : State} (hp : port < 16) (hu : (s.portOf port).up = true) (he : exec (.flitReceive port f) s = .next u)
    (h : flitBad f = true ∨ f.seq ≠ (s.portOf port).expect) :
    u.portOf port = if (s.portOf port).nakOut = true ∧ flitBad f = false then s.portOf port
      else { (s.portOf port).push (nakFlit f.src s.pkg) with nakOut := true } := by
  rw [flitReceive_bad hp hu h] at he
  obtain rfl := Host.Outcome.next.inj he
  have hid : ((s.portOf port).push (nakFlit f.src s.pkg)).id = port := by
    rw [Port.push_sends (s.portOf port) (nakFlit f.src s.pkg)]; exact s.portOf_id port
  split
  · rfl
  · rw [State.putPort_portOf, if_pos (by exact hid.symm)]

/-- A flit refused: nothing of it is taken; a NAK goes out with the last number taken, unless one is out for the same gap (01 R16, log 73). -/
theorem flitReceive_refuses {port : Nat} {f : Flit} {s u : State} (hp : port < 16) (hu : (s.portOf port).up = true)
    (he : exec (.flitReceive port f) s = .next u) (hbad : flitBad f = true ∨ f.seq ≠ (s.portOf port).expect) :
    let p := s.portOf port
    let q := u.portOf port
    q.expect = p.expect ∧ q.inbox = p.inbox ∧ (p.nakOut = true → flitBad f = false → q = p)
      ∧ (p.nakOut = false ∨ flitBad f = true → p.retry.length < 512 → p.waiting = [] →
          ∃ g, q.sent = p.sent ++ [g] ∧ g.nak = true ∧ g.ack = p.expect - 1 ∧ q.nakOut = true) := by
  intro p q
  have hq : q = if p.nakOut = true ∧ flitBad f = false then p else { p.push (nakFlit f.src s.pkg) with nakOut := true } :=
    flitReceive_naks hp hu he hbad
  by_cases ho : p.nakOut = true ∧ flitBad f = false
  · rw [if_pos ho] at hq
    rw [hq]
    exact ⟨rfl, rfl, fun _ _ => rfl, fun h => absurd h (by simp [ho.1, ho.2])⟩
  · rw [if_neg ho] at hq
    rw [hq]
    have hs := Port.push_sends p (nakFlit f.src s.pkg)
    unfold Port.Sends at hs
    refine ⟨by rw [hs], by rw [hs], fun h1 h2 => absurd ⟨h1, h2⟩ ho, fun _ hroom hw => ?_⟩
    rw [Port.push_room _ hroom hw]
    exact ⟨_, rfl, rfl, rfl, rfl⟩

/-! ### Training and falls of ports (01 R12, R13, R16) -/

theorem trainedWidth_eq (lanes : BitVec 4) :
    (lanes = 0 → trainedWidth lanes = 0)
      ∧ (lanes ≠ 0 → trainedWidth lanes ≠ 0
          ∧ trainedWidth lanes = if lanes = 0xF then 4 else if lanes &&& 3 = 3 ∨ lanes &&& 12 = 12 then 2 else 1) := by
  revert lanes
  decide

/-- A port without a working lane has failed to train; with one it is up at the width of its lanes and replays. -/
theorem State.train_port {port : Nat} (lanes : BitVec 4) (s : State) (hp : port < 16) :
    OnlyFabric s (s.train port lanes)
      ∧ (s.train port lanes).portOf port = if trainedWidth lanes = 0 then { s.portOf port with untrained := true }
        else { (s.portOf port).replay with up := true, width := trainedWidth lanes, naks := 0, untrained := false } := by
  unfold State.train
  simp only [isPort, hp, decide_true, Bool.not_true, Bool.false_eq_true, if_false, beq_iff_eq]
  split
  · exact ⟨rfl, by rw [State.putPort_portOf, if_pos (by exact (s.portOf_id port).symm)]⟩
  · have trained : ∀ (t : State) (q : Port), t.ports = (s.putPort q).ports → q.id = port → t.portOf port = q := by
      intro t q ht hq
      have : t.portOf port = (s.putPort q).portOf port := by simp only [State.portOf, ht]
      rw [this, State.putPort_portOf, if_pos hq.symm]
    split
    · exact ⟨(OnlyFabric.putPort s _).trans (OnlyFabric.reachNow _), trained _ _ rfl (s.portOf_id port)⟩
    · exact ⟨((OnlyFabric.putPort s _).trans (OnlyFabric.reachNow _)).trans (OnlyFabric.logPart _ _ _),
        trained _ _ (State.logPart_ports _ _ _) (s.portOf_id port)⟩

/-- A trained port is up at the width of its lanes, and sends again what was not acknowledged; one without a lane is untrained. -/
theorem State.train_trains {port : Nat} (lanes : BitVec 4) (s : State) (hp : port < 16) :
    let p := s.portOf port
    let q := (s.train port lanes).portOf port
    (lanes ≠ 0 → q.up = true ∧ q.naks = 0 ∧ q.retry = p.retry ∧ q.sent = p.sent ++ p.retry ∧ q.untrained = false
        ∧ q.width = (if lanes = 0xF then 4 else if lanes &&& 3 = 3 ∨ lanes &&& 12 = 12 then 2 else 1))
      ∧ (lanes = 0 → q = { p with untrained := true }) := by
  obtain ⟨-, hq⟩ := s.train_port lanes hp
  obtain ⟨h0, h1⟩ := trainedWidth_eq lanes
  intro p q
  have hq' : q = _ := hq
  rw [hq']
  refine ⟨fun h => ?_, fun h => if_pos (h0 h)⟩
  obtain ⟨hne, hw⟩ := h1 h
  rw [if_neg hne]
  exact ⟨rfl, rfl, rfl, rfl, rfl, hw⟩

/-- Both ways to train a port do so: the one of them after 8 NAKs in a row. -/
theorem train_next {port : Nat} (lanes : BitVec 4) (s : State) :
    exec (.portTraining port lanes) s = .next (s.train port lanes)
      ∧ (8 ≤ (s.portOf port).naks → exec (.portRetrain port lanes) s = .next (s.train port lanes)) := by
  refine ⟨rfl, fun h => ?_⟩
  simp [exec, execPortRetrain, h]

theorem portDown_stays {port : Nat} {s : State} (h : (s.portOf port).untrained = false) : exec (.portDown port) s = .next s := by
  simp [exec, execPortDown, h]

/-- A port that could not train is down with nothing in it; what it held goes out elsewhere. -/
theorem portDown_falls {port : Nat} {s : State} (hp : port < 16) (hu : (s.portOf port).up = true) (ht : (s.portOf port).untrained = true) :
    ∃ u, exec (.portDown port) s = .next u ∧ OnlyFabric s u
      ∧ u.portOf port = { s.portOf port with up := false, retry := [], waiting := [], naks := 0 } := by
  let p := s.portOf port
  let d : Port := { p with up := false, retry := [], waiting := [], naks := 0 }
  let fs := (p.retry ++ p.waiting).filter (fun f => f.kind != 0)
  let t := fs.foldl (fun s f => s.forward f) (s.putPort d)
  have hd : (s.putPort d).portOf port = d := by rw [State.putPort_portOf, if_pos (by exact (s.portOf_id port).symm)]
  have h1 : t.portOf port = d := (State.forward_down fs _ (by rw [hd])).trans hd
  refine ⟨(t.failUnrouted 1 port).logPort port, by simp [exec, execPortDown, isPort, hp, hu, ht, t, fs, d, p], ?_, ?_⟩
  · exact (((OnlyFabric.putPort s d).trans (OnlyFabric.foldl OnlyFabric.forward fs _)).trans (OnlyFabric.failUnrouted _ _ _)).trans (OnlyFabric.logPart _ _ _)
  · have e : ((t.failUnrouted 1 port).logPort port).ports = t.ports := (State.logPart_ports _ _ _).trans (State.failUnrouted_ports _ _ _)
    exact Eq.trans (by simp only [State.portOf, e]) h1

/-! ### Operations that fail (01 R20, R21) -/

/-- The operation of a number in a list whose operations have been changed but keep their numbers. -/
theorem find_map_op (l : List SysOp) (g : SysOp → SysOp) (hg : ∀ o, (g o).uid = o.uid) (op : Nat) :
    (l.map g).find? (fun o => o.uid == op) = (l.find? (fun o => o.uid == op)).map g := by
  rw [List.find?_map]
  congr 1
  exact congrArg (fun p => l.find? p) (funext fun o => by simp [hg])

/-- An operation that fails has its reason and the time of it. -/
theorem State.failOp_found {op : Nat} {o : SysOp} {s : State} (ho : s.channels.find? (fun o => o.uid == op) = some o) (reason port : Nat) :
    ∃ o', (s.failOp op reason port).channels.find? (fun o => o.uid == op) = some o' ∧ o'.failed = some (reason * 256 + port) ∧ o'.since = s.hb := by
  have huid : o.uid = op := by simpa using List.find?_some ho
  simp only [State.failOp, State.reachNow]
  rw [find_map_op _ _ (fun o => by split <;> rfl), find_map_op _ _ (fun o => by split <;> rfl), ho]
  simp only [Option.map_some, huid, beq_self_eq_true, if_true]
  refine ⟨_, rfl, ?_⟩
  split <;> exact ⟨rfl, rfl⟩

/-- An operation that has had no answer for 65,536 heartbeats fails. -/
theorem sysResponseTimeout_fails {op : Nat} {o : SysOp} {s : State} (ho : s.channels.find? (fun o => o.uid == op) = some o) (hf : o.failed = none)
    (ht : 65536 ≤ (s.hb - o.since).toNat) : ∃ p, exec (.sysResponseTimeout op) s = .next (s.failOp op 2 p) := by
  have h : (o.failed.isSome || decide ((s.hb - o.since).toNat < 65536)) = false := by simp only [hf, Nat.not_lt.2 ht]; rfl
  cases hr : s.routeTo o.pkg o.cls with
  | ok port => exact ⟨port, by simp only [exec, execSysResponseTimeout, ho, h, hr, Bool.false_eq_true, if_false]⟩
  | error i => exact ⟨0xFF, by simp only [exec, execSysResponseTimeout, ho, h, hr, Bool.false_eq_true, if_false]⟩

/-! ### The `.sys` operations in flight (01 R19)

No step of a warp or of a bank gives a new number to an operation that is in flight, or sends one: what a warp completes leaves their numbers as they are. -/

/-- The numbers of the operations in flight, in order. -/
def State.opUids (s : State) : List Nat := s.channels.map (fun o => o.uid)

theorem State.opUids_congr {s t : State} (h : t.channels = s.channels) : t.opUids = s.opUids := congrArg (List.map _) h

/-- The state of a result whose parts have been named. -/
theorem opUids_of_eq {α : Type} {r : State × α} {s t : State} {a : α} (hr : r.1.opUids = s.opUids) (h : r = (t, a)) : t.opUids = s.opUids := by
  rw [h] at hr; exact hr

@[simp] theorem State.putWarp_opUids (s : State) (w : Warp) : (s.putWarp w).opUids = s.opUids := rfl
@[simp] theorem State.onWarp_opUids (s : State) (n : Nat) (f : Warp → Warp) : (s.onWarp n f).opUids = s.opUids := rfl
@[simp] theorem State.onShadow_opUids (s : State) (n : Nat) (f : Warp → Warp) : (s.onShadow n f).opUids = s.opUids := rfl
@[simp] theorem State.onBlock_opUids (s : State) (n : Nat) (f : Block → Block) : (s.onBlock n f).opUids = s.opUids := rfl
@[simp] theorem State.onCore_opUids (s : State) (n : Nat) (f : Core → Core) : (s.onCore n f).opUids = s.opUids := rfl
@[simp] theorem State.onTask_opUids (s : State) (d n : Nat) (f : Task → Task) : (s.onTask d n f).opUids = s.opUids := rfl
@[simp] theorem State.newUid_opUids (s : State) : s.newUid.2.opUids = s.opUids := rfl
@[simp] theorem State.chooseNat_opUids (s : State) : s.chooseNat.2.opUids = s.opUids := rfl
@[simp] theorem State.noteWork_opUids (s : State) (ctx : Nat) : (s.noteWork ctx).opUids = s.opUids := rfl
@[simp] theorem State.squashPair_opUids (s : State) (uid : Nat) : (s.squashPair uid).opUids = s.opUids := rfl
@[simp] theorem State.showGen_opUids (s : State) (block word gen : Nat) : (s.showGen block word gen).opUids = s.opUids := rfl
@[simp] theorem State.barGo_opUids (s : State) (uid : Nat) (qs : List Nat) (o : Op) (x : Fields) (park : Option AtBarrier) :
    (s.barGo uid qs o x park).opUids = s.opUids := rfl

/-! #### Banks -/

@[simp] theorem State.putGroup_opUids (s : State) (g : Group) : (s.putGroup g).opUids = s.opUids := rfl
@[simp] theorem State.soundAt_opUids (s : State) (g : GroupId) (bank row : Nat) : (s.soundAt g bank row).opUids = s.opUids := rfl
@[simp] theorem State.spoilParity_opUids (s : State) (g : GroupId) (row : Nat) : (s.spoilParity g row).opUids = s.opUids := rfl

@[simp] theorem State.setBankWord_opUids (s : State) (g : GroupId) (bank row : Nat) (v : Word) : (s.setBankWord g bank row v).opUids = s.opUids := by
  unfold State.setBankWord
  split
  · rfl
  · unfold State.setBankMem; split <;> rfl

@[simp] theorem State.noteRebuilt_opUids (s : State) (id : GroupId) : (s.noteRebuilt id).opUids = s.opUids := by
  unfold State.noteRebuilt
  split <;> rfl

@[simp] theorem State.noteReport_opUids (s : State) (id : GroupId) (bank row : Nat) : (s.noteReport id bank row).opUids = s.opUids := by
  unfold State.noteReport
  split <;> rfl

@[simp] theorem State.touchBank_opUids (s : State) (id : GroupId) (row bank : Nat) : (s.touchBank id row bank).opUids = s.opUids := by
  unfold State.touchBank
  simp only
  split <;> simp

@[simp] theorem State.touchOthers_opUids (s : State) (id : GroupId) (bank row : Nat) : (s.touchOthers id bank row).opUids = s.opUids :=
  foldl_keeps State.opUids (fun s b => s.touchBank_opUids id row b) _ s

@[simp] theorem State.conflict_opUids (s : State) (id : GroupId) (bank row : Nat) : (s.conflict id bank row).opUids = s.opUids := by
  unfold State.conflict
  simp only
  split
  · split <;> simp
  · rfl

@[simp] theorem State.applyParity_opUids (s : State) (id : GroupId) : (s.applyParity id).opUids = s.opUids := by
  unfold State.applyParity
  simp only
  split
  · rfl
  · repeat' split
    all_goals simp

@[simp] theorem State.drainRow_opUids (s : State) (id : GroupId) (row : Nat) : (s.drainRow id row).opUids = s.opUids := by
  unfold State.drainRow
  refine foldl_keeps State.opUids (fun s _ => ?_) _ s
  split <;> simp

@[simp] theorem State.queueParity_opUids (s : State) (id : GroupId) (row : Nat) (delta : Word) : (s.queueParity id row delta).opUids = s.opUids := by
  unfold State.queueParity
  simp only [State.putGroup_opUids]
  split <;> simp

@[simp] theorem State.renewParity_opUids (s : State) (id : GroupId) (bank row : Nat) : (s.renewParity id bank row).opUids = s.opUids := by
  unfold State.renewParity
  simp only
  repeat' split
  all_goals simp

theorem State.readBank_opUids (s : State) (id : GroupId) (bank row : Nat) : (s.readBank id bank row).1.opUids = s.opUids := by
  unfold State.readBank
  simp only
  repeat' split
  all_goals simp

theorem State.writeBank_opUids (s : State) (id : GroupId) (bank row off n v : Nat) : (s.writeBank id bank row off n v).1.opUids = s.opUids := by
  have read : ∀ {t : State} {r : Except (Nat × Nat) Word}, (if s.doubleAt id bank row = true then s.readBank id bank row
      else ((s.noteReport id bank row).soundAt id bank row, .ok (s.bankWord id bank row))) = (t, r) → t.opUids = s.opUids := by
    intro t r h
    refine opUids_of_eq ?_ h
    split
    · exact s.readBank_opUids id bank row
    · simp
  unfold State.writeBank
  simp only
  split
  · rfl
  · split
    · repeat' split
      all_goals simp
    · split
      · rename_i h
        split <;> simp [read h]
      · rename_i h
        split <;> simp [read h]

theorem State.readSpace_opUids (s : State) (space : BankSpace) (key fuel n : Nat) : (s.readSpace space key fuel n).1.opUids = s.opUids := by
  induction fuel generalizing s key n with
  | zero => rfl
  | succ fuel ih =>
    unfold State.readSpace
    simp only
    split
    · rfl
    · split
      · rename_i h
        exact opUids_of_eq (s.readBank_opUids _ _ _) h
      · rename_i h
        have hs := opUids_of_eq (s.readBank_opUids _ _ _) h
        split
        · rename_i h'
          exact (opUids_of_eq (ih _ _ _) h').trans hs
        · rename_i h'
          exact (opUids_of_eq (ih _ _ _) h').trans hs

theorem State.writeSpace_opUids (s : State) (space : BankSpace) (key v fuel n : Nat) : (s.writeSpace space key v fuel n).1.opUids = s.opUids := by
  induction fuel generalizing s key v n with
  | zero => rfl
  | succ fuel ih =>
    unfold State.writeSpace
    simp only
    split
    · rfl
    · split
      · rename_i h
        exact opUids_of_eq (s.writeBank_opUids _ _ _ _ _ _) h
      · rename_i h
        exact (ih _ _ _ _).trans (opUids_of_eq (s.writeBank_opUids _ _ _ _ _ _) h)

/-! #### Memory and what a write wakes -/

@[simp] theorem State.notify_opUids (s : State) (space : Space) (key n : Nat) (writer : Option Nat) : (s.notify space key n writer).opUids = s.opUids := by
  unfold State.notify
  simp only
  split <;> rfl

@[simp] theorem State.writeDev_opUids (s : State) (key : Nat) (bs : List Byte) (writer : Option Nat) : (s.writeDev key bs writer).opUids = s.opUids := by
  unfold State.writeDev
  simp only [State.notify_opUids]
  rfl

@[simp] theorem State.storeDev_opUids (s : State) (key n v : Nat) (writer : Option Nat) : (s.storeDev key n v writer).opUids = s.opUids :=
  s.writeDev_opUids key _ writer

theorem State.storeBank_opUids (s : State) (space : BankSpace) (key n v : Nat) (writer : Option Nat) :
    (s.storeBank space key n v writer).1.opUids = s.opUids := by
  unfold State.storeBank
  split
  · rename_i h
    exact opUids_of_eq (s.writeSpace_opUids _ _ _ _ _) h
  · rename_i h
    exact (State.notify_opUids _ _ _ _ _).trans (opUids_of_eq (s.writeSpace_opUids _ _ _ _ _) h)

theorem State.leafOf_opUids (s : State) (core ctx va : Nat) : (s.leafOf core ctx va).1.opUids = s.opUids := by
  unfold State.leafOf
  simp only
  repeat' split
  all_goals rfl

theorem State.translate_opUids (s : State) (core ctx va : Nat) (need : Right) : (s.translate core ctx va need).1.opUids = s.opUids := by
  unfold State.translate
  split
  · rename_i h
    exact opUids_of_eq (s.leafOf_opUids _ _ _) h
  · rename_i h
    have hs := opUids_of_eq (s.leafOf_opUids _ _ _) h
    split
    · exact hs
    · dsimp only
      split
      · split <;> exact hs
      · split <;> exact hs

@[simp] theorem State.logCtx_opUids (s : State) (ctx : Nat) (r : ErrorRecord) : (s.logCtx ctx r).opUids = s.opUids := by
  unfold State.logCtx
  split <;> rfl

@[simp] theorem State.killContext_opUids (s : State) (ctx : Nat) : (s.killContext ctx).opUids = s.opUids := by
  unfold State.killContext
  split
  · rfl
  · split <;> rfl

/-! #### Traps and restarts -/

@[simp] theorem State.forget_opUids (s : State) (uid : Nat) : (s.forget uid).opUids = s.opUids := by
  simp only [State.opUids, State.forget, List.map_map]
  refine List.map_congr_left (fun o _ => ?_)
  simp only [Function.comp_apply]
  split
  · split <;> rfl
  · rfl

@[simp] theorem State.enterTrap_opUids (s : State) (uid : Nat) (t : Trap) : (s.enterTrap uid t).opUids = s.opUids := by
  unfold State.enterTrap
  split
  · rfl
  · simp only
    split <;> simp

@[simp] theorem State.takeTrapOf_opUids (given : Bool) (s : State) (uid : Nat) (t : Trap) : (s.takeTrapOf given uid t).opUids = s.opUids := by
  unfold State.takeTrapOf
  split
  · rfl
  · repeat' split
    all_goals simp

@[simp] theorem State.restartOrTrap_opUids (s : State) (uid : Nat) (drop : Bool) (cause unit index : Nat) (mask : LaneMask) (first : BitVec 55) :
    (s.restartOrTrap uid drop cause unit index mask first).opUids = s.opUids := by
  unfold State.restartOrTrap
  split
  · rfl
  · simp only
    split
    · simp only [State.onShadow_opUids, State.putWarp_opUids, State.newUid_opUids, State.forget_opUids]
      split <;> simp
    · simp only [State.takeTrapOf_opUids, State.onShadow_opUids, State.putWarp_opUids]
      split <;> simp

@[simp] theorem State.mismatch_opUids (s : State) (uid : Nat) (quads : BitVec 8) : (s.mismatch uid quads).opUids = s.opUids := by
  unfold State.mismatch
  split <;> simp

@[simp] theorem State.settleTrap_opUids (s : State) (uid : Nat) : (s.settleTrap uid).opUids = s.opUids := by
  unfold State.settleTrap
  repeat' split
  all_goals simp

/-! #### Barrier words and `bar` -/

theorem State.updateBar_opUids (s : State) (b : Block) (o : Nat) (f : BarWord → BarWord) : (s.updateBar b o f).1.opUids = s.opUids := by
  unfold State.updateBar
  split
  · rename_i h
    exact opUids_of_eq (s.readSpace_opUids _ _ _ _) h
  · rename_i h
    have hs := opUids_of_eq (s.readSpace_opUids _ _ _ _) h
    simp only
    split
    · rename_i h'
      exact (opUids_of_eq (State.storeBank_opUids _ _ _ _ _ _) h').trans hs
    · rename_i h'
      have ht := (opUids_of_eq (State.storeBank_opUids _ _ _ _ _ _) h').trans hs
      split
      · exact ht
      · simpa using ht

theorem State.barArrive_opUids (s : State) (b : Block) (off : Nat) : (s.barArrive b off).1.opUids = s.opUids := by
  unfold State.barArrive
  split
  · rename_i h
    exact opUids_of_eq (s.updateBar_opUids _ _ _) h
  · rename_i h
    exact opUids_of_eq (s.updateBar_opUids _ _ _) h

@[simp] theorem State.barTrap_opUids (s : State) (w : Warp) (qs : List Nat) (t : Trap) : (s.barTrap w qs t).opUids = s.opUids := by simp [State.barTrap]

@[simp] theorem State.putUnis_opUids (s : State) (w : Warp) (qs : List Nat) (reg v n : Nat) : (s.putUnis w qs reg v n).opUids = s.opUids := by
  unfold State.putUnis
  simp only [State.onWarp_opUids]
  refine State.opUids_congr ?_
  rw [earlyWrite_fresh s w qs _ _ _]

@[simp] theorem State.performBar_opUids (s : State) (w : Warp) (qs : List Nat) (o : Op) (x : Fields) : (s.performBar w qs o x).opUids = s.opUids := by
  unfold State.performBar
  simp only
  split
  · split
    · simp
    split
    · simp
    split
    · simp
    split
    · rename_i h
      simpa using opUids_of_eq (s.readSpace_opUids _ _ _ _) h
    · rename_i h
      have hs := opUids_of_eq (s.readSpace_opUids _ _ _ _) h
      split
      case h_1 =>
        split
        · simp
        · split
          · rename_i h'
            simpa using (opUids_of_eq (State.storeBank_opUids _ _ _ _ _ _) h').trans hs
          · rename_i h'
            simpa using (opUids_of_eq (State.storeBank_opUids _ _ _ _ _ _) h').trans hs
      case h_2 =>
        split
        · simpa using hs
        · split <;> simpa using hs
      case h_3 =>
        split
        · simpa using hs
        · split
          · rename_i h'
            simpa using (opUids_of_eq (State.updateBar_opUids _ _ _ _) h').trans hs
          · rename_i h'
            simpa using (opUids_of_eq (State.updateBar_opUids _ _ _ _) h').trans hs
      case h_4 =>
        split
        · simpa using hs
        · split
          · rename_i h'
            simpa using (opUids_of_eq (State.barArrive_opUids _ _ _) h').trans hs
          · rename_i h'
            have ht := (opUids_of_eq (State.barArrive_opUids _ _ _) h').trans hs
            split
            · simpa using ht
            · simpa using ht
            · split <;> simpa using ht
  · simp

@[simp] theorem State.settleBar_opUids (s : State) (uid : Nat) : (s.settleBar uid).opUids = s.opUids := by
  unfold State.settleBar
  split
  · rfl
  · simp only
    split
    · rfl
    split
    · rfl
    split
    · split <;> rfl
    split
    · rfl
    · split
      · split <;> simp
      · simp

/-! #### The end of warps and blocks, and packing windows -/

@[simp] theorem State.writeBackLine_opUids (s : State) (uid line : Nat) : (s.writeBackLine uid line).opUids = s.opUids := by
  unfold State.writeBackLine
  split
  · rfl
  · simp only
    split
    · rfl
    · split
      · rename_i h
        have hs := opUids_of_eq (State.translate_opUids _ _ _ _ _) h
        split <;> simpa using hs
      · rename_i h
        simpa using opUids_of_eq (State.translate_opUids _ _ _ _ _) h

@[simp] theorem State.writeBackAll_opUids (s : State) (uid : Nat) : (s.writeBackAll uid).opUids = s.opUids := by
  unfold State.writeBackAll
  split
  · rfl
  · exact foldl_keeps State.opUids (fun s l => s.writeBackLine_opUids uid l) _ s

@[simp] theorem State.releaseTile_opUids (s : State) (b : Block) : (s.releaseTile b).opUids = s.opUids := by
  unfold State.releaseTile
  split
  · simp only
    split
    · rfl
    · split
      · rename_i h
        exact opUids_of_eq (s.readSpace_opUids _ _ _ _) h
      · rename_i h
        have h1 := opUids_of_eq (s.readSpace_opUids _ _ _ _) h
        split
        · rename_i h'
          exact (opUids_of_eq (State.readSpace_opUids _ _ _ _ _) h').trans h1
        · rename_i h'
          have h2 := (opUids_of_eq (State.readSpace_opUids _ _ _ _ _) h').trans h1
          split
          · rename_i h3
            refine (opUids_of_eq (State.readSpace_opUids _ _ _ _ _) h3).trans ?_
            split
            · rename_i h4
              simpa using (opUids_of_eq (State.translate_opUids _ _ _ _ _) h4).trans h2
            · rename_i h4
              exact (opUids_of_eq (State.translate_opUids _ _ _ _ _) h4).trans h2
          · rename_i h3
            refine (State.storeBank_opUids _ _ _ _ _ _).trans ((opUids_of_eq (State.readSpace_opUids _ _ _ _ _) h3).trans ?_)
            split
            · rename_i h4
              simpa using (opUids_of_eq (State.translate_opUids _ _ _ _ _) h4).trans h2
            · rename_i h4
              exact (opUids_of_eq (State.translate_opUids _ _ _ _ _) h4).trans h2
  · rfl

@[simp] theorem State.setSlotState_opUids (s : State) (die task stage slot v : Nat) : (s.setSlotState die task stage slot v).opUids = s.opUids := by
  unfold State.setSlotState
  split
  · rfl
  · split
    · rename_i h
      simpa using opUids_of_eq (State.translate_opUids _ _ _ _ _) h
    · rename_i h
      exact opUids_of_eq (State.translate_opUids _ _ _ _ _) h

@[simp] theorem State.completeBlock_opUids (s : State) (uid : Nat) : (s.completeBlock uid).opUids = s.opUids := by
  unfold State.completeBlock
  split
  · rfl
  · rename_i b _
    have h : ((s.releaseTile b).setSlotState b.die b.task b.stage b.saveSlot 0).opUids = s.opUids := by simp
    simp only
    refine Eq.trans (State.opUids_congr ?_) h
    simp only [State.onTask_channels]
    split <;> rfl

@[simp] theorem State.settleBlock_opUids (s : State) (uid : Nat) : (s.settleBlock uid).opUids = s.opUids := by
  unfold State.settleBlock
  simp only
  split <;> simp

@[simp] theorem State.endWarp_opUids (s : State) (uid : Nat) : (s.endWarp uid).opUids = s.opUids := by
  unfold State.endWarp
  split
  · rfl
  · split <;> simp

@[simp] theorem State.closeWindow_opUids (s : State) (core block : Nat) (pc : BitVec 55) : (s.closeWindow core block pc).opUids = s.opUids := by
  have parked : ∀ (k : Nat) (ps : List Packed) (a : State × List Forming),
      (ps.foldl (fun (acc : State × List Forming) p =>
        let (gs, n) := joinGang k p acc.2
        (acc.1.onWarp p.warp (fun w => w.onQuad p.quad (fun q => { q with gang := n, packed := true, park := .running })), gs)) a).1.opUids = a.1.opUids := by
    intro k ps
    induction ps with
    | nil => intro a; rfl
    | cons p ps ih => intro a; exact (ih _).trans rfl
  exact (parked _ _ (s.newUid.2, [])).trans rfl

@[simp] theorem State.settleWindows_opUids (s : State) (core : Nat) : (s.settleWindows core).opUids = s.opUids := by
  unfold State.settleWindows
  refine foldl_keeps State.opUids (fun s win => ?_) _ s
  simp only
  split <;> simp

/-! #### The completion of an access -/

/-- The parts of settling after the trap of a warp: its end where no quad of it lives, with the windows of its core; and the end of its block where it has ended. -/
def State.settleLife (s : State) (uid : Nat) : State :=
  match s.warpOf uid with
  | some w => (if w.aliveQuads == [] then s.endWarp uid else s).settleWindows w.core
  | none => s
def State.settleHome (s : State) (uid : Nat) : State :=
  match s.warpOf uid with
  | some w => if w.ended then s.settleBlock w.block else s
  | none => s

theorem State.settle_eq (s : State) (uid : Nat) :
    s.settle uid =
      let t := (s.newUid.2.onWarp uid (fun w => w.settleRgang s.uids)).settleBar uid
      if (t.warpOf uid).any Warp.hidden then t else ((t.settleTrap uid).settleLife uid).settleHome uid := rfl

@[simp] theorem State.settleLife_opUids (s : State) (uid : Nat) : (s.settleLife uid).opUids = s.opUids := by
  unfold State.settleLife
  split
  · simp only [State.settleWindows_opUids]
    split <;> simp
  · rfl

@[simp] theorem State.settleHome_opUids (s : State) (uid : Nat) : (s.settleHome uid).opUids = s.opUids := by
  unfold State.settleHome
  split
  · split <;> simp
  · rfl

@[simp] theorem State.settle_opUids (s : State) (uid : Nat) : (s.settle uid).opUids = s.opUids := by
  rw [State.settle_eq]
  simp only
  split <;> simp

theorem State.landing_onlyFresh (s : State) (early : List (Nat × Nat)) (vals : List (Nat × Nat × Word)) : OnlyFresh s (s.landing early vals).1 := by
  induction vals with
  | nil => exact OnlyFresh.refl s
  | cons v vs ih =>
    unfold State.landing
    simp only
    split
    · exact ih.trans (OnlyFresh.chooseNat _)
    · exact ih

@[simp] theorem State.landScored_opUids (s : State) (uid : Nat) (e : Scored) : (s.landScored uid e).opUids = s.opUids := by
  unfold State.landScored
  refine State.opUids_congr ?_
  simp only [State.onWarp_channels]
  rw [s.landing_onlyFresh e.early e.vals]

@[simp] theorem State.finishAccess_opUids (s : State) (uid seq : Nat) (pc : BitVec 55) : (s.finishAccess uid seq pc).opUids = s.opUids := by
  unfold State.finishAccess
  split
  · rfl
  · split
    · rfl
    · split
      · simp only
        split <;> simp
      · split <;> simp

@[simp] theorem State.noteActed_opUids (s : State) (uid : Nat) (a : Access) (r : Acted) : (s.noteActed uid a r).opUids = s.opUids := by
  simp [State.noteActed]

/-! ### Commands found after updates (08 R172) -/

/-- The first command of a number in the sprues of a core. -/
def Core.commandIn (uid : Nat) (c : Core) : Option (Nat × Nat × Command) :=
  [0, 1, 2, 3, 4, 5, 6, 7].findSome? (fun q => ((c.sprues.getD q []).find? (fun x => x.uid == uid)).map (fun x => (c.id, q, x)))

theorem State.commandAt_eq (s : State) (uid : Nat) : s.commandAt uid = s.cores.findSome? (Core.commandIn uid) := rfl

theorem Core.id_of_commandIn {uid : Nat} {c : Core} {r : Nat × Nat × Command} (h : c.commandIn uid = some r) : r.1 = c.id := by
  obtain ⟨q, -, hq⟩ := List.exists_of_findSome?_eq_some h
  obtain ⟨x, -, rfl⟩ := Option.map_eq_some_iff.1 hq
  rfl

/-- A change of the commands of a number that keeps their number is a change of the one that is found. -/
theorem State.commandAt_onCommand (s : State) (uid : Nat) {f : Command → Command} (hf : ∀ x, (f x).uid = x.uid) :
    (s.onCommand uid f).commandAt uid = (s.commandAt uid).map (fun r => (r.1, r.2.1, f r.2.2)) := by
  let g (x : Command) : Command := if x.uid == uid then f x else x
  have hg : ∀ x, (g x).uid = x.uid := by intro x; dsimp only [g]; split <;> simp [hf]
  have row : ∀ l : List Command, (l.map g).find? (fun x => x.uid == uid) = (l.find? (fun x => x.uid == uid)).map f := by
    intro l
    have e : ((fun x : Command => x.uid == uid) ∘ g) = fun x => x.uid == uid := funext fun x => by simp only [Function.comp_apply, hg]
    rw [List.find?_map, e]
    cases h : l.find? (fun x => x.uid == uid) with
    | none => rfl
    | some x => simp only [Option.map_some, g, if_pos (List.find?_some h)]
  have one : ∀ c : Core, Core.commandIn uid { c with sprues := c.sprues.map (fun q => q.map g) }
      = (c.commandIn uid).map (fun r => (r.1, r.2.1, f r.2.2)) := by
    intro c
    have at' : ∀ q, (c.sprues.map (fun q => q.map g)).getD q [] = (c.sprues.getD q []).map g := by
      intro q
      simp only [List.getD_eq_getElem?_getD, List.getElem?_map]
      cases c.sprues[q]? <;> rfl
    simp only [Core.commandIn, at', row, List.map_findSome?]
    refine congrArg (fun p => List.findSome? p _) (funext fun q => ?_)
    simp only [Function.comp_apply, Option.map_map]
    rfl
  simp only [State.commandAt_eq, State.onCommand, List.findSome?_map, List.map_findSome?]
  exact congrArg (fun p => s.cores.findSome? p) (funext one)

/-- A core put into its list with its sprues as they were leaves the command that is found in it. -/
theorem findSome_insertCore {uid : Nat} {r : Nat × Nat × Command} {n : Core} (l : List Core) (hl : l.findSome? (Core.commandIn uid) = some r)
    (hr : r.1 = n.id) (hn : n.commandIn uid = ((l.find? (fun c => c.id == n.id)).getD (Core.reset n.id)).commandIn uid) :
    (insertCore n l).findSome? (Core.commandIn uid) = some r := by
  have front : ∀ ds : List Core, ds.findSome? (Core.commandIn uid) = some r → n.commandIn uid = none ∨ n.commandIn uid = some r →
      (n :: ds).findSome? (Core.commandIn uid) = some r := by
    rintro ds hd (h | h) <;> simp [h, hd]
  have seen : ∀ ds : List Core, ds.findSome? (Core.commandIn uid) = some r →
      ((ds.find? (fun c => c.id == n.id)).getD (Core.reset n.id)).commandIn uid = none
        ∨ ((ds.find? (fun c => c.id == n.id)).getD (Core.reset n.id)).commandIn uid = some r := by
    intro ds
    induction ds with
    | nil => intro h; cases h
    | cons d ds ih =>
      intro h
      rw [List.findSome?_cons] at h
      cases hd : d.commandIn uid with
      | none =>
        rw [hd] at h
        by_cases e : d.id = n.id
        · simp [e, hd]
        · simpa [List.find?_cons, e] using ih h
      | some r' =>
        rw [hd] at h
        obtain rfl := Option.some.inj h
        have e : d.id = n.id := (Core.id_of_commandIn hd).symm.trans hr
        simp [e, hd]
  induction l with
  | nil => cases hl
  | cons d ds ih =>
    have hn' := hn ▸ seen _ hl
    unfold insertCore
    split
    · exact front _ hl hn'
    · rename_i hlt
      split
      · rename_i e
        have e : n.id = d.id := by simpa using e
        have hd : n.commandIn uid = d.commandIn uid := by
          rw [hn, List.find?_cons_of_pos (by simp [e])]
          rfl
        rcases hn' with h | h
        · refine front ds ?_ (.inl h)
          rw [List.findSome?_cons, ← hd, h] at hl
          exact hl
        · simp [h]
      · rename_i e
        have e : ¬ d.id = n.id := fun h => e (by simp [h])
        rw [List.findSome?_cons] at hl ⊢
        cases hd : d.commandIn uid with
        | none =>
          rw [hd] at hl
          exact ih hl (by simpa [List.find?_cons, e] using hn)
        | some r' => rw [hd] at hl; exact hl

theorem State.coreOf_id (s : State) (core : Nat) : (s.coreOf core).id = core := by
  unfold State.coreOf
  cases h : s.cores.find? (fun c => c.id == core) with
  | none => rfl
  | some c => simpa using List.find?_some h

/-- A change of a core that keeps its number and its sprues leaves the command that is found in it. -/
theorem State.commandAt_onCore {s : State} {uid core q : Nat} {x : Command} (h : s.commandAt uid = some (core, q, x)) {f : Core → Core}
    (hi : ∀ c, (f c).id = c.id) (hs : ∀ c, (f c).sprues = c.sprues) : (s.onCore core f).commandAt uid = some (core, q, x) := by
  have hid : (f (s.coreOf core)).id = core := (hi _).trans (s.coreOf_id core)
  refine findSome_insertCore s.cores h hid.symm ?_
  rw [hid]
  simp only [Core.commandIn, hi, hs]
  rfl

@[simp] theorem State.settleQwaits_cores (s : State) (core : Nat) : (s.settleQwaits core).cores = s.cores := by
  unfold State.settleQwaits
  refine foldl_keeps State.cores (fun s w => ?_) _ s
  rfl

/-- A command that has one work left and no write held fails with it: it records the fault, and is left without work (08 R184). -/
theorem State.failWork_settled {s : State} {core q : Nat} {x : Command} {y : RowWork} (e : Bad) (hx : s.commandAt x.uid = some (core, q, x))
    (hw : x.works = [y]) (hb : x.begun = true) (hh : x.heldWrites = 0) (hf : x.fault = none) (hm : x.met = none) (q' : Nat) :
    ∃ z f, (((s.failWork x.uid q' y e).settleCommand core x.uid).settleQwaits core).commandAt x.uid = some (core, q, z) ∧ z.fault = some f
      ∧ f.cause = BitVec.ofNat 8 e.cause ∧ z.works = [] := by
  obtain ⟨z, f, hz, hzw, hzb, hzh, hzf, hzm, hfc⟩ : ∃ z f, (s.failWork x.uid q' y e).commandAt x.uid = some (core, q, z) ∧ z.works = [] ∧ z.begun = true
      ∧ z.heldWrites = 0 ∧ z.fault = none ∧ z.met = some (y.rows.headD 0, f) ∧ f.cause = BitVec.ofNat 8 e.cause := by
    have hm' : (s.meet x.uid q' (y.rows.headD 0) e).commandAt x.uid = some (core, q, { x with met := some (y.rows.headD 0, (s.cmdFault q' e).1) }) := by
      have h := State.commandAt_onCommand s.chooseNat.2 x.uid
        (f := fun x => { x with met := match x.met with | some (r, g) => if y.rows.headD 0 < r then some (y.rows.headD 0, (s.cmdFault q' e).1) else some (r, g)
                                                        | none => some (y.rows.headD 0, (s.cmdFault q' e).1) }) (fun _ => rfl)
      rw [show s.chooseNat.2.commandAt x.uid = _ from hx] at h
      refine Eq.trans ?_ (h.trans ?_)
      · rfl
      · simp [hm]
    refine ⟨{ x with met := some (y.rows.headD 0, (s.cmdFault q' e).1), works := [] }, (s.cmdFault q' e).1, ?_, rfl, hb, hh, hf, rfl, rfl⟩
    unfold State.failWork
    rw [State.commandAt_onCommand _ _ (by intro x; rfl), hm']
    simp [hw]
  suffices h : ∃ z' f', ((s.failWork x.uid q' y e).settleCommand core x.uid).commandAt x.uid = some (core, q, z') ∧ z'.fault = some f'
      ∧ f'.cause = f.cause ∧ z'.works = [] by
    obtain ⟨z', f', h1, h2, h3, h4⟩ := h
    exact ⟨z', f', by simpa only [State.commandAt, State.settleQwaits_cores] using h1, h2, h3.trans hfc, h4⟩
  unfold State.settleCommand
  rw [hz]
  refine ⟨_, { f with since := (s.failWork x.uid q' y e).hb },
    State.commandAt_onCore (by rw [State.commandAt_onCommand _ _ (by intro x; rfl), hz]; rfl) (fun _ => rfl) (fun _ => rfl), ?_, rfl, ?_⟩
  · simp [hzw, hzb, hzh, hzf, hzm]
  · simp [hzw]

/-! ### Failed operations settle (01 R21) -/

/-- A failed operation settles with an answer that can be true of it: it is in flight no more, and the error goes to the one that asked or to the warp. -/
theorem fabricOutcomeSettle_settles {op why : Nat} {answer : FabricAnswer} {o : SysOp} {s : State} (ho : s.channels.find? (fun o => o.uid == op) = some o)
    (hf : o.failed = some why) (hc : s.canSettle o answer = true) :
    let t : State := { s with channels := s.channels.filter (fun p => p.uid != op) }
    let info := fabricInfo o.pkg (doneField answer) (why / 256) (why % 256)
    ((∀ who write, o.access.kind ≠ .ask who write) →
        exec (.fabricOutcomeSettle op answer) s = .next (t.noteActed o.warp o.access (.fault 0x1C o.access.name info)))
      ∧ ∀ who write, o.access.kind = .ask who write → exec (.fabricOutcomeSettle op answer) s = .next (t.failAsked o who write info) := by
  have e : exec (.fabricOutcomeSettle op answer) s = execFabricOutcomeSettle op answer s := rfl
  refine ⟨fun hk => ?_, fun who write hk => ?_⟩
  · rw [e, execFabricOutcomeSettle]
    simp only [ho, hf, hc, Bool.not_true, Bool.false_eq_true, if_false]
  · rw [e, execFabricOutcomeSettle]
    simp only [ho, hf, hc, Bool.not_true, Bool.false_eq_true, if_false, hk]

/-- The operation that has settled for a warp is in flight no more. -/
theorem noteActed_gone {s : State} {op : Nat} (uid : Nat) (a : Access) (r : Acted) (h : ∀ p, p ∈ s.channels → p.uid ≠ op) :
    ∀ p, p ∈ (s.noteActed uid a r).channels → p.uid ≠ op := by
  intro p hp
  have hm : p.uid ∈ s.opUids := by
    rw [← s.noteActed_opUids uid a r]
    exact List.mem_map_of_mem hp
  obtain ⟨p', hp', e⟩ := List.mem_map.1 hm
  exact e ▸ h p' hp'

/-- Where the operation is the access of a command, the command fails with a fabric error. -/
theorem failAsked_command {s : State} {o : SysOp} {core q : Nat} {x : Command} {y : RowWork} {a : CmdAccess} (who : Asker) (write : Bool) (info : Nat)
    (hs : s.sentUnder o.uid = some (core, q, x, y, a)) (hx : s.commandAt x.uid = some (core, q, x)) (hw : x.works = [y])
    (hb : x.begun = true) (hh : x.heldWrites = 0) (hf : x.fault = none) (hm : x.met = none) :
    ∃ z f, (s.failAsked o who write info).commandAt x.uid = some (core, q, z) ∧ z.fault = some f ∧ f.cause = 0x1C ∧ z.works = [] := by
  unfold State.failAsked
  rw [hs]
  exact State.failWork_settled _ hx hw hb hh hf hm q

/-- Where nobody's command waits for it, the one that asked has its answer. -/
theorem failAsked_answer {s : State} {o : SysOp} {who : Asker} (write : Bool) (info : Nat) (hs : s.sentUnder o.uid = none) (hw : who ≠ .engine 0)
    (ht : s.tasks = []) : ∃ a, a ∈ (s.failAsked o who write info).answers ∧ a.who = who ∧ a.bytes = none ∧ a.cause = 0x1C := by
  let a : Answer := { who, addr := (o.access.parts.head?.map (fun p => p.addr)).getD 0, write, bytes := none, cause := 0x1C, info }
  refine ⟨a, ?_, rfl, rfl, rfl⟩
  have e : s.failAsked o who write info = { s with answers := s.answers ++ [a] } := by
    unfold State.failAsked State.respond
    rw [hs]
    have hn : (who == Asker.engine 0) = false := by simpa using hw
    cases who <;> simp [hn, ht, a]
  rw [e]
  simp

/-- A failed operation that has settled is in flight no more; it is an access of a warp, of a command that fails with it, or of one that is told. -/
theorem fabricOutcomeSettle_outcome {op why : Nat} {answer : FabricAnswer} {o : SysOp} {s : State}
    (ho : s.channels.find? (fun o => o.uid == op) = some o) (hf : o.failed = some why) (hc : s.canSettle o answer = true) :
    ∃ u, exec (.fabricOutcomeSettle op answer) s = .next u
      ∧ ((∀ who write, o.access.kind ≠ .ask who write) → ∀ p, p ∈ u.channels → p.uid ≠ op)
      ∧ ∀ who write, o.access.kind = .ask who write →
          (∀ core q x y a, s.sentUnder op = some (core, q, x, y, a) → s.commandAt x.uid = some (core, q, x) → x.works = [y] → x.begun = true →
            x.heldWrites = 0 → x.fault = none → x.met = none →
            ∃ z f, u.commandAt x.uid = some (core, q, z) ∧ z.fault = some f ∧ f.cause = 0x1C ∧ z.works = [])
          ∧ (s.sentUnder op = none → who ≠ .engine 0 → s.tasks = [] → ∃ a, a ∈ u.answers ∧ a.who = who ∧ a.bytes = none ∧ a.cause = 0x1C) := by
  have huid : o.uid = op := by simpa using List.find?_some ho
  obtain ⟨hwarp, hask⟩ := fabricOutcomeSettle_settles ho hf hc
  by_cases hk : ∃ who write, o.access.kind = .ask who write
  · obtain ⟨who, write, hk⟩ := hk
    refine ⟨_, hask who write hk, fun h => absurd hk (h who write), fun who' write' hk' => ?_⟩
    obtain ⟨rfl, -⟩ := AccessKind.ask.inj (hk.symm.trans hk')
    refine ⟨fun core q x y a hs hx hw hb hh hf hm => ?_, fun hs hw ht => ?_⟩
    · exact failAsked_command who write _ (by rw [huid]; exact hs) hx hw hb hh hf hm
    · exact failAsked_answer write _ (by rw [huid]; exact hs) hw ht
  · have hk' : ∀ who write, o.access.kind ≠ .ask who write := fun who write h => hk ⟨who, write, h⟩
    refine ⟨_, hwarp hk', fun _ => noteActed_gone _ _ _ (fun p hp => ?_), fun who write h => absurd h (hk' who write)⟩
    simpa using (List.mem_filter.1 hp).2

/-! ### Writes to device memory -/

/-- What a write to device memory may change: its bytes and bad lines, and what it wakes (19 R415; 02 R35). -/
def OnlyDev (s u : State) : Prop := u = { s with dev := u.dev, badLines := u.badLines, warps := u.warps, vdevs := u.vdevs, commands := u.commands }

theorem State.writeDev_onlyDev (s : State) (key : Nat) (bs : List Byte) (writer : Option Nat) : OnlyDev s (s.writeDev key bs writer) := rfl

/-- Of the warps it changes what they wait for. -/
theorem State.writeDev_warps (s : State) (key : Nat) (bs : List Byte) (writer : Option Nat) :
    (s.writeDev key bs writer).warps = s.warps.map (fun w => { w with waits := w.waits.map (stirWait .dev key bs.length) }) := rfl

/-- Where it covers no uncorrectable line in part, every byte is written. -/
theorem State.writeDev_dev {s : State} {key : Nat} {bs : List Byte} (writer : Option Nat) (h : s.tornLine key bs.length = false) :
    (s.writeDev key bs writer).dev = s.dev.setBytes key bs := by
  have none' : s.badLines.filter (fun e => torn key bs.length e.1) = [] := by
    rw [List.filter_eq_nil_iff]
    intro e he
    simpa using List.any_eq_false.1 h e he
  simp [State.writeDev, State.notify, none']

/-- Bytes written to device memory lie where they are written, and no others change. -/
theorem OnlyDev.onlyBytes {s u : State} {key : Nat} {bs : List Byte} (h : OnlyDev s u) (hd : u.dev = s.dev.setBytes key bs) :
    OnlyBytes s u .dev key bs.length := by
  refine ⟨fun other hne hns => ?_, by rw [h], by rw [h], fun b hb => ?_⟩
  · cases other with
    | blk => exact (by rw [State.mem, h]; rfl)
    | spad => exact (by rw [State.mem, h]; rfl)
    | dev => exact absurd rfl hne
    | stack => exact absurd rfl hns
  · exact (congrArg (fun m => Memory.byte m b) hd).trans (Memory.byte_setBytes_outside _ _ _ hb)

/-- A number stored is read back, and the bytes about it are as before. -/
theorem State.storeDev_read {s : State} {key n : Nat} (v : Nat) (writer : Option Nat) (h : s.tornLine key n = false) :
    OnlyDev s (s.storeDev key n v writer) ∧ (s.storeDev key n v writer).dev = s.dev.setBytes key (leBytes n v)
      ∧ (s.storeDev key n v writer).dev.read key n = v % 2 ^ (8 * n) := by
  have e : (s.storeDev key n v writer).dev = s.dev.setBytes key (leBytes n v) := State.writeDev_dev writer (by rw [length_leBytes]; exact h)
  exact ⟨State.writeDev_onlyDev s key _ writer, e, by rw [e, Memory.setBytes_leBytes, Memory.read_write_same]⟩

/-! ### Requests of hosts (02 R25) -/

/-- A request that no device of the host permits is answered with an error. -/
theorem hostRequest_refused {req : HostReq} {s : State} (h : ∀ v, v ∈ s.vdevs → v.permits req = false) :
    exec (.hostRequest req) s = .next (s.answer (.fabricError req.host)) := by
  have e : s.vdevs.any (fun v => v.permits req) = false := List.any_eq_false.2 (fun v hv => by simp [h v hv])
  simp [exec, execHostRequest, e]

/-- What a home slice does for a permitted request: nothing where a line of a read range is uncorrectable or a write would tear one. -/
def State.serve (s : State) (req : HostReq) : Option (State × List Byte) :=
  match req.op with
  | .read n => if s.rangeBad req.pa n then none else some (s, s.dev.bytes req.pa n)
  | .write data => if s.tornLine req.pa data.length then none else some (s.writeDev req.pa data none, [])
  | .atom op ty b c =>
    let n := tyWidth ty.toNat / 8
    let old := s.dev.read req.pa n
    if s.rangeBad req.pa n then none
    else some (s.storeDev req.pa n (atomResult (atomOpOf op) ty.toNat old (b.toNat % 2 ^ (8 * n)) c.toNat) none, leBytes n old)

/-- A permitted request is performed and answered with its bytes, or refused. -/
theorem hostRequest_served {req : HostReq} {v : VDev} {s : State} (hv : v ∈ s.vdevs) (hp : v.permits req = true) :
    exec (.hostRequest req) s = .next (match s.newUid.2.serve req with
      | none => s.newUid.2.answer (.fabricError req.host)
      | some (t, bs) => (t.keepOp s.newUid.1).answer (.hostData req.host (BitVec.ofNat 64 req.pa) bs)) := by
  have e : s.vdevs.any (fun v => v.permits req) = true := List.any_eq_true.2 ⟨v, hv, hp⟩
  simp only [exec, execHostRequest, e, Bool.not_true, Bool.false_eq_true, if_false, State.serve]
  cases req.op <;> dsimp only <;> split <;> rfl

/-- A read gives the bytes of its range, or an error where a line there stays uncorrectable; no byte changes. -/
theorem hostRequest_read {req : HostReq} {n : Nat} {v : VDev} {s : State} (hv : v ∈ s.vdevs) (hp : v.permits req = true) (ho : req.op = .read n) :
    ∃ u, exec (.hostRequest req) s = .next u ∧ SameMemory s u
      ∧ u.out = s.out ++ [if s.rangeBad req.pa n then .fabricError req.host
          else .hostData req.host (BitVec.ofNat 64 req.pa) (s.dev.bytes req.pa n)] := by
  have e : s.newUid.2.serve req = if s.rangeBad req.pa n then none else some (s.newUid.2, s.dev.bytes req.pa n) := by
    simp only [State.serve, ho]; rfl
  rw [hostRequest_served hv hp, e]
  by_cases hb : s.rangeBad req.pa n = true
  · simp only [if_pos hb]
    exact ⟨_, rfl, SameMemory.refl s, rfl⟩
  · simp only [if_neg hb]
    exact ⟨_, rfl, SameMemory.refl s, rfl⟩

/-- A request that writes bytes: they lie where it says, no others change, and its host is told. -/
theorem hostRequest_wrote {req : HostReq} {v : VDev} {s t : State} {bytes told : List Byte} (hv : v ∈ s.vdevs) (hp : v.permits req = true)
    (hs : s.newUid.2.serve req = some (t, told)) (ht : OnlyDev s.newUid.2 t) (hd : t.dev = s.dev.setBytes req.pa bytes) :
    ∃ u, exec (.hostRequest req) s = .next u ∧ u.dev = t.dev ∧ OnlyBytes s u .dev req.pa bytes.length
      ∧ u.out = s.out ++ [.hostData req.host (BitVec.ofNat 64 req.pa) told] := by
  have only : OnlyBytes s.newUid.2 t .dev req.pa bytes.length := OnlyDev.onlyBytes ht hd
  have hout : t.out = s.out := by rw [ht]; rfl
  refine ⟨(t.keepOp s.newUid.1).answer (.hostData req.host (BitVec.ofNat 64 req.pa) told), by rw [hostRequest_served hv hp, hs], rfl, only, ?_⟩
  rw [← hout]
  rfl

/-- A write puts its bytes where it says. -/
theorem hostRequest_write {req : HostReq} {data : List Byte} {v : VDev} {s : State} (hv : v ∈ s.vdevs) (hp : v.permits req = true)
    (ho : req.op = .write data) (ht : s.tornLine req.pa data.length = false) :
    ∃ u, exec (.hostRequest req) s = .next u ∧ u.dev = s.dev.setBytes req.pa data ∧ OnlyBytes s u .dev req.pa data.length
      ∧ u.out = s.out ++ [.hostData req.host (BitVec.ofNat 64 req.pa) []] := by
  have ht' : s.newUid.2.tornLine req.pa data.length = false := ht
  have hd := State.writeDev_dev none ht'
  obtain ⟨u, he, hu, hon, hout⟩ := hostRequest_wrote hv hp (t := s.newUid.2.writeDev req.pa data none) (told := [])
    (by simp only [State.serve, ho, ht', Bool.false_eq_true, if_false]) (State.writeDev_onlyDev _ _ _ _) hd
  exact ⟨u, he, hu.trans hd, hon, hout⟩

/-- An atomic leaves its result and gives the value before it. -/
theorem hostRequest_atom {req : HostReq} {op : Nat} {ty : BitVec 5} {b c : BitVec 64} {v : VDev} {s : State} (hv : v ∈ s.vdevs)
    (hp : v.permits req = true) (ho : req.op = .atom op ty b c) (hb : s.rangeBad req.pa (tyWidth ty.toNat / 8) = false)
    (ht : s.tornLine req.pa (tyWidth ty.toNat / 8) = false) :
    let n := tyWidth ty.toNat / 8
    let old := s.dev.read req.pa n
    ∃ u, exec (.hostRequest req) s = .next u ∧ OnlyBytes s u .dev req.pa n
      ∧ u.out = s.out ++ [.hostData req.host (BitVec.ofNat 64 req.pa) (leBytes n old)]
      ∧ u.dev.read req.pa n = atomResult (atomOpOf op) ty.toNat old (b.toNat % 2 ^ (8 * n)) c.toNat % 2 ^ (8 * n) := by
  intro n old
  have hb' : s.newUid.2.rangeBad req.pa n = false := hb
  have hs : s.newUid.2.serve req = some (s.newUid.2.storeDev req.pa n
      (atomResult (atomOpOf op) ty.toNat old (b.toNat % 2 ^ (8 * n)) c.toNat) none, leBytes n old) := by
    simp only [State.serve, ho]
    exact if_neg (by rw [hb']; exact Bool.false_ne_true)
  revert hs
  generalize atomResult (atomOpOf op) ty.toNat old (b.toNat % 2 ^ (8 * n)) c.toNat = r
  intro hs
  obtain ⟨ht', hd, hr⟩ := State.storeDev_read (s := s.newUid.2) r none ht
  obtain ⟨u, he, hu, hon, hout⟩ := hostRequest_wrote hv hp hs ht' hd
  exact ⟨u, he, by rwa [length_leBytes] at hon, hout, by rw [hu]; exact hr⟩

/-! ### What settling leaves of a busy warp (07 R150) -/

/-- A change of the warps of a name that leaves the first of them is seen by nobody who looks for it. -/
theorem State.warpOf_onWarp_fixed {s : State} {u : Nat} {w : Warp} {f : Warp → Warp} (h : s.warpOf u = some w) (hf : f w = w) :
    (s.onWarp u f).warpOf u = some w := by
  have key : ∀ l : List Warp, l.find? (fun w => w.uid == u) = some w →
      (l.map (fun v => if v.uid == u then f v else v)).find? (fun w => w.uid == u) = some w := by
    intro l
    induction l with
    | nil => intro h; cases h
    | cons v l ih =>
      intro h
      rw [List.find?_cons] at h
      split at h
      · rename_i hv
        obtain rfl := Option.some.inj h
        rw [List.map_cons, if_pos hv, hf, List.find?_cons, hv]
      · rename_i hv
        rw [List.map_cons, if_neg (by simp [hv]), List.find?_cons, hv]
        exact ih h
  exact key s.warps h

/-- A warp with a running quad re-gangs nothing. -/
theorem Warp.settleRgang_running {w : Warp} {q : Nat} (hq : q ∈ w.counted) (hr : (w.quad q).park = .running) (k : Nat) : w.settleRgang k = w := by
  have none' : ∀ p : Park, p ≠ .running → w.counted.all (fun q => (w.quad q).park == p) = false := by
    intro p hp
    exact List.all_eq_false.2 ⟨q, hq, by simpa [hr] using Ne.symm hp⟩
  unfold Warp.settleRgang
  simp [none' .rgang (by decide), none' .rgangHome (by decide)]

/-- It performs no `bar`. -/
theorem State.settleBar_running {s : State} {uid q : Nat} {w : Warp} (h : s.warpOf uid = some w) (hq : q ∈ w.counted) (hr : (w.quad q).park = .running) :
    s.settleBar uid = s := by
  have hb : w.counted.all (fun p => (w.quad p).barOf.isSome) = false := List.all_eq_false.2 ⟨q, hq, by simp [Quad.barOf, hr]⟩
  unfold State.settleBar
  rw [h]
  simp [hb]

/-- Settling a busy warp counts an identifier, and changes nothing else but the warps. -/
theorem Busy.settle {s : State} {uid : Nat} {w : Warp} (hb : Busy s w) (h : s.warpOf uid = some w) : OnlyWarps s (s.settle uid) := by
  obtain ⟨he, ⟨q, hq, hr⟩, ht, hw⟩ := hb
  let t := s.newUid.2.onWarp uid (fun w => w.settleRgang s.uids)
  have hst : OnlyWarps s t := rfl
  have htw : t.warpOf uid = some w := State.warpOf_onWarp_fixed (s := s.newUid.2) h (Warp.settleRgang_running hq hr _)
  have halive : w.aliveQuads ≠ [] := by
    have : q ∈ w.aliveQuads := by
      unfold Warp.counted at hq
      split at hq
      · exact (List.mem_filter.1 hq).1
      · exact hq
    exact List.ne_nil_of_mem this
  have hcore : (t.coreOf w.core).windows = [] := hw
  have e : s.settle uid = t := by
    rw [State.settle_eq]
    have htrap : t.settleTrap uid = t := by unfold State.settleTrap; rw [htw]; simp only [ht]
    have hlife : t.settleLife uid = t := by
      unfold State.settleLife State.settleWindows
      rw [htw]
      simp [halive, hcore]
    have hhome : t.settleHome uid = t := by unfold State.settleHome; rw [htw]; simp [he]
    change (if ((t.settleBar uid).warpOf uid).any Warp.hidden then t.settleBar uid
      else (((t.settleBar uid).settleTrap uid).settleLife uid).settleHome uid) = t
    rw [State.settleBar_running htw hq hr, htrap, hlife, hhome, ite_self]
  rw [e]
  exact hst

/-! ### The completion of an access -/

/-- Nothing of a warp changes but what it waits for, and where its results stand. -/
def OnlyResults (w v : Warp) : Prop :=
  v = { w with waits := v.waits, trail := v.trail, scored := v.scored, regs := v.regs, errors := v.errors }

theorem OnlyResults.refl (w : Warp) : OnlyResults w w := rfl
theorem OnlyResults.trans {w v x : Warp} (h : OnlyResults w v) (h' : OnlyResults v x) : OnlyResults w x := by
  unfold OnlyResults at *; rw [h', h]
theorem OnlyResults.uid {w v : Warp} (h : OnlyResults w v) : v.uid = w.uid := by rw [h]
theorem OnlyResults.late {w v : Warp} (h : OnlyResults w v) : v.late = w.late := by rw [h]

/-- A warp is as busy as before its results came. -/
theorem Busy.results {s t : State} {w v : Warp} (hb : Busy s w) (h : OnlyResults w v) (hc : t.cores = s.cores) : Busy t v := by
  have e : ∀ k, t.coreOf k = s.coreOf k := fun k => by simp only [State.coreOf, hc]
  obtain ⟨he, hq, ht, hw⟩ := hb
  rw [h]
  exact ⟨he, hq, ht, (congrArg Core.windows (e _)).trans hw⟩

/-- Without a late fault, the last access of an instruction lands its results. -/
theorem State.finishAccess_lands {s : State} {uid seq : Nat} {w : Warp} (h : s.warpOf uid = some w) (hl : ∀ t ∈ w.late, t.1 ≠ seq) (pc : BitVec 55) :
    OnlyWarps s (s.finishAccess uid seq pc) ∧ ∃ v, (s.finishAccess uid seq pc).warpOf uid = some v ∧ OnlyResults w v := by
  have stays : OnlyWarps s s ∧ ∃ v, s.warpOf uid = some v ∧ OnlyResults w v := ⟨OnlyWarps.refl s, w, h, OnlyResults.refl w⟩
  have hf : w.late.find? (fun x => x.1 == seq) = none := List.find?_eq_none.2 (fun t ht => by simpa using hl t ht)
  unfold State.finishAccess
  simp only [h, hf]
  split
  · exact stays
  · split
    · rename_i e _
      have hfresh := s.landing_onlyFresh e.early e.vals
      unfold State.landScored
      exact ⟨hfresh.onlyWarps.trans (OnlyWarps.onWarp _ _ _), _,
        State.warpOf_onWarp_self ((hfresh.warpOf uid).trans h) _ (fun _ => rfl), rfl⟩
    · exact stays

/-- A store of a busy warp that has been performed changes nothing but the warps. -/
theorem Busy.noteActed_store {s : State} {uid : Nat} {w : Warp} {a : Access} (hb : Busy s w) (h : s.warpOf uid = some w) (hk : a.kind = .store)
    (hl : ∀ t ∈ w.late, t.1 ≠ a.seq) : OnlyWarps s (s.noteActed uid a (.done [])) := by
  let f (w : Warp) : Warp := { w with
    scored := w.scored.map (fun e => if e.seq == a.seq then { e with vals := e.vals ++ ([] : List (Nat × Word)).map (fun v => (v.1, a.lane, v.2)) } else e) }
  have e : s.noteActed uid a (.done []) = ((s.onWarp uid f).finishAccess uid a.seq a.pc).settle uid := by
    unfold State.noteActed
    simp only [Access.clears, Access.moldValue, hk, Bool.false_eq_true, if_false]
    rfl
  have hf : (s.onWarp uid f).warpOf uid = some (f w) := State.warpOf_onWarp_self h f (fun _ => rfl)
  obtain ⟨hon, v, hv, hr⟩ := State.finishAccess_lands (seq := a.seq) hf hl a.pc
  have hon' := (OnlyWarps.onWarp s uid f).trans hon
  rw [e]
  exact hon'.trans ((hb.results (OnlyResults.trans (v := f w) rfl hr) (by rw [hon'])).settle hv)

/-! ### A store delivered (07 R150) -/

/-- The state in which a store to device memory of a channel has been performed and has left it. -/
def State.storeDelivered (s : State) (o : SysOp) (w : Warp) (p : Part) : State :=
  let s := ((s.keepOp o.uid).noteWork w.ctx).storeDev p.addr p.bytes p.data.toNat (some w.uid)
  { s with channels := s.channels.filter (fun x => x.uid != o.uid) }

theorem channelDeliver_store {pkg : BitVec 10} {cls : Nat} {o : SysOp} {w : Warp} {p : Part} {s : State}
    (ho : s.channels.find? (fun o => o.inChannel && o.pkg == pkg && o.cls == cls) = some o) (hw : s.warpOf o.warp = some w)
    (hf : o.failed = none) (hk : o.access.kind = .store) (hp : o.access.parts = [p]) (hs : o.access.space = .dev)
    (hb : s.rangeBad p.addr p.bytes = false) :
    exec (.channelDeliver pkg cls) s = .next ((s.storeDelivered o w p).noteActed w.uid o.access (.done [])) := by
  have hw' : (s.keepOp o.uid).warpOf o.warp = some w := hw
  have hb' : ((s.keepOp o.uid).noteWork w.ctx).rangeBad p.addr p.bytes = false := hb
  simp only [exec, execChannelDeliver, ho, State.deliver, hk, hw', State.actAny, State.act, hp, State.storeParts, State.writeAt, hs, hb', hf,
    Bool.false_eq_true, if_false, Option.isSome_none]
  rfl

/-- The warp whose store is delivered is as it was but for what it waits for. -/
theorem State.storeDelivered_warp {s : State} {o : SysOp} {w : Warp} (p : Part) {uid : Nat} (h : s.warpOf uid = some w) :
    ∃ v, (s.storeDelivered o w p).warpOf uid = some v ∧ OnlyResults w v := by
  refine ⟨{ w with waits := w.waits.map (stirWait .dev p.addr (leBytes p.bytes p.data.toNat).length) }, ?_, rfl⟩
  have e := State.warpOf_map s (fun w => { w with waits := w.waits.map (stirWait .dev p.addr (leBytes p.bytes p.data.toNat).length) }) (fun _ => rfl) uid
  rw [h] at e
  exact e

/-- A store delivered leaves its bytes in memory, its operation known to the home slice, and no operation in flight. -/
theorem channelDeliver_stores {pkg : BitVec 10} {cls : Nat} {o : SysOp} {w : Warp} {p : Part} {s : State}
    (ho : s.channels.find? (fun o => o.inChannel && o.pkg == pkg && o.cls == cls) = some o) (hw : s.warpOf o.warp = some w) (hbusy : Busy s w)
    (hf : o.failed = none) (hk : o.access.kind = .store) (hp : o.access.parts = [p]) (hs : o.access.space = .dev)
    (hb : s.rangeBad p.addr p.bytes = false) (ht : s.tornLine p.addr p.bytes = false) (hl : ∀ t ∈ w.late, t.1 ≠ o.access.seq) :
    ∃ u, exec (.channelDeliver pkg cls) s = .next u ∧ u.dev.read p.addr p.bytes = p.data.toNat % 2 ^ (8 * p.bytes)
      ∧ OnlyBytes s u .dev p.addr p.bytes ∧ (∀ x, x ∈ u.channels → x.uid ≠ o.uid) ∧ (o.uid, s.hb) ∈ u.performedOps := by
  let t := s.storeDelivered o w p
  obtain ⟨v, hv, hr⟩ := s.storeDelivered_warp (o := o) p hw
  have huid : w.uid = o.warp := State.uid_of_warpOf hw
  have hnote : OnlyWarps t (t.noteActed w.uid o.access (.done [])) :=
    Busy.noteActed_store (hbusy.results hr rfl) (by rw [huid]; exact hv) hk (by rw [hr.late]; exact hl)
  obtain ⟨hon, hd, hread⟩ := State.storeDev_read (s := (s.keepOp o.uid).noteWork w.ctx) p.data.toNat (some w.uid) ht
  have hbytes : OnlyBytes s t .dev p.addr p.bytes := by
    have := OnlyDev.onlyBytes hon hd
    rw [length_leBytes] at this
    exact this
  refine ⟨_, channelDeliver_store ho hw hf hk hp hs hb, ?_, ?_, ?_, ?_⟩
  · rw [hnote]
    exact hread
  · rw [hnote]
    exact hbytes
  · rw [hnote]
    intro x hx
    simpa using (List.mem_filter.1 hx).2
  · rw [hnote]
    exact List.mem_append_right _ (List.mem_singleton_self _)

/-! ### The fabric as a whole -/

/-- Settles O53, clause by clause from the rules of the heartbeat, flits, ports, operations in flight and hosts. -/
theorem fabricEvents : Obligations.FabricEvents := by
  unfold Obligations.FabricEvents
  intro edged unlocked tick
  refine ⟨?beats, ?stands, ?hears, ?corrects, ?selects, ?loses, ?provisions, ?ticks, ?takes, ?trains, ?falls, ?ports, ?expires, ?settles, ?refused,
    ?permitted, ?delivers⟩
  case beats =>
    intro s hc h
    obtain ⟨u, he, hu, hl, hfollower, hroot⟩ := heartbeatTick_edge hc h
    refine ⟨u, he, hu, hl, hfollower, fun hr d k hd hk hroom hw => ?_⟩
    rw [hroot hr]
    exact edge_sendTicks_one hc hd hk hroom hw
  case stands =>
    intro s h hr hn
    rw [heartbeatTick_follower h, if_neg]
    rintro (hr' | ⟨hj, hl, hb⟩)
    · simp [hr] at hr'
    · exact hn.elim (fun e => by simp [hj] at e) (fun e => e.elim (fun e => by simp [hl] at e) (fun e => Nat.not_lt.2 e hb))
  case hears =>
    intro root s
    have e : exec (.tickFlitReceive root) s = .next (s.hearRoot root) := rfl
    refine ⟨fun h => ?_, fun h hj => ?_, fun h hj hq => tickFlitReceive_follows h hj hq, fun h hj hl hr hc hb hn => ?_⟩
    · rw [e, hearRoot_root root h]
    · rw [e, hearRoot_joins root h hj]
    · obtain ⟨he, hhb⟩ := hearRoot_catches h hj hl hr hc hb hn
      obtain ⟨hedge, hlock, -, -⟩ := State.edge_edged hc
      exact ⟨{ s.edge with rootHb := root, routed := true }, by rw [e, he], hhb, rfl, hlock.trans hl, hedge.sameMemory⟩
  case corrects => exact fun s h hc hl hr hj hb => counterCorrection_edge h hc hl hr hj hb
  case selects => exact fun pkg s h => rootSelection_other h
  case loses => exact fun s h hr => rootRouteLoss_unlocks h hr
  case provisions => exact packageProvisioning_next
  case ticks =>
    intro port f s hp hu hb hs ht
    refine ⟨_, rfl, ?_, flitReceive_tick hp hu hb hs ht⟩
    rw [State.putPort_portOf, if_pos (by simp), Port.accept_expect]
  case takes =>
    intro port f s hp hu h
    obtain ⟨u, he, hfab⟩ := flitReceive_next hp hu h
    refine ⟨u, he, hfab.sameMemory, fun hb hs hk => ?_, fun hb hs hk hd k hr hne hw => ?_, fun hbad => ?_⟩
    · have ht : ¬ tick s f := by simpa only [hb, hs, Bool.false_eq_true, ne_eq, not_true_eq_false, false_or] using h
      rw [flitReceive_taken hp hu he hb hs ht hk]
      refine ⟨Port.accept_expect _ f, Port.accept_nakOut _ f, rfl, fun hn => ?_, fun hn => ?_, fun hw hlen => Port.accept_acked hw hlen⟩
      · exact (Port.accept_naks _ f).trans (by simp [hn])
      · exact (Port.accept_naks _ f).trans (by simp [hn])
    · obtain ⟨hroom, hfull⟩ := flitReceive_goesOn hp hu he hb hs hk hd hr hne hw
      constructor <;> intro hl
      · rw [hroom hl]
        exact ⟨_, rfl, rfl, rfl, rfl, rfl⟩
      · rw [hfull hl]
        exact ⟨rfl, rfl⟩
    · exact flitReceive_refuses hp hu he hbad
  case trains =>
    intro e he port lanes s hp hn
    have hexec : exec (e.1 port lanes) s = .next (s.train port lanes) := by
      simp only [List.mem_cons, List.not_mem_nil, or_false] at he
      rcases he with rfl | rfl
      · exact (train_next lanes s).2 (hn rfl)
      · exact (train_next lanes s).1
    exact ⟨_, hexec, (s.train_port lanes hp).1.sameMemory, s.train_trains lanes hp⟩
  case falls =>
    intro port s hp hu ht
    obtain ⟨u, he, hu, hq⟩ := portDown_falls hp hu ht
    exact ⟨u, he, by rw [hq], by rw [hq], by rw [hq], hu.sameMemory⟩
  case ports => exact fun port s h => portDown_stays h
  case expires =>
    intro op o s ho hf ht
    obtain ⟨p, he⟩ := sysResponseTimeout_fails ho hf ht
    obtain ⟨o', hfound, hfailed, hsince⟩ := State.failOp_found ho 2 p
    exact ⟨_, o', p, he, hfound, hfailed, hsince, (OnlyFabric.failOp s op 2 p).sameMemory⟩
  case settles => exact fun op answer o why s ho hf hc => fabricOutcomeSettle_outcome ho hf hc
  case refused => exact fun req s h => hostRequest_refused h
  case permitted =>
    intro req v s hv hp
    cases ho : req.op with
    | read n =>
      obtain ⟨u, he, hm, hout⟩ := hostRequest_read hv hp ho
      exact ⟨u, he, fun h => ⟨hm, by rw [hout, h]; rfl⟩, fun h => ⟨hm, by rw [hout, if_pos h]⟩⟩
    | write data =>
      by_cases ht : s.tornLine req.pa data.length = false
      · obtain ⟨u, he, hd, hon, hout⟩ := hostRequest_write hv hp ho ht
        exact ⟨u, he, fun _ => ⟨hon, hout, fun i b hi => by rw [hd]; exact Memory.byte_setBytes_inside _ _ hi⟩⟩
      · exact ⟨_, hostRequest_served hv hp, fun h => absurd h ht⟩
    | atom op ty b c =>
      by_cases h : s.rangeBad req.pa (tyWidth ty.toNat / 8) = false ∧ s.tornLine req.pa (tyWidth ty.toNat / 8) = false
      · obtain ⟨u, he, hon, hout, hread⟩ := hostRequest_atom hv hp ho h.1 h.2
        exact ⟨u, he, fun _ _ => ⟨hon, hout, hread⟩⟩
      · exact ⟨_, hostRequest_served hv hp, fun hb ht => absurd ⟨hb, ht⟩ h⟩
  case delivers =>
    intro pkg cls o w p s ho hw hbusy hf hk hp _ hs hb ht hl
    exact channelDeliver_stores ho hw hbusy hf hk hp hs hb ht hl

end Sys2Proof.Machine
end

section
/-!
PROOFS. Signals and the event queues (O56): what a command of the die control core leaves when it ends, a device whose vectors change, what makes a task
ready, and the records of an event queue; the obligation is settled at the end.
-/
namespace Sys2Proof.Machine

/-! ### Lists changed in one place -/

@[simp] theorem modifyAt_length {α : Type} (f : α → α) (k : Nat) (l : List α) : (modifyAt f k l).length = l.length := by
  induction l generalizing k with
  | nil => cases k <;> rfl
  | cons x l ih =>
    cases k with
    | zero => rfl
    | succ k => exact congrArg (· + 1) (ih k)

@[simp] theorem modifyAt_getElem? {α : Type} (f : α → α) (k : Nat) (l : List α) (i : Nat) :
    (modifyAt f k l)[i]? = if i = k then (l[i]?).map f else l[i]? := by
  induction l generalizing k i with
  | nil => cases k <;> simp [modifyAt]
  | cons x l ih =>
    cases k with
    | zero => cases i <;> simp [modifyAt]
    | succ k => cases i <;> simp [modifyAt, ih]

/-- The first element of a kind, where every element of the kind is changed and stays of it. -/
theorem find?_map_update {α : Type} {p : α → Bool} {f : α → α} (hf : ∀ a, p (f a) = p a) (l : List α) :
    (l.map (fun a => if p a then f a else a)).find? p = (l.find? p).map f := by
  induction l with
  | nil => rfl
  | cons a l ih => cases h : p a <;> simp [h, hf, ih]

/-! ### Commands, devices and tasks found after updates -/

theorem State.cmdOf_onCmd (s : State) (uid : Nat) {f : JrfCommand → JrfCommand} (hf : ∀ c, (f c).uid = c.uid) :
    (s.onCmd uid f).cmdOf uid = (s.cmdOf uid).map f := find?_map_update (fun c => by rw [hf]) s.commands

theorem State.vdOf_onVd (s : State) (num : Nat) {f : VDev → VDev} (hf : ∀ v, (f v).num = v.num) :
    (s.onVd num f).vdOf num = (s.vdOf num).map f := find?_map_update (fun v => by rw [hf]) s.vdevs

theorem State.taskOf_onTask (s : State) (die idx : Nat) {f : Task → Task} (hf : ∀ t, (f t).die = t.die ∧ (f t).idx = t.idx) :
    (s.onTask die idx f).taskOf die idx = (s.taskOf die idx).map f := find?_map_update (fun t => by rw [(hf t).1, (hf t).2]) s.tasks

theorem State.num_of_vdOf {s : State} {num : Nat} {v : VDev} (h : s.vdOf num = some v) : v.num = num := by simpa using List.find?_some h

theorem State.uid_of_cmdOf {s : State} {uid : Nat} {c : JrfCommand} (h : s.cmdOf uid = some c) : c.uid = uid := by simpa using List.find?_some h

/-! ### The end of a command (02 R29) -/

/-- A command with its status and result. -/
def JrfCommand.ended (c : JrfCommand) (st r : Nat) : JrfCommand := { c with outcome := some (st, BitVec.ofNat 64 r), phase := max 1 c.phase }

/-- Where no task waits for the end of a checkpoint, a command ends and nothing else happens. -/
theorem State.endCmd_eq {s : State} (hz : s.zeroed = []) (uid st r : Nat) : s.endCmd uid st r = s.onCmd uid (fun c => c.ended st r) := by
  have hz' : (s.onCmd uid (fun c => c.ended st r)).zeroed = [] := hz
  change (s.onCmd uid (fun c => c.ended st r)).releaseZeroed = _
  unfold State.releaseZeroed
  rw [hz']
  rfl

/-- The command that a row acts on, with its device. -/
theorem State.running_found {s : State} {code : Nat} {c : JrfCommand} {v : VDev} (h : s.running code = some (c, v)) :
    s.cmdOf c.uid = some c ∧ s.vdOf c.vd = some v := by
  unfold State.running at h
  cases hc : s.cmdOf s.focus with
  | none => simp [hc] at h
  | some d =>
    simp only [hc] at h
    split at h
    · cases h
    · obtain ⟨w, hw, e⟩ := Option.map_eq_some_iff.1 h
      cases e
      exact ⟨by rw [State.uid_of_cmdOf hc]; exact hc, hw⟩

/-- A row that gives a status and a result ends its command. -/
theorem jrf_ends {code st r : Nat} {f : State → JrfCommand → VDev → State × Option (Nat × Nat)} {s t : State} {c : JrfCommand} {v : VDev}
    (hr : s.running code = some (c, v)) (hb : s.barred c v = none) (hf : f (s.noteWork c.ctx) c v = (t, some (st, r))) (hz : t.zeroed = []) :
    jrf code f s = .next (t.onCmd c.uid (fun c => c.ended st r)) := by
  simp only [jrf, hr, hb, hf, State.endCmd_eq hz]

/-- The command stands with its status and result. -/
theorem State.ended_found {s t : State} {code : Nat} {c : JrfCommand} {v : VDev} (hr : s.running code = some (c, v)) (ht : t.commands = s.commands)
    (st r : Nat) : ∃ d, (t.onCmd c.uid (fun c => c.ended st r)).cmdOf c.uid = some d ∧ d.outcome = some (st, BitVec.ofNat 64 r) := by
  have hc : t.cmdOf c.uid = some c := by unfold State.cmdOf; rw [ht]; exact (State.running_found hr).1
  refine ⟨c.ended st r, ?_, rfl⟩
  rw [State.cmdOf_onCmd t c.uid (f := fun c => c.ended st r) (fun _ => rfl), hc, Option.map_some]

/-- A SIGNAL_ON operation on a vector in range ends with the status that it gives. -/
theorem signalOn_ends {op st : Nat} {f : State → JrfCommand → VDev → State × Nat} {s t : State} {c : JrfCommand} {v : VDev}
    (hr : s.running 8 = some (c, v)) (hb : s.barred c v = none) (hop : c.field 64 1 = op) (hv : c.field 65 1 ≤ 63)
    (hf : f (s.noteWork c.ctx) c v = (t, st)) (hz : t.zeroed = []) : signalOn op f s = .next (t.onCmd c.uid (fun c => c.ended st 0)) := by
  simp only [signalOn, hr, hop, bne_self_eq_false, Bool.false_eq_true, if_false]
  exact jrf_ends hr hb (by simp only [Nat.not_lt.2 hv, if_false, hf]) hz

/-! ### The vectors of a device (02 R34) -/

/-- Of a device one vector changes, and nothing else. -/
def OneVector (s u : State) (vd k : Nat) (f : Vector → Vector) : Prop :=
  ∀ v, s.vdOf vd = some v → ∃ v', u.vdOf vd = some v' ∧ v' = { v with vectors := v'.vectors }
    ∧ ∀ i, v'.vectors[i]? = if i = k then (v.vectors[i]?).map f else v.vectors[i]?

theorem State.onVector_oneVector (s : State) (vd k : Nat) (f : Vector → Vector) : OneVector s (s.onVector vd k f) vd k f := by
  intro v hv
  refine ⟨{ v with vectors := modifyAt f k v.vectors }, ?_, rfl, modifyAt_getElem? f k v.vectors⟩
  unfold State.onVector
  rw [State.vdOf_onVd s vd (f := fun v => { v with vectors := modifyAt f k v.vectors }) (fun _ => rfl), hv, Option.map_some]

theorem State.raiseVector_oneVector (s : State) (vd k : Nat) : OneVector s (s.raiseVector vd k) vd k (fun x => { x with pending := true }) :=
  s.onVector_oneVector vd k _

/-- An arm joins those of a device that has room for it. -/
theorem State.addArm_room {s : State} {v : VDev} (a : Arm) (h : v.arms.length < 256) :
    s.addArm v a = (s.onVd v.num (fun v => { v with arms := v.arms ++ [a] }), stOk) := if_neg (Nat.not_le.2 h)

/-! ### SIGNAL_ON (02 R35) -/

/-- Nothing changes but contexts, devices and the responses to those who asked. -/
def OnlyDevices (s u : State) : Prop := u = { s with contexts := u.contexts, vdevs := u.vdevs, answers := u.answers }

theorem OnlyDevices.sameMemory {s u : State} (h : OnlyDevices s u) : SameMemory s u := by rw [h]; exact SameMemory.refl s
theorem OnlyDevices.zeroed {s u : State} (h : OnlyDevices s u) : u.zeroed = s.zeroed := by rw [h]
theorem OnlyDevices.commands {s u : State} (h : OnlyDevices s u) : u.commands = s.commands := by rw [h]

/-- What the operations of SIGNAL_ON act on: a command that may run, whose operation is `op` on a vector in range. -/
def RunsSignalOn (s : State) (op : Nat) (c : JrfCommand) (v : VDev) : Prop :=
  s.running 8 = some (c, v) ∧ s.barred c v = none ∧ s.zeroed = [] ∧ c.field 64 1 = op ∧ c.field 65 1 ≤ 63

/-- The command has ended with a status and the result 0. -/
def Ended (u : State) (c : JrfCommand) (st : Nat) : Prop := ∃ d, u.cmdOf c.uid = some d ∧ d.outcome = some (st, 0)

section
variable {s : State} {op : Nat} {c : JrfCommand} {v : VDev}

theorem RunsSignalOn.vector_le (h : RunsSignalOn s op c v) : c.field 65 1 ≤ 63 := by
  obtain ⟨-, -, -, -, hv⟩ := h
  exact hv

theorem RunsSignalOn.device (h : RunsSignalOn s op c v) : s.vdOf c.vd = some v := (State.running_found h.1).2

theorem RunsSignalOn.num (h : RunsSignalOn s op c v) : v.num = c.vd := State.num_of_vdOf h.device

/-- An operation ends its command with the status that it gives, and changes no memory. -/
theorem RunsSignalOn.ends {st : Nat} {t : State} {f : State → JrfCommand → VDev → State × Nat} (h : RunsSignalOn s op c v)
    (hf : f (s.noteWork c.ctx) c v = (t, st)) (ht : OnlyDevices s t) :
    signalOn op f s = .next (t.onCmd c.uid (fun c => c.ended st 0)) ∧ SameMemory s (t.onCmd c.uid (fun c => c.ended st 0))
      ∧ Ended (t.onCmd c.uid (fun c => c.ended st 0)) c st := by
  obtain ⟨hr, hb, hzero, hop, hvec⟩ := h
  exact ⟨signalOn_ends hr hb hop hvec hf (ht.zeroed.trans hzero), ht.sameMemory, State.ended_found hr ht.commands st 0⟩

/-- A vector of the device of the command changed. -/
theorem RunsSignalOn.vector {t : State} (h : RunsSignalOn s op c v) (hv : t.vdevs = s.vdevs) (k : Nat) (f : Vector → Vector) (g : JrfCommand → JrfCommand) :
    OneVector s ((t.onVector v.num k f).onCmd c.uid g) c.vd k f := by
  rw [h.num]
  intro w hw
  exact t.onVector_oneVector c.vd k f w (by unfold State.vdOf; rw [hv]; exact hw)

/-- The device of the command with one more arm. -/
theorem RunsSignalOn.armed {t : State} (h : RunsSignalOn s op c v) (hv : t.vdevs = s.vdevs) (a : Arm) :
    (t.onVd v.num (fun v => { v with arms := v.arms ++ [a] })).vdOf c.vd = some { v with arms := v.arms ++ [a] } := by
  have hd : t.vdOf c.vd = some v := by unfold State.vdOf; rw [hv]; exact h.device
  have e := State.vdOf_onVd t c.vd (f := fun v => { v with arms := v.arms ++ [a] }) (fun _ => rfl)
  rw [hd, Option.map_some] at e
  rwa [← h.num] at e ⊢

/-- Operation 0 sets the target and the cookie of the vector. -/
theorem signalOnSetTarget_sets (h : RunsSignalOn s 0 c v) (hi : v.iface = .unlocked) (hp : c.field 80 2 ≤ 0x3FF) (hk : c.field 88 8 < 2 ^ 56) :
    ∃ u, exec .signalOnSetTarget s = .next u ∧ SameMemory s u ∧ Ended u c 0 ∧ OneVector s u c.vd (c.field 65 1) (fun x =>
      { x with target := BitVec.ofNat 64 (c.field 72 8), pkg := BitVec.ofNat 10 (c.field 80 2), cookie := BitVec.ofNat 56 (c.field 88 8) }) := by
  have hbad : (decide (c.field 80 2 > 0x3FF) || decide (c.field 88 8 ≥ 2 ^ 56)) = false := by
    simp only [Bool.or_eq_false_iff, decide_eq_false_iff_not]
    omega
  let t := (s.noteWork c.ctx).onVector v.num (c.field 65 1) (fun x =>
    { x with target := BitVec.ofNat 64 (c.field 72 8), pkg := BitVec.ofNat 10 (c.field 80 2), cookie := BitVec.ofNat 56 (c.field 88 8) })
  obtain ⟨he, hm, hended⟩ : exec .signalOnSetTarget s = .next (t.onCmd c.uid (fun c => c.ended stOk 0)) ∧ _ :=
    h.ends ((if_neg (by simp [hi])).trans (if_neg (by rw [hbad]; exact Bool.false_ne_true))) rfl
  exact ⟨_, he, hm, hended, h.vector (t := s.noteWork c.ctx) rfl _ _ _⟩

/-- An operation that only changes the vector. -/
theorem signalOn_vector (h : RunsSignalOn s op c v) (g : Vector → Vector) :
    ∃ u, signalOn op (fun s c v => (s.onVector v.num (c.field 65 1) g, stOk)) s = .next u ∧ SameMemory s u ∧ Ended u c 0
      ∧ OneVector s u c.vd (c.field 65 1) g := by
  obtain ⟨he, hm, hended⟩ := h.ends (t := (s.noteWork c.ctx).onVector v.num (c.field 65 1) g) (st := stOk)
    (f := fun s c v => (s.onVector v.num (c.field 65 1) g, stOk)) rfl rfl
  exact ⟨_, he, hm, hended, h.vector (t := s.noteWork c.ctx) rfl _ _ _⟩

/-- Operation 3 arms the vector for a task. -/
theorem signalOnTaskArm_arms (h : RunsSignalOn s 3 c v) (hr : c.field 96 8 < 2 ^ 14) (hroom : v.arms.length < 256) :
    ∃ u, exec .signalOnTaskArm s = .next u ∧ SameMemory s u ∧ Ended u c 0
      ∧ u.vdOf c.vd = some { v with arms := v.arms ++ [.task (c.field 65 1) (c.field 96 8 / 4096) (c.field 96 8 % 4096)] } := by
  let a : Arm := .task (c.field 65 1) (c.field 96 8 / 4096) (c.field 96 8 % 4096)
  let t := (s.noteWork c.ctx).onVd v.num (fun v => { v with arms := v.arms ++ [a] })
  have e : exec .signalOnTaskArm s = signalOn 3 (fun s c v => if c.field 96 8 ≥ 2 ^ 14 then (s, stReserved)
    else s.addArm v (.task (c.field 65 1) (c.field 96 8 / 4096) (c.field 96 8 % 4096))) s := rfl
  obtain ⟨he, hm, hended⟩ := e ▸ h.ends (t := t) ((if_neg (Nat.not_le.2 hr)).trans (State.addArm_room a hroom)) rfl
  exact ⟨_, he, hm, hended, h.armed (t := s.noteWork c.ctx) rfl a⟩

/-! #### The word of operation 4 -/

/-- Operation 4 ends as the word that it watches says. -/
theorem RunsSignalOn.ends_word {st : Nat} {t : State} (h : RunsSignalOn s 4 c v) (hf : (s.noteWork c.ctx).armWord c v = (t, some (st, 0)))
    (ht : OnlyDevices s t) :
    exec .signalOnWordArm s = .next (t.onCmd c.uid (fun c => c.ended st 0)) ∧ SameMemory s (t.onCmd c.uid (fun c => c.ended st 0))
      ∧ Ended (t.onCmd c.uid (fun c => c.ended st 0)) c st := by
  obtain ⟨hr, hb, hzero, hop, -⟩ := h
  refine ⟨?_, ht.sameMemory, State.ended_found hr ht.commands st 0⟩
  have e : exec .signalOnWordArm s = jrf 8 (fun s c v => s.armWord c v) s := by
    simp only [exec, execSignalOnWordArm, hr, hop, bne_self_eq_false, Bool.false_eq_true, if_false]
  rw [e]
  exact jrf_ends hr hb hf (ht.zeroed.trans hzero)

/-- The operation names a vector and an aligned word. -/
theorem JrfCommand.wordNamed {c : JrfCommand} (ha : c.field 96 8 % 8 = 0) (hv : c.field 65 1 ≤ 63) :
    (decide (c.field 65 1 > 63) || c.field 96 8 % 8 != 0) = false := by
  rw [decide_eq_false (Nat.not_lt.2 hv), ha]
  rfl

theorem State.armWord_unreadable {s : State} (ha : c.field 96 8 % 8 = 0) (hv : c.field 65 1 ≤ 63) (hw : c.watch = none) :
    s.armWord c v = (s, some (stFault, 0)) := by
  simp only [State.armWord, JrfCommand.wordNamed ha hv, hw, Bool.false_eq_true, if_false]

theorem State.armWord_met {s : State} {key : Nat} {value : BitVec 64} (ha : c.field 96 8 % 8 = 0) (hv : c.field 65 1 ≤ 63) (hroom : v.arms.length < 256)
    (hw : c.watch = some (key, value, true)) : s.armWord c v = (s.raiseVector v.num (c.field 65 1), some (stOk, 0)) := by
  simp only [State.armWord, JrfCommand.wordNamed ha hv, hw, ge_iff_le, Nat.not_le.2 hroom, Bool.false_eq_true, if_false, if_true]

theorem State.armWord_unmet {s : State} {key : Nat} {value : BitVec 64} (ha : c.field 96 8 % 8 = 0) (hv : c.field 65 1 ≤ 63) (hroom : v.arms.length < 256)
    (hw : c.watch = some (key, value, false)) (hk : keyRemote key = none) :
    s.armWord c v = ((s.taken c.asker).onVd v.num (fun v => { v with arms := v.arms ++ [.word (c.field 65 1) key value] }), some (stOk, 0)) := by
  simp only [State.armWord, JrfCommand.wordNamed ha hv, hw, hk, ge_iff_le, Nat.not_le.2 hroom, State.addArm_room _ hroom, Option.isNone_none, bne_self_eq_false,
    Bool.false_and, Bool.false_eq_true, if_false, if_true]

/-- Operation 4 raises the vector when its word has been equal, and else arms it for the word. -/
theorem signalOnWordArm_watches {key : Nat} {value : BitVec 64} {met : Bool} (h : RunsSignalOn s 4 c v) (ha : c.field 96 8 % 8 = 0)
    (hroom : v.arms.length < 256) (hw : c.watch = some (key, value, met)) (hk : keyRemote key = none) :
    ∃ u, exec .signalOnWordArm s = .next u ∧ SameMemory s u ∧ Ended u c 0
      ∧ (met = true → OneVector s u c.vd (c.field 65 1) (fun x => { x with pending := true }))
      ∧ (met = false → u.vdOf c.vd = some { v with arms := v.arms ++ [.word (c.field 65 1) key value] }) := by
  have hv := h.vector_le
  cases met with
  | true =>
    obtain ⟨he, hm, hended⟩ := h.ends_word (State.armWord_met ha hv hroom hw) rfl
    exact ⟨_, he, hm, hended, fun _ => h.vector (t := s.noteWork c.ctx) rfl _ _ _, nofun⟩
  | false =>
    obtain ⟨he, hm, hended⟩ := h.ends_word (State.armWord_unmet ha hv hroom hw hk) rfl
    exact ⟨_, he, hm, hended, nofun, fun _ => h.armed (t := (s.noteWork c.ctx).taken c.asker) rfl _⟩

/-- Operation 4 on a word that the context cannot read is a FAULT. -/
theorem signalOnWordArm_faults (h : RunsSignalOn s 4 c v) (ha : c.field 96 8 % 8 = 0) (hw : c.watch = none) :
    ∃ u, exec .signalOnWordArm s = .next u ∧ SameMemory s u ∧ Ended u c stFault := by
  have hv := h.vector_le
  exact ⟨_, h.ends_word (State.armWord_unreadable ha hv hw) rfl⟩

end

/-! ### Signal writes (02 R36) -/

/-- The arms that a write fires raise vectors of a device; it has as many as before, and the same number. -/
theorem fireArms_vectors_length (dev : Memory) (key n : Nat) (v : VDev) : (fireArms dev key n v).vectors.length = v.vectors.length := by
  have raised : ∀ (l : List Nat) (vs : List Vector),
      (l.foldl (fun vs k => modifyAt (fun x => { x with pending := true }) k vs) vs).length = vs.length := by
    intro l
    induction l with
    | nil => intro vs; rfl
    | cons k l ih => intro vs; rw [List.foldl_cons, ih, modifyAt_length]
  exact raised _ _

/-- A device after a write to device memory. -/
theorem State.storeDev_vdOf {s : State} {vd : Nat} {v : VDev} (h : s.vdOf vd = some v) (key n value : Nat) (writer : Option Nat) :
    ∃ v', (s.storeDev key n value writer).vdOf vd = some v' ∧ v'.vectors.length = v.vectors.length := by
  let t := s.storeDev key n value writer
  refine ⟨fireArms t.dev key (leBytes n value).length v, ?_, fireArms_vectors_length _ _ _ _⟩
  have e : t.vdevs = s.vdevs.map (fireArms t.dev key (leBytes n value).length) := rfl
  change t.vdevs.find? _ = _
  rw [e, List.find?_map]
  exact congrArg (Option.map _) h

/-- No line is written in part where no line is uncorrectable. -/
theorem State.tornLine_none {s : State} (h : s.badLines = []) (key n : Nat) : s.tornLine key n = false := by rw [State.tornLine, h]; rfl

/-- A vector written to its target is pending no more. -/
theorem State.onVector_written {s : State} {vd k : Nat} {v : VDev} (hv : s.vdOf vd = some v) (hk : k < v.vectors.length) :
    ∃ v' x', (s.onVector vd k (fun x => { x with pending := false })).vdOf vd = some v' ∧ v'.vectors[k]? = some x' ∧ x'.pending = false := by
  obtain ⟨v', hv', -, hi⟩ := s.onVector_oneVector vd k (fun x => { x with pending := false }) v hv
  refine ⟨v', { v.vectors[k] with pending := false }, hv', ?_, rfl⟩
  rw [hi, if_pos rfl, List.getElem?_eq_getElem hk, Option.map_some]

section
variable {s : State} {vd k : Nat} {v : VDev} {x : Vector}

/-- What a vector writes: its cookie, and its number in the low byte. -/
theorem Vector.value_lt (x : Vector) (hk : k < 64) : x.cookie.toNat * 256 + k < 2 ^ 64 := by have := x.cookie.isLt; omega

/-- A pending vector that is not masked is written to its target. -/
theorem signalWrite_writes (hv : s.vdOf vd = some v) (hx : v.vectors[k]? = some x) (hk : k < 64) (hp : x.pending = true) (hm : x.mask = false)
    (ht : x.target ≠ 0) (hpause : v.paused = none) (hc : s.change = none) (hbad : s.badLines = []) :
    ∃ u v' x', exec (.signalWrite vd k) s = .next u ∧ u.vdOf vd = some v' ∧ v'.vectors[k]? = some x' ∧ x'.pending = false
      ∧ (x.pkg = 0x3FF ∨ x.pkg = s.pkg → u.dev.read x.target.toNat 8 = x.cookie.toNat * 256 + k ∧ OnlyBytes s u .dev x.target.toNat 8 ∧ u.out = s.out)
      ∧ (x.pkg ≠ 0x3FF → x.pkg ≠ s.pkg → SameMemory s u
          ∧ u.out = s.out ++ [.signal x.pkg x.target (BitVec.ofNat 64 (x.cookie.toNat * 256 + k))]) := by
  have hlen : k < v.vectors.length := (List.getElem?_eq_some_iff.1 hx).1
  have hgo : (!x.pending || x.mask || x.target == 0 || v.paused.isSome || s.change.isSome) = false := by simp only [hp, hm, beq_eq_false_iff_ne.2 ht, hpause, hc]; rfl
  by_cases hhere : x.pkg = 0x3FF ∨ x.pkg = s.pkg
  · let t := s.storeDev x.target.toNat 8 (x.cookie.toNat * 256 + k) none
    have e : exec (.signalWrite vd k) s = .next (t.onVector vd k (fun x => { x with pending := false })) := by
      have hpkg : (x.pkg == 0x3FF || x.pkg == s.pkg) = true := by simpa using hhere
      simp only [exec, execSignalWrite, hv, hx, hgo, hpkg, Bool.false_eq_true, if_false, if_true]
      rfl
    obtain ⟨w, hw, hwlen⟩ := State.storeDev_vdOf hv x.target.toNat 8 (x.cookie.toNat * 256 + k) none
    obtain ⟨v', x', hv', hx', hp'⟩ := State.onVector_written hw (by rw [hwlen]; exact hlen)
    obtain ⟨hon, hd, hread⟩ := State.storeDev_read (x.cookie.toNat * 256 + k) none (s.tornLine_none hbad x.target.toNat 8)
    have hbytes := hon.onlyBytes hd
    rw [length_leBytes] at hbytes
    refine ⟨_, v', x', e, hv', hx', hp', fun _ => ⟨?_, hbytes, rfl⟩, fun h3 hs => absurd hhere (not_or.2 ⟨h3, hs⟩)⟩
    exact hread.trans (Nat.mod_eq_of_lt (x.value_lt hk))
  · let t : State := { s with out := s.out ++ [.signal x.pkg x.target (BitVec.ofNat 64 (x.cookie.toNat * 256 + k))] }
    have e : exec (.signalWrite vd k) s = .next (t.onVector vd k (fun x => { x with pending := false })) := by
      have hpkg : (x.pkg == 0x3FF || x.pkg == s.pkg) = false := by simpa using hhere
      simp only [exec, execSignalWrite, hv, hx, hgo, hpkg, Bool.false_eq_true, if_false]
      rfl
    obtain ⟨v', x', hv', hx', hp'⟩ := State.onVector_written (s := t) hv hlen
    exact ⟨_, v', x', e, hv', hx', hp', fun h => absurd h hhere, fun _ _ => ⟨SameMemory.refl s, rfl⟩⟩

end

/-! ### What makes a task ready leaves (04 R80) -/

/-- No memory changes, and nothing of the event queues. -/
def SameQueues (s u : State) : Prop := SameMemory s u ∧ u.events = s.events

theorem SameQueues.refl (s : State) : SameQueues s s := ⟨SameMemory.refl s, rfl⟩
theorem SameQueues.trans {s t u : State} (h : SameQueues s t) (h' : SameQueues t u) : SameQueues s u := ⟨h.1.trans h'.1, h'.2.trans h.2⟩

/-- The state of a result whose parts have been named. -/
theorem SameQueues.of_eq {α : Type} {r : State × α} {s t : State} {a : α} (h : SameQueues s r.1) (e : r = (t, a)) : SameQueues s t := by
  rw [e] at h; exact h

theorem SameQueues.leafOf (s : State) (core ctx va : Nat) : SameQueues s (s.leafOf core ctx va).1 := by
  unfold State.leafOf
  simp only
  repeat' split
  all_goals exact SameQueues.refl s

theorem SameQueues.translate (s : State) (core ctx va : Nat) (need : Right) : SameQueues s (s.translate core ctx va need).1 := by
  have hl := SameQueues.leafOf s core ctx va
  unfold State.translate
  split
  · exact hl.of_eq ‹_›
  · have ht := hl.of_eq ‹_›
    split
    · exact ht
    · dsimp only
      split <;> (split <;> exact ht)

theorem SameQueues.checkDev (s : State) (core ctx va align : Nat) (need : Right) : SameQueues s (s.checkDev core ctx va align need).1 := by
  have ht := SameQueues.translate s core ctx va need
  unfold State.checkDev
  split
  · exact SameQueues.refl s
  · split
    · exact SameQueues.refl s
    · split <;> exact ht.of_eq ‹_›

theorem SameQueues.readVa (s : State) (who : Asker) (core ctx va fuel n : Nat) : SameQueues s (s.readVa who core ctx va fuel n).1 := by
  induction fuel generalizing s va n with
  | zero => exact SameQueues.refl s
  | succ fuel ih =>
    have hc := SameQueues.checkDev s core ctx va 1 .r
    unfold State.readVa
    split
    · exact SameQueues.refl s
    · dsimp only
      split
      · exact hc.of_eq ‹_›
      · have ht := hc.of_eq ‹_›
        split
        · exact ht
        · split
          · exact ht.trans ((ih _ _ _).of_eq ‹_›)
          · exact ht.trans (ih _ _ _)

theorem SameQueues.ask (s : State) (who : Asker) (write : Bool) (parts : List Part) : SameQueues s (s.ask who write parts) := by
  unfold State.ask State.take
  dsimp only
  repeat' split
  all_goals exact SameQueues.refl s

theorem SameQueues.askFor (s : State) (who : Asker) (e : Bad) : SameQueues s (s.askFor who e) := by
  unfold State.askFor
  dsimp only
  split
  · exact SameQueues.refl s
  · split <;> exact SameQueues.ask s who _ _

theorem SameQueues.logCtx (s : State) (ctx : Nat) (r : ErrorRecord) : SameQueues s (s.logCtx ctx r) := by
  unfold State.logCtx
  split <;> exact SameQueues.refl s

theorem SameQueues.killContext (s : State) (ctx : Nat) : SameQueues s (s.killContext ctx) := by
  unfold State.killContext
  repeat' split
  all_goals exact SameQueues.refl s

theorem SameQueues.failContext (s : State) (ctx die core : Nat) (e : Bad) : SameQueues s (s.failContext ctx die core e) :=
  (SameQueues.logCtx s.chooseNat.2 ctx _).trans (SameQueues.killContext _ ctx)

theorem SameQueues.gainWork (s : State) (ctx : Nat) : SameQueues s (s.gainWork ctx) := by
  unfold State.gainWork State.raiseTime
  repeat' split
  all_goals exact SameQueues.refl s

theorem SameQueues.makeReady (s : State) (die idx : Nat) : SameQueues s (s.makeReady die idx) := by
  unfold State.makeReady
  split
  · exact SameQueues.refl s
  · split
    · exact SameQueues.refl s
    · split
      · exact SameQueues.refl s
      · dsimp only
        split
        · have ht := (SameQueues.readVa s _ _ _ _ _ _).of_eq ‹_›
          split
          · exact SameQueues.askFor s _ _
          · exact ht.trans (SameQueues.failContext (State.taken _ _) _ _ _ _)
        · have ht := (SameQueues.readVa s _ _ _ _ _ _).of_eq ‹_›
          exact ht.trans (SameQueues.gainWork ((State.taken _ _).noteWork _) _)

theorem SameQueues.decrement (s : State) (die idx n : Nat) : SameQueues s (s.decrement die idx n) := by
  unfold State.decrement
  split
  · exact SameQueues.refl s
  · split
    · exact SameQueues.refl s
    · dsimp only
      split
      · exact SameQueues.makeReady (s.onTask _ _ _) _ _
      · exact SameQueues.refl s

/-- A counter that stays above zero is counted down. -/
theorem State.decrement_above {s : State} {die idx n : Nat} {t : Task} (h : s.taskOf die idx = some t) (hn : n < t.counter) :
    (s.decrement die idx n).taskOf die idx = some { t with counter := t.counter - n } := by
  have h0 : (t.counter == 0) = false := by simp; omega
  have h1 : (t.counter - n == 0) = false := by simp; omega
  have e : s.decrement die idx n = s.onTask die idx (fun x => { x with counter := t.counter - n }) := by
    simp only [State.decrement, h, h0, h1, Bool.false_eq_true, if_false]
  rw [e, State.taskOf_onTask s die idx (f := fun x => { x with counter := t.counter - n }) (fun _ => ⟨rfl, rfl⟩), h, Option.map_some]

/-! ### Records of the event queues (08 R470) -/

/-- The oldest record of a die is found behind those of other dies. -/
theorem find?_oldest {die : Nat} {r : EventRecord} {pre post : List (Nat × EventRecord)} (h : ∀ e, e ∈ pre → e.1 ≠ die) :
    (pre ++ (die, r) :: post).find? (fun e => e.1 == die) = some (die, r) := by
  rw [List.find?_append, List.find?_eq_none.2 (fun e he => by simpa using h e he)]
  simp

/-- It alone leaves its queue. -/
theorem drop_oldest {die : Nat} {r : EventRecord} {pre post : List (Nat × EventRecord)} (h : ∀ e, e ∈ pre → e.1 ≠ die) :
    execEventRecord.drop die (pre ++ (die, r) :: post) = pre ++ post := by
  induction pre with
  | nil => simp [execEventRecord.drop]
  | cons e pre ih =>
    have he : (e.1 == die) = false := by simpa using h e List.mem_cons_self
    simp [execEventRecord.drop, he, ih (fun x hx => h x (List.mem_cons_of_mem e hx))]

/-- What a record that has left its queue does: a fault is logged, and a tag counts a task down, raises a vector, or names nothing. -/
def State.actRecord (s : State) (die : Nat) (r : EventRecord) : State :=
  if r.cause != 0 then s.logCtx r.ctx { ErrorRecord.ofKind 8 with cause := r.cause.toNat, core := r.core.toNat, die, taddr := r.faddr }
  else
    let tag := r.tag.toNat
    match natField tag 62 2 with
    | 1 =>
      match s.partOfCtx r.ctx with
      | some p => if onDie p.desc (natField tag 12 2) then s.decrement (natField tag 12 2) (tag % 4096) (natField tag 16 32) else s
      | none => s
    | 2 => match s.ctxOf r.ctx with | some x => s.raiseVector x.vd (tag % 64) | none => s
    | _ => s

theorem eventRecord_acts {die : Nat} {r : EventRecord} {pre post : List (Nat × EventRecord)} {s : State} (hs : s.events = pre ++ (die, r) :: post)
    (h : ∀ e, e ∈ pre → e.1 ≠ die) : exec (.eventRecord die) s = .next (State.actRecord { s with events := pre ++ post } die r) := by
  simp only [exec, execEventRecord, hs, find?_oldest h, drop_oldest h, State.actRecord]
  by_cases hc : (r.cause != 0) = true
  · rw [if_pos hc, if_pos hc]
  · rw [if_neg hc, if_neg hc]
    generalize natField r.tag.toNat 62 2 = names
    match names with
    | 0 => rfl
    | 1 => cases State.partOfCtx { s with events := pre ++ post } r.ctx <;> rfl
    | 2 => cases State.ctxOf { s with events := pre ++ post } r.ctx <;> rfl
    | n + 3 => rfl

theorem SameQueues.actRecord (s : State) (die : Nat) (r : EventRecord) : SameQueues s (s.actRecord die r) := by
  unfold State.actRecord
  split
  · exact SameQueues.logCtx s _ _
  · dsimp only
    split
    · split
      · split
        · exact SameQueues.decrement s _ _ _
        · exact SameQueues.refl s
      · exact SameQueues.refl s
    · split <;> exact SameQueues.refl s
    · exact SameQueues.refl s

/-- The top two bits of a tag say what it names. -/
theorem natField_tag (tag : BitVec 64) : natField tag.toNat 62 2 = tag.toNat / 2 ^ 62 := Nat.mod_eq_of_lt (by have := tag.isLt; omega)

section
variable {s : State} {die : Nat} {r : EventRecord}

theorem State.actRecord_tag (hc : r.cause = 0) {k : Nat} (hk : r.tag.toNat / 2 ^ 62 = k) : natField r.tag.toNat 62 2 = k ∧ (r.cause != 0) = false :=
  ⟨(natField_tag r.tag).trans hk, by simp [hc]⟩

/-- A tag that names a vector raises it. -/
theorem State.actRecord_vector {x : Context} (hc : r.cause = 0) (hk : r.tag.toNat / 2 ^ 62 = 2) (hx : s.ctxOf r.ctx = some x) :
    s.actRecord die r = s.raiseVector x.vd (r.tag.toNat % 64) := by
  obtain ⟨hn, hz⟩ := State.actRecord_tag hc hk
  simp only [State.actRecord, hn, hz, hx, Bool.false_eq_true, if_false]

/-- A tag that names a task of a die that the partition holds counts it down. -/
theorem State.actRecord_task {p : Partition} (hc : r.cause = 0) (hk : r.tag.toNat / 2 ^ 62 = 1) (hp : s.partOfCtx r.ctx = some p)
    (hd : onDie p.desc (r.tag.toNat / 2 ^ 12 % 4) = true) :
    s.actRecord die r = s.decrement (r.tag.toNat / 2 ^ 12 % 4) (r.tag.toNat % 4096) (r.tag.toNat / 2 ^ 16 % 2 ^ 32) := by
  obtain ⟨hn, hz⟩ := State.actRecord_tag hc hk
  have hd' : onDie p.desc (natField r.tag.toNat 12 2) = true := hd
  simp only [State.actRecord, hn, hz, hp, hd', Bool.false_eq_true, if_false, if_true]
  rfl

/-- Any other tag names nothing. -/
theorem State.actRecord_nothing (hc : r.cause = 0) (hk : r.tag.toNat / 2 ^ 62 = 0 ∨ r.tag.toNat / 2 ^ 62 = 3) : s.actRecord die r = s := by
  rcases hk with hk | hk <;>
  · obtain ⟨hn, hz⟩ := State.actRecord_tag hc hk
    simp only [State.actRecord, hn, hz, Bool.false_eq_true, if_false]

end

/-! ### Signals as a whole -/

/-- Settles O56: SIGNAL_ON by what each operation does to the device of its command, signal writes by the store or the message, and records of an event
queue by what their tags name. -/
theorem signalEvents : Obligations.SignalEvents := by
  unfold Obligations.SignalEvents
  intro runs ended vector
  refine ⟨?target, ?mask, ?task, ?word, ?fault, ?write, ?record⟩
  case target => exact fun c v s h hi hp hk => signalOnSetTarget_sets h hi hp hk
  case mask =>
    intro e he c v s h
    simp only [List.mem_cons, List.not_mem_nil, or_false] at he
    rcases he with rfl | rfl
    · exact signalOn_vector h (fun x => { x with mask := true })
    · exact signalOn_vector h (fun x => { x with mask := false })
  case task => exact fun c v s h hr hroom => signalOnTaskArm_arms h hr hroom
  case word => exact fun c v key value met s h ha hroom hw hk => signalOnWordArm_watches h ha hroom hw hk
  case fault => exact fun c v s h ha hw => signalOnWordArm_faults h ha hw
  case write => exact fun vd k v x s hv hx hk hp hm ht hpause hc hbad => signalWrite_writes hv hx hk hp hm ht hpause hc hbad
  case record =>
    intro die r pre post s hs hpre
    let t : State := { s with events := pre ++ post }
    obtain ⟨hmem, hevents⟩ : SameQueues t (t.actRecord die r) := SameQueues.actRecord t die r
    refine ⟨t.actRecord die r, eventRecord_acts hs hpre, hevents, hmem, fun hc hk x hx => ?_, fun hc hk p k hp hd ht hn => ?_,
      fun hc hk => State.actRecord_nothing hc hk⟩
    · rw [State.actRecord_vector (s := t) hc hk hx]
      exact State.raiseVector_oneVector t _ _
    · rw [State.actRecord_task (s := t) hc hk hp hd]
      exact State.decrement_above (s := t) ht hn

end Sys2Proof.Machine
end

section
/-!
PROOFS. The commands of the queues (O55) are refuted by LAUNCH_TASK. The obligation speaks of every state, also of those that no run reaches, in which a
CHECKPOINT_EXPORT that runs bears the identifier of the LAUNCH_TASK. The launch leaves its task waiting for the end of the checkpoint (02 R39); its status then ends
both commands, and the task becomes ready in the same step.
-/
namespace Sys2Proof.Machine

/-- A task record of one stage of one block that depends on nothing, with its save area from 0x200000 on (04 Tables 4-1 and 4-2). -/
def independentTask : List Byte :=
  leBytes 8 placeCode ++ leBytes 8 0 ++ leBytes 8 0x200000 ++ leBytes 8 0x1000000 ++ leBytes 4 0 ++ leBytes 2 0 ++ [1, 0, 0, 0] ++ leBytes 22 0
    ++ leBytes 4 0 ++ (leBytes 4 1 ++ leBytes 4 1 ++ leBytes 4 1) ++ (leBytes 2 32 ++ leBytes 2 1 ++ leBytes 2 1) ++ [1, 4, 16, 0] ++ leBytes 2 1
    ++ leBytes 4 1024 ++ leBytes 16 0 ++ leBytes 144 0

/-- A LAUNCH_TASK of that record, which lies at 0x51000, for context 1 of device 0. -/
def launchOne : JrfCommand :=
  { uid := 20, vd := 0, queue := some 0, die := 0, block := 0x60100, code := 5, flags := 1, ctx := 1, sigvec := 63, body := leBytes 64 0x51000, after := [],
    copied := 0, phase := 0, watch := none, outcome := none }

/-- Its device, which is neither locked nor paused. -/
def launchDevice : VDev :=
  { num := 0, pid := 0, host := 5, configAt := 0, windows := [], queues := [], vectors := [], arms := [], weight := 1, quantum := 0, wall := false, vtime := 0,
    timeOff := 0, pausing := false, paused := none, pausedHb := 0, away := none, gained := false, iface := .unlocked, digest := [], session := false,
    exchanged := false, log := [], logSeq := 0 }

/-- The LAUNCH_TASK in focus, beside a CHECKPOINT_EXPORT of its context that runs and has the same identifier. -/
def twinCommands : State :=
  { State.reset with
    focus := launchOne.uid, dev := (placeMemory [] 0 0).setBytes 0x51000 independentTask, vdevs := [launchDevice],
    contexts := [{ placeContext with saveBase := 0x200000, saveSize := 0x1000000 }], commands := [launchOne, { launchOne with code := 10, phase := 1 }] }

/-- What the launch of the record comes to there, before its command ends. -/
def twinLaunch : State × Except Bad (Nat × Nat) :=
  (twinCommands.noteWork launchOne.ctx).launchAt launchOne.asker launchOne.die launchOne.ctx (launchOne.field 64 8)

/-- The command may run. -/
theorem twinCommands_runs :
    twinCommands.running 5 = some (launchOne, launchDevice) ∧ twinCommands.barred launchOne launchDevice = none ∧ twinCommands.zeroed = [] := by
  decide +kernel

/-- The record is entered as task 0, which the checkpoint keeps from being ready. -/
theorem twinLaunch_waits : ∃ r, twinLaunch = (r, .ok (0, 0)) ∧ r.tasks.map (fun t => t.ready) = [false] := by
  have h : twinLaunch.2.toOption = some (0, 0) ∧ twinLaunch.1.tasks.map (fun t => t.ready) = [false] := by decide +kernel
  rcases e : twinLaunch with ⟨r, a⟩
  obtain ⟨ha, hr⟩ : a.toOption = some (0, 0) ∧ r.tasks.map (fun t => t.ready) = [false] := by rw [e] at h; exact h
  cases a with
  | error b => cases ha
  | ok p => cases ha; exact ⟨r, rfl, hr⟩

/-- Whether each task is ready in the state that a step leads to. -/
def readyAfter : Host.Outcome State Fault Refusal → List Bool
  | .next u => u.tasks.map (fun t => t.ready)
  | _ => []

/-- Once the command has ended, the task is ready. -/
theorem twinCommands_ready : readyAfter (exec .launchTask twinCommands) = [true] := by decide +kernel

/-- Refutes O55: LAUNCH_TASK does not leave the tasks as its launch does where its end is that of a checkpoint too, which has the same identifier. -/
theorem not_commandEvents : ¬ Obligations.CommandEvents := by
  unfold Obligations.CommandEvents
  intro h
  obtain ⟨-, -, -, -, -, -, -, -, launches, -⟩ := h
  obtain ⟨r, hr, hwaits⟩ := twinLaunch_waits
  obtain ⟨u, hu, -, htasks, -⟩ := launches launchOne launchDevice r 0 0 twinCommands twinCommands_runs hr
  have hready := twinCommands_ready
  rw [hu] at hready
  have hsame : u.tasks.map (fun t => t.ready) = [false] := by rw [htasks]; exact hwaits
  exact absurd (hsame.symm.trans hready) (by decide)

end Sys2Proof.Machine
end
